-- ==== Sys2Proof/Word.lean ====
section
/-! DEFINITION. The word types of the FT-620 and the fixed-length table its blocks keep their records in. -/

namespace Sys2Proof

/-- A byte of memory. -/
abbrev Byte := BitVec 8

/-- A word: 32 bits, little-endian in memory (chapter 12). -/
abbrev Word := BitVec 32

/-- A set of sections, stored in memory as a 24-bit mask whose bit s stands for section s (chapter 12). -/
abbrev SecSet := BitVec 24

/-- A set of bands, bit b for band b. -/
abbrev BandSet := BitVec 8

/-- A table of exactly `n` records, as the blocks of the part keep them (R1, R42, R57, R81, R101, R146). -/
structure Table (α : Type) (n : Nat) where
  xs : List α
  len : xs.length = n
  deriving DecidableEq, Repr

/-- Record `i` of a table. -/
def Table.get {α : Type} {n : Nat} (t : Table α n) (i : Fin n) : α :=
  t.xs[i.val]'(by rw [t.len]; exact i.isLt)

/-- The table with record `i` replaced. -/
def Table.set {α : Type} {n : Nat} (t : Table α n) (i : Fin n) (a : α) : Table α n :=
  ⟨t.xs.set i.val a, by rw [List.length_set, t.len]⟩

/-- The table that holds `f i` as its record `i`. -/
def Table.ofFn {α : Type} {n : Nat} (f : Fin n → α) : Table α n :=
  ⟨(List.finRange n).map f, by rw [List.length_map, List.length_finRange]⟩

/-- The table that holds `a` in every record. -/
def Table.fill {α : Type} (n : Nat) (a : α) : Table α n :=
  ⟨List.replicate n a, List.length_replicate⟩

@[simp] theorem Table.get_set_self {α : Type} {n : Nat} (t : Table α n) (i : Fin n) (a : α) :
    (t.set i a).get i = a := by
  simp [Table.get, Table.set]

@[simp] theorem Table.get_set_ne {α : Type} {n : Nat} (t : Table α n) {i j : Fin n} (a : α)
    (h : i ≠ j) : (t.set i a).get j = t.get j := by
  have h' : i.val ≠ j.val := fun e => h (Fin.ext e)
  simp [Table.get, Table.set, List.getElem_set, h']

theorem Table.get_set {α : Type} {n : Nat} (t : Table α n) (i j : Fin n) (a : α) :
    (t.set i a).get j = if i = j then a else t.get j := by
  by_cases h : i = j
  · subst h; simp
  · simp [h]

@[simp] theorem Table.get_ofFn {α : Type} {n : Nat} (f : Fin n → α) (i : Fin n) :
    (Table.ofFn f).get i = f i := by
  simp [Table.get, Table.ofFn]

@[simp] theorem Table.get_fill {α : Type} {n : Nat} (a : α) (i : Fin n) :
    (Table.fill n a).get i = a := by
  simp [Table.get, Table.fill]

/-- Two tables with the same records are the same table. -/
theorem Table.ext_get {α : Type} {n : Nat} {t u : Table α n} (h : ∀ i, t.get i = u.get i) :
    t = u := by
  obtain ⟨xs, hx⟩ := t
  obtain ⟨ys, hy⟩ := u
  have : xs = ys := by
    apply List.ext_getElem (by rw [hx, hy])
    intro i h1 h2
    exact h ⟨i, by rw [← hx]; exact h1⟩
  subst this; rfl

end Sys2Proof
end

