-- ==== Sys2Proof/Syntax.lean ====
section
/-! DEFINITION. The commands of the FT-620: one constructor for each row of spec/opcode_table.json. -/

namespace Sys2Proof

/-- One word of a write burst with its four byte enables (R17). -/
structure BurstWord where
  data : Word
  en : BitVec 4
  deriving DecidableEq, Repr

/-- A write burst as the host presents it: the address of its first word and its words in burst order (R17). -/
structure WriteBurst where
  addr : Nat
  words : List BurstWord
  deriving DecidableEq, Repr

/-- A read burst as the host presents it: the address of its first word and its length in words (R17). -/
structure ReadBurst where
  addr : Nat
  len : Nat
  deriving DecidableEq, Repr

/-- The commands: each is one whole step of the part. `err` is the memory devices' answer to the burst that
completes (true: an error, R32). -/
inductive Instr where
  /-- RESET is driven low (R34). -/
  | reset
  /-- RESET rises with these MSIZE straps and these levels of INC0 to INC5, bit set for HIGH (R19, R147). -/
  | resetRelease (msize : BitVec 2) (levels : BitVec 6)
  /-- The host presents a write burst (R23). -/
  | hostWrite (b : WriteBurst)
  /-- The write held at the system port is classified again (R26). -/
  | heldWriteAccepted
  /-- The host presents a read burst (R22). -/
  | hostRead (b : ReadBurst)
  /-- A held OUTPUT read is released (R114). -/
  | outputReadReleased
  /-- The memory port completes the queued write at the head (R28). -/
  | writeTaken (err : Bool)
  /-- A free pool record is given to the waiting arrival (R107). -/
  | poolRecordGiven
  /-- The memory port completes the passed read (R53). -/
  | readServed (err : Bool)
  /-- The memory port completes a result slot write (R111). -/
  | resultWriteComplete (err : Bool)
  /-- The memory port completes a clip block line fetch (R64). -/
  | clipBlockLineComplete (err : Bool)
  /-- The memory port completes a clip list line read (R60). -/
  | listLineReadComplete (err : Bool)
  /-- Section k's loss deadline is reached (R9). -/
  | lossTimerExpiry (k : Fin 24)
  /-- The reference watchdog deadline is reached (R48). -/
  | watchdogExpiry
  /-- The next free-run time is reached (R48). -/
  | freeRunTime
  /-- The deadline of the OPEN gather of group g at position n is reached (R109). -/
  | gatherDeadline (g : Fin 12) (n : Nat)
  /-- Incident input k changes its level (R148). -/
  | inputEvent (k : Fin 6) (high : Bool)
  /-- Line k's debounce deadline is reached (R149). -/
  | debounceExpiry (k : Fin 6)
  /-- No CLIP write remains queued under a RAISING fence (R24). -/
  | clipFenceUp
  /-- The memory port completes the change record read (R163). -/
  | argumentReadComplete (err : Bool)
  /-- The RELOAD kind is carried out (R168). -/
  | reload
  /-- The memory port completes a plan line read of a load (R168). -/
  | planFetchComplete (err : Bool)
  /-- The flushed result list is empty: the channels are stopped (R171). -/
  | swapChannelStop
  /-- The queue has drained: the new tables become active (R172). -/
  | activationStep
  /-- The memory port completes a read of the section entry of an UPDATE (R14, R173). -/
  | updateSection (err : Bool)
  /-- The memory port completes a read of the group entry of an UPDATE (R115, R173). -/
  | updateGroup (err : Bool)
  /-- The memory port completes a read of the channel entry of an UPDATE (R78, R173). -/
  | updateChannel (err : Bool)
  /-- The memory port completes a read of the line entry of an UPDATE (R157, R173). -/
  | updateLine (err : Bool)
  /-- The START kind is handed to the playout unit (R66). -/
  | start
  /-- The STOP kind is handed to the playout unit (R75). -/
  | stop
  /-- The CONTINUE kind is handed to the playout unit (R72). -/
  | continueChannel
  /-- The ACK kind is handed to the incident unit (R154). -/
  | ack
  /-- The QUIESCE kind is carried out (R174). -/
  | quiesce
  /-- The flushed result list is empty: the part halts (R174). -/
  | quiesceStop
  /-- The RESUME kind is carried out (R175). -/
  | resume
  /-- The memory port completes the change result write-back (R167). -/
  | writeBackComplete (err : Bool)
  /-- The memory port completes a write of the part state or plan generation field (R161). -/
  | headerFieldWriteComplete (err : Bool)
  /-- The memory port completes a mirror record write (R177). -/
  | mirrorWriteComplete (err : Bool)
  /-- The memory port completes a log record write (R180). -/
  | logRecordWriteComplete (err : Bool)
  /-- The memory port completes a write of the producer index and lost count (R180). -/
  | headerBurstComplete (err : Bool)
  deriving DecidableEq, Repr

end Sys2Proof
end

