-- ==== Sys2Proof/Config.lean ====
section
/-! DEFINITION. The free values: what the manual leaves open although the part goes on. None of them has a value that a
proof could use. Each is drawn at `State.free`, which counts the draws. -/

namespace Sys2Proof

/-- Whether a write that is on the memory port when RESET falls has reached the memory devices: "the memory's matter"
(R34). Log entry 6. -/
opaque Config.writeReached : Nat → Bool

/-- When a section's break-in record steps at a block-time event: after this many of the four channels have been handled. Either
order is correct (R91). Log entry 7. -/
opaque Config.stepAt : Nat → Fin 24 → Fin 5

/-- Whether a view read served at the moment of a block-time event sees that event taken at the playout unit: either is correct
(R93). Log entry 40. -/
opaque Config.seesPlay : Nat → Bool

/-- Whether a view read served at the moment of a block-time event sees that event taken at the mixer: either is correct (R93).
Log entry 40. -/
opaque Config.seesGain : Nat → Bool

/-- An unconsumed count that is decremented when it is already 0, by a consumer index that the host moves backward
(R178 states no result). Log entry 8. -/
opaque Config.countBelowZero : Nat → Nat

end Sys2Proof
end

