-- ==== Sys2Proof/Machine/State.lean ====
section
/-! DEFINITION. The state of the FT-620, block by block, as plain data, and the state RESET leaves. -/

namespace Sys2Proof.Machine

/-- Why the machine stops with a fault. -/
inductive Fault where
  /-- Raised by HOST_WRITE and HOST_READ for a transaction that is no burst by R17 (a length outside 1 to 16 words, an
  address that is no word address). Safe: the host's interconnect presents bursts only. Log entry 25. -/
  | malformedBurst
  deriving DecidableEq, Repr

/-- Why a command has no meaning. -/
inductive Refusal where
  /-- Raised by no command of this model: every row of the table has its meaning. Safe. -/
  | notModelled (mnemonic : String)
  deriving DecidableEq, Repr

/-! ### Memory and the memory path -/

/-- The memory behind the part: cells with rising addresses, none holding what an unlisted address reads as. -/
abbrev Memory := List Host.Cell

/-- The part states (R161). -/
inductive PartState where
  | awaitAnchor | anchored | running | halted
  deriving DecidableEq, Repr

/-- The kind of a line: the region kinds and implicit regions of R21, and what a refused write beyond memory is logged as
(chapter 12, line kind). -/
inductive LineKind where
  | plain
  | programme (p : Fin 6)
  | view (p : Fin 6)
  | uplink (g : Fin 12)
  | output (g : Fin 12)
  | clip
  | plan
  | mirror
  | log
  | beyondMemory
  deriving DecidableEq, Repr

/-- A region in force: its kind, base and size in bytes (R21). -/
structure Region where
  kind : LineKind
  base : Nat
  size : Nat
  deriving DecidableEq, Repr

/-- An entry of the posted-write queue (R26): the burst, the classification made as it entered, and which watched words
it covers with all enables (R25). -/
structure QEntry where
  burst : WriteBurst
  kind : LineKind
  watchChange : Bool
  watchConsumer : Bool
  deriving DecidableEq, Repr

/-- The clip fence (R24). -/
inductive Fence where
  | down | raising | up
  deriving DecidableEq, Repr

/-- What a VIEW read carries from classification to service (R52). -/
structure ViewRead where
  sec : Fin 24
  prog : Fin 6
  pos : Nat
  line : Nat
  frames : List Nat
  deriving DecidableEq, Repr

/-- Where the read in progress stands: waiting to be presented or granted (R30), held by the gather engine for the
results still awaited of its key (R114), released from that hold and waiting like any other read, or on the memory port. -/
inductive ReadPhase where
  | waiting
  | held (g : Fin 12) (n : Nat) (awaited : Nat)
  | released (g : Fin 12) (n : Nat)
  | onPort
  deriving DecidableEq, Repr

/-- The read in progress: the host's burst, its kind, the address issued on the memory port, what a VIEW read carries,
and whether it was classified in RUNNING (R22, R41). -/
structure ReadTxn where
  burst : ReadBurst
  kind : LineKind
  memAddr : Nat
  view : Option ViewRead
  mixed : Bool
  phase : ReadPhase
  deriving DecidableEq, Repr

/-- The transaction in progress at the system port: a held write, a read, or a read presented when the activation step was due,
which is classified after that step (R17, R18, R172, log entry 44). -/
inductive Txn where
  | write (b : WriteBurst)
  | read (r : ReadTxn)
  | unclassified (b : ReadBurst)
  deriving DecidableEq, Repr

/-- The responses of R18. -/
inductive Response where
  | data (words : List Word)
  | accept
  | retry
  | error
  deriving DecidableEq, Repr

/-- The memory path (chapter 02). -/
structure MemPath where
  memSize : Nat
  regions : Table (Option Region) 40
  implicit : List Region
  queue : List QEntry
  fence : Fence
  txn : Option Txn
  response : Option Response
  deriving DecidableEq, Repr

/-! ### The memory-port arbiter -/

/-- What a CLIP burst fetches: a line of the block for a play index (R64), or a line of the list (R60). -/
inductive ClipWhat where
  | block (idx : Int) (line : Nat)
  | list (k : Nat)
  deriving DecidableEq, Repr

/-- A CLIP burst: its channel, the use of the channel it belongs to, what it fetches and its address. -/
structure ClipFetch where
  ch : Fin 4
  useNo : Nat
  what : ClipWhat
  addr : Nat
  deriving DecidableEq, Repr

/-- The bursts of the PLAN requester (R35). -/
inductive PlanBurst where
  | argRead
  | loadLine (off : Nat)
  | entryLine (off : Nat)
  | stateField (v : PartState)
  | genField (v : Nat)
  | writeBack (w : Word)
  deriving DecidableEq, Repr

/-- The burst on the memory port, with what was fixed at its grant. -/
inductive PortBurst where
  | read
  | queueHead
  | result
  | clip (f : ClipFetch)
  | plan (b : PlanBurst)
  | mirror (addr : Nat) (line : List Byte)
  | logHeader (producer lost : Nat)
  | logRecord
  deriving DecidableEq, Repr

/-- The requesters of R35. -/
inductive Requester where
  | result | clip | pass | plan | mirror | log
  deriving DecidableEq, Repr

/-- The moment each requester's presented burst was presented; absent where it presents none (R35). -/
structure Waits where
  result : Option Nat
  clip : Option Nat
  pass : Option Nat
  plan : Option Nat
  mirror : Option Nat
  log : Option Nat
  deriving DecidableEq, Repr

/-- The memory-port arbiter: the burst on the port, the CLIP burst presented, the waiting times, the run count, and whether
the burst PASS presents is the read in progress rather than the queue head (R35 to R39). -/
structure Arbiter where
  port : Option PortBurst
  clip : Option ClipFetch
  waits : Waits
  runCount : Nat
  passRead : Bool
  deriving DecidableEq, Repr

/-! ### The plan unit -/

/-- The structural checks of R169, in order. -/
inductive PlanCheck where
  | planArea | alignment | regionEntry | groupKind | ringLength | logLength | logMoved
  | duplicateRegion | missingPair | beyondMemory | overlap | reference
  deriving DecidableEq, Repr

/-- The last plan error (R161). -/
inductive LastError where
  | none
  | check (c : PlanCheck) (entry : Nat)
  | fetch (off : Nat)
  deriving DecidableEq, Repr

/-- The plan descriptors: what the plan header gives (R161, chapter 12). `reference` is the header byte, 255 for NONE. -/
structure Descriptors where
  areaLen : Nat
  regionOff : Nat
  progOff : Nat
  secOff : Nat
  groupOff : Nat
  chanOff : Nat
  lineOff : Nat
  reference : Nat
  attnMask : BitVec 6
  mirrorBase : Nat
  logBase : Nat
  logLen : Nat
  deriving DecidableEq, Repr

/-- The result codes of R167. -/
inductive ResultCode where
  | done | queued | badKind | badArgument | busy | refusedState | planInvalid | memoryError | notInPlan | nothingToAck
  deriving DecidableEq, Repr

/-- The stage of a change in progress (R161). ACTING is told apart by what is being carried out. -/
inductive Stage where
  /-- ARGUMENTS: words 1 to 3 are fetched. -/
  | arguments
  /-- ACTING: decided, to be carried out by the kind's own step. -/
  | handover
  /-- ACTING: a START waits for the clip fence (R165). -/
  | startWait
  /-- ACTING: a RELOAD reads the plan (R168). -/
  | loading
  /-- ACTING: an UPDATE reads its entry, these lines still to come, these bytes read (R173). -/
  | entryFetch (todo : List Nat) (got : List Byte)
  /-- ACTING: the swap's flush of the pool, with the count of clamped fields (R171). -/
  | flushing (clamped : Nat)
  /-- ACTING: the memory path drains for the installation (R33, R171). -/
  | draining (clamped : Nat)
  /-- ACTING: a QUIESCE flushes the pool (R174). -/
  | quiescing
  /-- WRITING_BACK (R167). -/
  | writingBack
  deriving DecidableEq, Repr

/-- The change in progress (R161): the kind byte, word 0 as taken, words 1 to 3, the stage. -/
structure Change where
  kind : Nat
  word0 : Word
  arg1 : Word
  arg2 : Word
  arg3 : Word
  stage : Stage
  deriving DecidableEq, Repr

/-- A line of the plan that a load reads: part 0 is the header, parts 1 to 6 the tables in the order of R168. -/
structure StagedLine where
  part : Fin 7
  off : Nat
  deriving DecidableEq, Repr

/-- The staged plan: the lines still to be read, and the lines read with their 64 bytes (R168). -/
structure Staged where
  todo : List StagedLine
  got : List (StagedLine × List Byte)
  deriving DecidableEq, Repr

/-- The plan unit (R161). `out` holds the bursts it has ready for the PLAN requester, in order. -/
structure PlanUnit where
  anchor : Option Nat
  partState : PartState
  generation : Nat
  memErrors : Nat
  lastError : LastError
  descr : Option Descriptors
  change : Option Change
  staged : Option Staged
  out : List PlanBurst
  deriving DecidableEq, Repr

/-! ### The section supervisor -/

/-- The section states (R1). -/
inductive SectionState where
  | unseen | online | degraded | lost | disabled
  deriving DecidableEq, Repr

/-- A section record (R1). -/
structure SectionRec where
  enabled : Bool
  lossTimeout : Nat
  state : SectionState
  refresh : Nat
  deadline : Option Nat
  feederFault : Bool
  unitAlarm : Bool
  transitions : Nat
  deriving DecidableEq, Repr

/-! ### The programme tracker -/

/-- A programme record (R42). -/
structure ProgRec where
  present : Bool
  base : Nat
  ringLen : Nat
  head : Nat
  gen : Nat
  lastAdvance : Nat
  deriving DecidableEq, Repr

/-- The timing states (R42). -/
inductive Timing where
  | stopped | locked | freeRun
  deriving DecidableEq, Repr

/-- The programme tracker: its records and the timing record (R42). -/
structure Tracker where
  progs : Table ProgRec 6
  reference : Option (Fin 6)
  timing : Timing
  watchdog : Option Nat
  nextFree : Option Nat
  freeCount : Nat
  deriving DecidableEq, Repr

/-! ### The playout unit -/

/-- The channel states (R57). -/
inductive ChanState where
  | idle | priming | playing | held
  deriving DecidableEq, Repr

/-- The underrun policies (R57, R97). -/
inductive Policy where
  | silence | pass
  deriving DecidableEq, Repr

/-- A channel's defaults: duck gain, announcement gain, ramp length, underrun policy (R57). -/
structure ChanDefaults where
  duck : Nat
  ann : Nat
  ramp : Nat
  policy : Policy
  deriving DecidableEq, Repr

/-- The use copies: ramp length, announcement gain, underrun policy (R57). -/
structure UseCopies where
  ramp : Nat
  ann : Nat
  policy : Policy
  deriving DecidableEq, Repr

/-- Who issued a start (R57). -/
inductive Owner where
  | host
  | line (k : Fin 6)
  deriving DecidableEq, Repr

/-- A start: a use to begin, queued, pending or waiting (R66, R70, R76). `reply`: the change in progress awaits its begin. -/
structure Start where
  owner : Owner
  listAddr : Nat
  mask : SecSet
  prio : Nat
  rep : Nat
  reply : Bool
  deriving DecidableEq, Repr

/-- The walk states (R57). -/
inductive WalkState where
  | running | stopped | finished
  deriving DecidableEq, Repr

/-- The position of the list walk (R57). -/
structure Walk where
  entry : Nat
  block : Nat
  next : Int
  st : WalkState
  pass : Bool
  deriving DecidableEq, Repr

/-- A line of the list as read: its number, and its 64 bytes or nothing after a memory error (R60). -/
structure ListLine where
  k : Nat
  bytes : Option (List Byte)
  deriving DecidableEq, Repr

/-- A marker attached to an index (R59): a MARK with its tag and entry number, or a HOLD. -/
inductive Marker where
  | mark (tag : Nat) (entry : Nat)
  | hold
  deriving DecidableEq, Repr

/-- The slot states (R63). -/
inductive SlotState where
  | empty | fetching | ready | silent | bad
  deriving DecidableEq, Repr

/-- A window slot (R63). `presented` counts the lines of its block that have been presented. -/
structure Slot where
  idx : Option Int
  st : SlotState
  src : Option Nat
  presented : Nat
  lines : List (List Byte)
  marks : List Marker
  deriving DecidableEq, Repr

/-- A channel record (R57). `reqRep` is the repeat the use was requested with, kept for a request that returns to the
pending set (R69, R151); `requested` holds the list line reads requested and not yet made (R60); `useNo` tells the uses of
the channel apart (R64). -/
structure Chan where
  st : ChanState
  defaults : ChanDefaults
  owner : Option Owner
  prio : Nat
  mask : SecSet
  listAddr : Nat
  repeats : Nat
  reqRep : Nat
  use : UseCopies
  i : Int
  startPos : Table Nat 6
  walk : Walk
  endIdx : Option Int
  headLine : Option ListLine
  curLine : Option ListLine
  nextLine : Option ListLine
  requested : List Nat
  window : Table Slot 32
  queued : Option Start
  pending : List Start
  waiting : Option Start
  underruns : Nat
  lateReads : Nat
  saturations : Nat
  marksPassed : Nat
  useNo : Nat
  deriving DecidableEq, Repr

/-- The playout unit: its channels, and the channels with a begin waiting in the order in which they came to wait (R67). -/
structure Playout where
  chans : Table Chan 4
  waitOrder : List (Fin 4)
  deriving DecidableEq, Repr

/-! ### The break-in mixer -/

/-- The break-in states (R81). -/
inductive BreakState where
  | clear | settling | announcing | restoring
  deriving DecidableEq, Repr

/-- A section break-in record (R81). -/
structure BreakRec where
  active : Option (Fin 4)
  suspended : Option (Fin 4)
  gain : Nat
  st : BreakState
  restore : Nat
  deriving DecidableEq, Repr

/-- The break-in mixer: its records, and each channel's miss state, true for ARMED (R81, R98). -/
structure Mixer where
  recs : Table BreakRec 24
  armed : Table Bool 4
  deriving DecidableEq, Repr

/-! ### The gather engine -/

/-- The kinds of a group (R101). -/
inductive GroupKind where
  | select | rank
  deriving DecidableEq, Repr

/-- The read policies (R101). -/
inductive ReadPolicy where
  | wait | onRead
  deriving DecidableEq, Repr

/-- The close statuses (R102). -/
inductive CloseStatus where
  | complete | deadline | superseded | evicted | retryLimit | onRead | flushed
  deriving DecidableEq, Repr

/-- The voting parameters (R119). -/
structure VoteParams where
  errorWeight : Nat
  crcBonus : Nat
  hysteresis : Nat
  penalty : Nat
  deriving DecidableEq, Repr

/-- The gating parameters of a band (R132). -/
structure BandParams where
  tOpen : Nat
  tClose : Nat
  hold : Nat
  budget : Nat
  deriving DecidableEq, Repr

/-- The gate state of a band: the sections open, and each section's hold counter (R101). -/
structure GateBand where
  isOpen : SecSet
  hold : Table Nat 24
  deriving DecidableEq, Repr

/-- A group record and the group's own state (R101). -/
structure Group where
  present : Bool
  kind : GroupKind
  set : SecSet
  ringLen : Nat
  uplinkBase : Nat
  outputBase : Nat
  closeDelay : Nat
  policy : ReadPolicy
  retryLimit : Nat
  vote : VoteParams
  bands : Table BandParams 8
  lastWinner : Option (Fin 24)
  gates : Table GateBand 8
  counts : Table Nat 7
  duplicates : Nat
  lates : Nat
  deriving DecidableEq, Repr

/-- The vote contents of a SELECT gather (R120). -/
structure Vote where
  best : Option (Fin 24)
  metric : Nat
  timeslot : Nat
  payload : List Byte
  candidates : Nat
  eligible : Nat
  deriving DecidableEq, Repr

/-- A contributor's stored band report (R133). -/
structure Report8 where
  sec : Fin 24
  codes : List Byte
  feederFault : Bool
  unitAlarm : Bool
  deriving DecidableEq, Repr

/-- A gather record in use (R102). It is OPEN while its close status is absent. -/
structure Gather where
  group : Fin 12
  pos : Nat
  seq : Nat
  firstArrival : Nat
  deadline : Option Nat
  contributors : SecSet
  retries : Nat
  status : Option CloseStatus
  result : List Byte
  vote : Vote
  reports : List Report8
  deriving DecidableEq, Repr

/-- A taken full line that is an arrival (R103): its section, group, position, sequence and 64 bytes. -/
structure Arrival where
  sec : Fin 24
  group : Fin 12
  pos : Nat
  seq : Nat
  line : List Byte
  deriving DecidableEq, Repr

/-- The gather engine: the group table, the OPEN records of the pool in the order in which they opened, the result list
(the CLOSING records in the order of their closes), the arrival waiting on the pool, and whether arrivals are taken. -/
structure GatherEngine where
  groups : Table Group 12
  opens : List Gather
  results : List Gather
  waiting : Option Arrival
  taking : Bool
  deriving DecidableEq, Repr

/-! ### The incident unit -/

/-- The line states (R146). -/
inductive LineState where
  | quiet | debounce | active | latched
  deriving DecidableEq, Repr

/-- The request statuses (R146). -/
inductive ReqStatus where
  | none | running | pending | stopped | refused
  deriving DecidableEq, Repr

/-- An action slot of a line entry (R146, chapter 12), with its arguments as fetched. -/
inductive Action where
  | empty
  | breakin (channel listAddr : Nat) (mask : SecSet) (prio rep : Nat)
  | forceOpen (group : Nat) (bands : BandSet) (mask : SecSet)
  | focus (group : Nat) (mask : SecSet) (bonus : Nat)
  | unknown (kind : Nat)
  deriving DecidableEq, Repr

/-- A line record (R146). `high` is the raw level, `activeLow` the polarity. -/
structure LineRec where
  high : Bool
  enabled : Bool
  activeLow : Bool
  debounce : Nat
  actions : Table Action 3
  state : LineState
  deadline : Option Nat
  acked : Bool
  request : ReqStatus
  reqChannel : Option (Fin 4)
  deriving DecidableEq, Repr

/-! ### The report unit -/

/-- The log record kinds of chapters 11 and 12. -/
inductive LogKind where
  | sectionState | referenceLost | referenceRegained | channelState | markPassed | listError | underrun
  | sectionDropped | sectionRefused | gatherAbnormal | partialUplink | lineState | lineBounce | actionRefused
  | writeRefused | writeLost | memoryError | planLoaded | planRejected | planClamped | changeCollision
  deriving DecidableEq, Repr

/-- The attention classes (R181), in the order of their mask bits. -/
inductive AttnClass where
  | section_ | breakin | gather | incident | memory | plan
  deriving DecidableEq, Repr

/-- A log record: kind, subject, time in ms, two words of detail (R179). -/
structure LogRec where
  kind : LogKind
  subject : Nat
  time : Nat
  d1 : Word
  d2 : Word
  deriving DecidableEq, Repr

/-- What the LOG requester has: nothing presented, a header burst or a record burst presented, or its burst on the port
(R180). -/
inductive LogReq where
  | idle | header | record | onPort
  deriving DecidableEq, Repr

/-- The report unit (R176 to R182). `tags` lists the slots that have a class tag, rising; `header` is the header in memory. -/
structure Report where
  dirty : BitVec 47
  lastWritten : Nat
  mirrorBase : Nat
  logBase : Nat
  logLen : Nat
  attnMask : BitVec 6
  producer : Nat
  consumer : Nat
  lost : Nat
  queue : List LogRec
  tags : List (Nat × AttnClass)
  unconsumed : Table Nat 6
  header : Option (Nat × Nat)
  req : LogReq
  attn : Bool
  deriving DecidableEq, Repr

/-! ### The whole part -/

/-- The state of the part. `pending` is the queue of waiting commands, `free` the number of free values drawn. -/
structure State where
  pending : List Instr
  inReset : Bool
  now : Nat
  free : Nat
  mem : Memory
  path : MemPath
  arb : Arbiter
  plan : PlanUnit
  sections : Table SectionRec 24
  tracker : Tracker
  playout : Playout
  mixer : Mixer
  gather : GatherEngine
  lines : Table LineRec 6
  report : Report
  deriving DecidableEq, Repr

/-! ### Reset values -/

/-- The memory path after RESET (R34). M is sampled when RESET is released (R19); before, 128 MiB (log entry 3). -/
def MemPath.atReset : MemPath where
  memSize := 134217728
  regions := Table.fill 40 none
  implicit := []
  queue := []
  fence := .down
  txn := none
  response := none

/-- No burst presented by any requester. -/
def Waits.clear : Waits := ⟨none, none, none, none, none, none⟩

/-- The arbiter after RESET (R34). -/
def Arbiter.atReset : Arbiter := ⟨none, none, Waits.clear, 0, false⟩

/-- The plan unit after RESET (R161). -/
def PlanUnit.atReset : PlanUnit where
  anchor := none
  partState := .awaitAnchor
  generation := 0
  memErrors := 0
  lastError := .none
  descr := none
  change := none
  staged := none
  out := []

/-- A section record after RESET (R2). -/
def SectionRec.atReset : SectionRec where
  enabled := false
  lossTimeout := 5
  state := .disabled
  refresh := 0
  deadline := none
  feederFault := false
  unitAlarm := false
  transitions := 0

/-- A programme record after RESET (R43). -/
def ProgRec.atReset : ProgRec := ⟨false, 0, 64, 0, 0, 0⟩

/-- The programme tracker after RESET (R43). -/
def Tracker.atReset : Tracker where
  progs := Table.fill 6 ProgRec.atReset
  reference := none
  timing := .stopped
  watchdog := none
  nextFree := none
  freeCount := 0

/-- A walk cleared, with current entry 0 (R58). -/
def Walk.cleared : Walk := ⟨0, 0, 0, .finished, false⟩

/-- An unassigned slot (R63). -/
def Slot.unassigned : Slot := ⟨none, .empty, none, 0, [], []⟩

/-- A channel record after RESET (R58). -/
def Chan.atReset : Chan where
  st := .idle
  defaults := ⟨32768, 0, 1, .silence⟩
  owner := none
  prio := 0
  mask := 0
  listAddr := 0
  repeats := 0
  reqRep := 0
  use := ⟨1, 0, .silence⟩
  i := 0
  startPos := Table.fill 6 0
  walk := Walk.cleared
  endIdx := none
  headLine := none
  curLine := none
  nextLine := none
  requested := []
  window := Table.fill 32 Slot.unassigned
  queued := none
  pending := []
  waiting := none
  underruns := 0
  lateReads := 0
  saturations := 0
  marksPassed := 0
  useNo := 0

/-- The playout unit after RESET (R58). -/
def Playout.atReset : Playout := ⟨Table.fill 4 Chan.atReset, []⟩

/-- A break-in record that is CLEAR at full gain (R83). -/
def BreakRec.atReset : BreakRec := ⟨none, none, 32768, .clear, 0⟩

/-- The break-in mixer after RESET (R83). -/
def Mixer.atReset : Mixer := ⟨Table.fill 24 BreakRec.atReset, Table.fill 4 false⟩

/-- Every gate of a band closed with hold 0. -/
def GateBand.closed : GateBand := ⟨0, Table.fill 24 0⟩

/-- A group record after RESET (R101). -/
def Group.atReset : Group where
  present := false
  kind := .select
  set := 0
  ringLen := 16
  uplinkBase := 0
  outputBase := 0
  closeDelay := 200
  policy := .wait
  retryLimit := 1
  vote := ⟨0, 0, 0, 0⟩
  bands := Table.fill 8 ⟨0, 0, 0, 0⟩
  lastWinner := none
  gates := Table.fill 8 GateBand.closed
  counts := Table.fill 7 0
  duplicates := 0
  lates := 0

/-- The gather engine after RESET (R101, R102). -/
def GatherEngine.atReset : GatherEngine := ⟨Table.fill 12 Group.atReset, [], [], none, false⟩

/-- A line record after RESET (R147). -/
def LineRec.atReset : LineRec where
  high := false
  enabled := false
  activeLow := false
  debounce := 1
  actions := Table.fill 3 .empty
  state := .quiet
  deadline := none
  acked := false
  request := .none
  reqChannel := none

/-- The report unit after RESET (R177, R178, R181, R182). R182 says that the mirror base, the log base and the log length are
forgotten until the next swap and gives no value: they hold 0 (log entry 3). -/
def Report.atReset : Report where
  dirty := 0
  lastWritten := 46
  mirrorBase := 0
  logBase := 0
  logLen := 0
  attnMask := 0
  producer := 0
  consumer := 0
  lost := 0
  queue := []
  tags := []
  unconsumed := Table.fill 6 0
  header := none
  req := .idle
  attn := false

/-- The part as RESET leaves it, with RESET still low, an empty command queue, and memory in which nothing is written. -/
def State.reset : State where
  pending := []
  inReset := true
  now := 0
  free := 0
  mem := []
  path := MemPath.atReset
  arb := Arbiter.atReset
  plan := PlanUnit.atReset
  sections := Table.fill 24 SectionRec.atReset
  tracker := Tracker.atReset
  playout := Playout.atReset
  mixer := Mixer.atReset
  gather := GatherEngine.atReset
  lines := Table.fill 6 LineRec.atReset
  report := Report.atReset

end Sys2Proof.Machine
end

