-- ==== Sys2Proof/Machine/Operands.lean ====
section
/-! DEFINITION. The forms in memory (chapter 12): bytes and words, bursts and lines, the codes, the plan's entries with
their clamping, clip list entries, uplink lines, result slots, mirror records and log records. -/

namespace Sys2Proof.Machine

/-! ### Bytes and words -/

/-- `v` as `n` bytes, little-endian (chapter 12). -/
def le : Nat → Nat → List Byte
  | 0, _ => []
  | n + 1, v => BitVec.ofNat 8 v :: le n (v / 256)

/-- The unsigned value of bytes, little-endian. -/
def ofLe : List Byte → Nat
  | [] => 0
  | b :: bs => b.toNat + 256 * ofLe bs

/-- The unsigned field of `n` bytes at byte offset `off`. -/
def field (l : List Byte) (off n : Nat) : Nat := ofLe ((l.drop off).take n)

/-- `n` bytes of zero. -/
def zeros (n : Nat) : List Byte := List.replicate n 0

/-- `l` filled up with zeros to `n` bytes, as reserved fields are written. -/
def padTo (n : Nat) (l : List Byte) : List Byte := (l ++ zeros (n - l.length)).take n

/-- A word of four bytes, byte 0 first. -/
def w4 (b0 b1 b2 b3 : Nat) : Word :=
  BitVec.ofNat 32 (b0 % 256 + 256 * (b1 % 256) + 65536 * (b2 % 256) + 16777216 * (b3 % 256))

/-- A word of two halves, the low one first. -/
def w2 (lo hi : Nat) : Word := BitVec.ofNat 32 (lo % 65536 + 65536 * (hi % 65536))

/-- A signed value as a word. -/
def wInt (v : Int) : Word := BitVec.ofInt 32 v

/-- An unsigned value as a word. -/
def wNat (v : Nat) : Word := BitVec.ofNat 32 v

/-- The members of a set of sections, ascending. -/
def members (m : SecSet) : List (Fin 24) := (List.finRange 24).filter fun k => m.getLsbD k.val

/-- Membership of section `k` in a set. -/
def has (m : SecSet) (k : Fin 24) : Bool := m.getLsbD k.val

/-- The set holding section `k` alone. -/
def single (k : Fin 24) : SecSet := BitVec.twoPow 24 k.val

/-- The number of members of a set. -/
def card (m : SecSet) : Nat := (members m).length

/-- The set of the sections for which `f` holds. -/
def secSet (f : Fin 24 → Bool) : SecSet :=
  (List.finRange 24).foldl (fun m k => if f k then m ||| single k else m) 0

/-- `some k` where `v` numbers one of `n` things. -/
def toFin? (n v : Nat) : Option (Fin n) := if h : v < n then some ⟨v, h⟩ else none

/-! ### Bursts and lines (R17) -/

/-- The line an address lies in, by number. -/
def lineNo (a : Nat) : Nat := a / 64

/-- The word offset of an address within its line. -/
def wordOff (a : Nat) : Nat := a / 4 % 16

/-- The word offset within the line of word `t` of a burst at `a`: the critical-word-first wrap (R17). -/
def burstWord (a t : Nat) : Nat := (wordOff a + t) % 16

/-- The address of word `t` of a burst at `a`. -/
def burstWordAddr (a t : Nat) : Nat := lineNo a * 64 + 4 * burstWord a t

end Sys2Proof.Machine

namespace Sys2Proof
open Sys2Proof.Machine

/-- The word of a write burst at word offset `k` of its line, if the burst covers it. -/
def WriteBurst.wordAt (b : WriteBurst) (k : Nat) : Option BurstWord :=
  b.words[(k + 16 - wordOff b.addr) % 16]?

/-- A full line: 16 words, every byte enable set (R7, R28). -/
def WriteBurst.fullLine (b : WriteBurst) : Bool :=
  b.words.length == 16 && b.words.all fun w => w.en == 15#4

/-- The burst covers word offset `k` of its line, whatever the enables (R45). -/
def WriteBurst.covers (b : WriteBurst) (k : Nat) : Bool := (b.wordAt k).isSome

/-- The value written to the word at address `a`, when the burst covers it with all four enables set (R25). -/
def WriteBurst.fullWordAt (b : WriteBurst) (a : Nat) : Option Word :=
  if lineNo b.addr = lineNo a then
    match b.wordAt (wordOff a) with
    | some w => if w.en = 15#4 then some w.data else none
    | none => none
  else none

/-- The 64 bytes of the line of a full-line burst, in address order. -/
def WriteBurst.lineBytes (b : WriteBurst) : List Byte :=
  (List.range 16).flatMap fun k =>
    match b.wordAt k with
    | some w => le 4 w.data.toNat
    | none => zeros 4

/-- The bytes a write burst writes, each with its address: those whose enable is set (R17). -/
def WriteBurst.cells (b : WriteBurst) : List (Nat × Byte) :=
  (List.range b.words.length).flatMap fun t =>
    match b.words[t]? with
    | some w =>
      (List.range 4).filterMap fun j =>
        if w.en.getLsbD j then some (burstWordAddr b.addr t + j, BitVec.ofNat 8 (w.data.toNat / 256 ^ j)) else none
    | none => []

end Sys2Proof

namespace Sys2Proof.Machine

/-! ### Codes (chapter 12) -/

def PartState.code : PartState → Nat
  | .awaitAnchor => 0 | .anchored => 1 | .running => 2 | .halted => 3

def SectionState.code : SectionState → Nat
  | .unseen => 0 | .online => 1 | .degraded => 2 | .lost => 3 | .disabled => 4

def BreakState.code : BreakState → Nat
  | .clear => 0 | .settling => 1 | .announcing => 2 | .restoring => 3

def ChanState.code : ChanState → Nat
  | .idle => 0 | .priming => 1 | .playing => 2 | .held => 3

/-- The owner code: 0-5 a line, 6 HOST, 15 none. -/
def ownerCode : Option Owner → Nat
  | some (.line k) => k.val
  | some .host => 6
  | none => 15

/-- A channel or section reference: its number, 255 for none. -/
def refCode {n : Nat} : Option (Fin n) → Nat
  | some k => k.val
  | none => 255

def LineState.code : LineState → Nat
  | .quiet => 0 | .debounce => 1 | .active => 2 | .latched => 3

def ReqStatus.code : ReqStatus → Nat
  | .none => 0 | .running => 1 | .pending => 2 | .stopped => 3 | .refused => 4

/-- The place of a close status among the seven counts. -/
def CloseStatus.idx : CloseStatus → Fin 7
  | .complete => 0 | .deadline => 1 | .superseded => 2 | .evicted => 3 | .retryLimit => 4 | .onRead => 5 | .flushed => 6

def CloseStatus.code (c : CloseStatus) : Nat := c.idx.val + 1

def LineKind.code : LineKind → Nat
  | .plain => 1 | .programme _ => 2 | .view _ => 3 | .uplink _ => 4 | .output _ => 5 | .clip => 6 | .plan => 7
  | .mirror => 8 | .log => 9 | .beyondMemory => 10

def PlanCheck.code : PlanCheck → Nat
  | .planArea => 1 | .alignment => 2 | .regionEntry => 3 | .groupKind => 4 | .ringLength => 5 | .logLength => 6
  | .logMoved => 7 | .duplicateRegion => 8 | .missingPair => 9 | .beyondMemory => 10 | .overlap => 11 | .reference => 12

def ResultCode.code : ResultCode → Nat
  | .done => 1 | .queued => 2 | .badKind => 3 | .badArgument => 4 | .busy => 5 | .refusedState => 6 | .planInvalid => 7
  | .memoryError => 8 | .notInPlan => 9 | .nothingToAck => 10

/-- The stage code of CHANGE_COLLISION: 1 ARGUMENTS, 2 ACTING, 3 WRITING_BACK. -/
def Stage.code : Stage → Nat
  | .arguments => 1
  | .writingBack => 3
  | .handover => 2 | .startWait => 2 | .loading => 2 | .entryFetch _ _ => 2 | .flushing _ => 2 | .draining _ => 2
  | .quiescing => 2

/-- The slot state codes of UNDERRUN, in the order of R63. -/
def SlotState.code : SlotState → Nat
  | .empty => 0 | .fetching => 1 | .ready => 2 | .silent => 3 | .bad => 4

def LogKind.code : LogKind → Nat
  | .sectionState => 1 | .referenceLost => 2 | .referenceRegained => 3 | .channelState => 4 | .markPassed => 5
  | .listError => 6 | .underrun => 7 | .sectionDropped => 8 | .sectionRefused => 9 | .gatherAbnormal => 10
  | .partialUplink => 11 | .lineState => 12 | .lineBounce => 13 | .actionRefused => 14 | .writeRefused => 15
  | .writeLost => 16 | .memoryError => 17 | .planLoaded => 18 | .planRejected => 19 | .planClamped => 20
  | .changeCollision => 21

/-- The attention class of each record kind (chapter 11, record kinds). -/
def LogKind.cls : LogKind → AttnClass
  | .sectionState => .section_ | .referenceLost => .section_ | .referenceRegained => .section_
  | .channelState => .breakin | .markPassed => .breakin | .listError => .breakin | .underrun => .breakin
  | .sectionDropped => .breakin | .sectionRefused => .breakin
  | .gatherAbnormal => .gather | .partialUplink => .gather
  | .lineState => .incident | .lineBounce => .incident | .actionRefused => .incident
  | .writeRefused => .memory | .writeLost => .memory | .memoryError => .memory
  | .planLoaded => .plan | .planRejected => .plan | .planClamped => .plan | .changeCollision => .plan

/-- The bit of an attention class. -/
def AttnClass.bit : AttnClass → Fin 6
  | .section_ => 0 | .breakin => 1 | .gather => 2 | .incident => 3 | .memory => 4 | .plan => 5

/-! ### The plan area -/

/-- The plan header's fields as read from its two lines. -/
def parseHeader (h : List Byte) : Descriptors where
  areaLen := field h 16 4
  regionOff := field h 20 4 / 16 * 16
  progOff := field h 24 4 / 16 * 16
  secOff := field h 28 4 / 16 * 16
  groupOff := field h 32 4 / 16 * 16
  chanOff := field h 36 4 / 16 * 16
  lineOff := field h 40 4 / 16 * 16
  reference := field h 44 1
  attnMask := BitVec.ofNat 6 (field h 45 1)
  mirrorBase := field h 48 4
  logBase := field h 52 4
  logLen := field h 56 4

/-- The offset of table `k` (1 to 6 in the order of R168) within the plan area; 0 for the header. -/
def Descriptors.tableOff (d : Descriptors) (k : Fin 7) : Nat :=
  match k with
  | 0 => 0 | 1 => d.regionOff | 2 => d.progOff | 3 => d.secOff | 4 => d.groupOff | 5 => d.chanOff | 6 => d.lineOff

/-- The size in bytes of the header (part 0) and of the tables (chapter 12). -/
def partSize (k : Fin 7) : Nat :=
  match k with
  | 0 => 128 | 1 => 640 | 2 => 96 | 3 => 192 | 4 => 1536 | 5 => 64 | 6 => 384

/-- The size in bytes of an entry of table `k` (chapter 12). -/
def entrySize (k : Fin 7) : Nat :=
  match k with
  | 0 => 128 | 1 => 16 | 2 => 16 | 3 => 8 | 4 => 128 | 5 => 16 | 6 => 64

/-- The offsets of the lines that hold `size` bytes from offset `off`, ascending. -/
def lineOffs (off size : Nat) : List Nat :=
  (List.range ((off + size + 63) / 64 - off / 64)).map fun j => (off / 64 + j) * 64

/-- The bytes of one part of the staged plan, from the lines read of it. -/
def Staged.part (s : Staged) (d : Descriptors) (k : Fin 7) : List Byte :=
  (((s.got.filter fun x => x.1.part = k).flatMap fun x => x.2).drop (d.tableOff k % 64)).take (partSize k)

/-- Entry `e` of a table. -/
def entryOf (k : Fin 7) (tbl : List Byte) (e : Nat) : List Byte := (tbl.drop (e * entrySize k)).take (entrySize k)

/-- A value clamped to a range, with 1 when it was outside (R170). -/
def clampC (lo hi v : Nat) : Nat × Nat :=
  if v < lo then (lo, 1) else if hi < v then (hi, 1) else (v, 0)

/-- A region entry as fetched: kind byte, number, base, size in lines. -/
structure RawRegion where
  kind : Nat
  num : Nat
  base : Nat
  lines : Nat
  deriving DecidableEq, Repr

def parseRegion (b : List Byte) : RawRegion := ⟨field b 0 1, field b 1 1, field b 4 4, field b 8 4⟩

/-- A section entry clamped: enabled and loss timeout, with the count of clamped fields (R14, R170). -/
def parseSection (b : List Byte) : (Bool × Nat) × Nat :=
  let t := clampC 5 500 (field b 2 2)
  (((field b 0 1).testBit 0, t.1), t.2)

/-- A channel entry clamped (R78), with the count of clamped fields. -/
def parseChannel (b : List Byte) : ChanDefaults × Nat :=
  let d := clampC 0 32768 (field b 0 2)
  let a := clampC 0 32768 (field b 2 2)
  let r := clampC 1 64 (field b 4 1)
  (⟨d.1, a.1, r.1, if (field b 5 1).testBit 0 then .pass else .silence⟩, d.2 + a.2 + r.2)

/-- A group entry, clamped as R115, R119 and R132 state. `kind` is the byte as fetched. -/
structure GroupEntry where
  present : Bool
  kind : Nat
  ringLen : Nat
  set : SecSet
  policy : ReadPolicy
  closeDelay : Nat
  retryLimit : Nat
  vote : VoteParams
  bands : Table BandParams 8
  deriving DecidableEq, Repr

/-- Band `j` of a RANK group entry, clamped (R132). -/
def parseBand (b : List Byte) (j : Fin 8) : BandParams × Nat :=
  let o := 64 + 8 * j.val
  let tOpen := field b o 1
  let tClose := clampC 0 tOpen (field b (o + 1) 1)
  let bud := clampC 0 24 (field b (o + 2) 1)
  let h := clampC 0 255 (field b (o + 4) 2)
  (⟨tOpen, tClose.1, h.1, bud.1⟩, tClose.2 + bud.2 + h.2)

/-- A group entry with the count of clamped fields. The voting parameters are those of a SELECT entry and the gating
parameters those of a RANK entry; the other kind's are not examined and stand at zero. -/
def parseGroup (b : List Byte) : GroupEntry × Nat :=
  let kind := field b 1 1
  let cd := clampC 200 20000 (field b 8 2)
  let rl := clampC 1 255 (field b 10 1)
  let w := clampC 0 15 (field b 12 1)
  let h := clampC 0 63 (field b 14 1)
  let isRank := kind = 2
  let vote : VoteParams := if isRank then ⟨0, 0, 0, 0⟩ else ⟨w.1, field b 13 1, h.1, field b 15 1⟩
  let bands : Table BandParams 8 := if isRank then Table.ofFn fun j => (parseBand b j).1 else Table.fill 8 ⟨0, 0, 0, 0⟩
  let n := if isRank then ((List.finRange 8).map fun j => (parseBand b j).2).sum else w.2 + h.2
  (⟨(field b 0 1).testBit 0, kind, field b 2 2, BitVec.ofNat 24 (field b 4 3),
    if (field b 7 1).testBit 0 then .onRead else .wait, cd.1, rl.1, vote, bands⟩, cd.2 + rl.2 + n)

/-- The kind a group entry's byte names, if any. -/
def groupKindOf (kind : Nat) : Option GroupKind :=
  if kind = 1 then some .select else if kind = 2 then some .rank else none

/-- An action slot of a line entry. -/
def parseAction (b : List Byte) : Action :=
  match field b 0 1 with
  | 0 => .empty
  | 1 => .breakin (field b 1 1) (field b 4 4) (BitVec.ofNat 24 (field b 8 4)) (field b 2 1) (field b 3 1 % 16)
  | 2 => .forceOpen (field b 1 1) (BitVec.ofNat 8 (field b 2 1)) (BitVec.ofNat 24 (field b 8 4))
  | 3 => .focus (field b 1 1) (BitVec.ofNat 24 (field b 8 4)) (field b 2 1)
  | k => .unknown k

/-- A line entry, clamped (R156). -/
structure LineEntry where
  enabled : Bool
  activeLow : Bool
  debounce : Nat
  actions : Table Action 3
  deriving DecidableEq, Repr

/-- A line entry with the count of clamped fields (R156). -/
def parseLine (b : List Byte) : LineEntry × Nat :=
  let d := clampC 1 255 (field b 1 1)
  (⟨(field b 0 1).testBit 0, (field b 0 1).testBit 1, d.1,
    Table.ofFn fun j : Fin 3 => parseAction (b.drop (16 + 16 * j.val))⟩, d.2)

/-! ### Clip lists -/

/-- A clip list entry (chapter 04, chapter 12). -/
inductive ListEntry where
  | clip (addr len : Nat)
  | mark (tag : Nat)
  | hold
  | finish
  | bad
  deriving DecidableEq, Repr

def parseListEntry (b : List Byte) : ListEntry :=
  match field b 0 1 with
  | 1 => .clip (field b 4 4) (field b 2 2)
  | 2 => .mark (field b 2 2)
  | 3 => .hold
  | 4 => .finish
  | _ => .bad

/-! ### Uplink lines -/

/-- The sequence of an uplink line, of either kind (R118, R131). -/
def uplinkSeq (l : List Byte) : Nat := field l 0 2

/-- Bit `j` of the flag byte of an uplink line: SYNC and CRC_OK, or FEEDER_FAULT and UNIT_ALARM. -/
def uplinkFlag (l : List Byte) (j : Nat) : Bool := (field l 3 1).testBit j

/-! ### Result slots (R112, R127, R140) -/

/-- The fields common to both kinds: sequence, status, contributor count, contributor mask, expected count. -/
def resultCommon (g : Gather) (st : CloseStatus) (expected : Nat) : List Byte :=
  le 2 g.seq ++ le 1 st.code ++ le 1 (card g.contributors) ++ le 3 g.contributors.toNat ++ le 1 expected

/-- A SELECT result line (R127). -/
def resultSelect (g : Gather) (st : CloseStatus) (expected : Nat) : List Byte :=
  resultCommon g st expected ++ le 1 (refCode g.vote.best) ++ le 1 g.vote.eligible ++ le 1 g.vote.timeslot ++ zeros 1
    ++ le 2 g.vote.metric ++ zeros 2 ++ padTo 48 g.vote.payload

/-- The gate map of a band: the masks of R140. -/
structure GateMap where
  opened : SecSet
  forced : SecSet
  denied : SecSet
  deriving DecidableEq, Repr

/-- The gate code of a section in a band: 0 CLOSED, 1 OPEN, 2 FORCED, 3 DENIED. -/
def GateMap.codeOf (m : GateMap) (k : Fin 24) : Nat :=
  if has m.forced k then 2 else if has m.opened k then 1 else if has m.denied k then 3 else 0

/-- The 48-bit field of a band's gate codes: section s at bits 2s and 2s + 1. -/
def GateMap.field48 (m : GateMap) : Nat :=
  ((List.finRange 24).map fun k => m.codeOf k * 4 ^ k.val).sum

/-- A RANK result line (R140). -/
def resultRank (g : Gather) (st : CloseStatus) (expected : Nat) (maps : Table GateMap 8) : List Byte :=
  resultCommon g st expected ++ zeros 8 ++ (List.finRange 8).flatMap fun b => le 6 (maps.get b).field48

/-! ### Log records -/

/-- A log record's 16 bytes. -/
def LogRec.bytes (r : LogRec) : List Byte :=
  le 1 r.kind.code ++ zeros 1 ++ le 2 r.subject ++ le 4 r.time ++ le 4 r.d1.toNat ++ le 4 r.d2.toNat

/-! ### Mirror records (R176), without the capture time -/

def mirrorPart (p : PlanUnit) : List Byte :=
  le 1 p.partState.code ++ zeros 1 ++ le 2 p.generation ++
    (match p.lastError with
     | .none => le 1 0 ++ le 1 0 ++ le 2 p.memErrors ++ le 4 0
     | .check c e => le 1 c.code ++ le 1 e ++ le 2 p.memErrors ++ le 4 0
     | .fetch off => le 1 13 ++ le 1 255 ++ le 2 p.memErrors ++ le 4 off)

def mirrorSection (r : SectionRec) (b : BreakRec) : List Byte :=
  le 1 r.state.code ++ le 1 ((if r.feederFault then 1 else 0) + (if r.unitAlarm then 2 else 0)) ++ le 2 r.transitions
    ++ le 1 (refCode b.active) ++ le 1 (refCode b.suspended) ++ le 1 b.st.code ++ zeros 1 ++ le 2 b.gain

def mirrorChan (c : Chan) : List Byte :=
  le 1 c.st.code ++ le 1 (ownerCode c.owner) ++ le 1 c.prio ++ le 1 c.repeats ++ le 2 c.walk.entry ++ zeros 2
    ++ le 4 (wInt c.i).toNat ++ le 2 c.underruns ++ le 2 c.lateReads ++ le 2 c.saturations ++ le 2 c.marksPassed

def mirrorGroup (openCount : Nat) (g : Group) : List Byte :=
  le 1 openCount ++ le 1 (refCode g.lastWinner) ++ (List.finRange 7).flatMap (fun t => le 2 (g.counts.get t))
    ++ le 2 g.duplicates ++ le 2 g.lates

def mirrorLine (l : LineRec) : List Byte :=
  le 1 l.state.code ++ le 1 (if l.acked then 1 else 0) ++ le 1 l.request.code

end Sys2Proof.Machine
end

