-- ==== Sys2Proof/Machine/Flags.lean ====
section
/-! DEFINITION. The counters' arithmetic and the conditions that several blocks read: counting, a plan in force, section
eligibility, an incident line in force, attention. -/

namespace Sys2Proof.Machine

/-- A 16-bit counter incremented, saturating at 65535 (R15, R32, R101, R178). -/
def bump (n : Nat) : Nat := min (n + 1) 65535

/-- A 16-bit generation incremented, wrapping from 65535 to 0 (R42, R161). -/
def wrap16 (n : Nat) : Nat := (n + 1) % 65536

/-- A plan is in force: RUNNING or HALTED (R162). -/
def PartState.inForce : PartState → Bool
  | .awaitAnchor => false | .anchored => false | .running => true | .halted => true

/-- A section is eligible: UNSEEN, ONLINE or DEGRADED. -/
def SectionState.eligible : SectionState → Bool
  | .unseen => true | .online => true | .degraded => true | .lost => false | .disabled => false

/-- A channel is live: PRIMING, PLAYING or HELD. -/
def ChanState.live : ChanState → Bool
  | .idle => false | .priming => true | .playing => true | .held => true

/-- A line is in force: ACTIVE or LATCHED (R146). -/
def LineState.inForce : LineState → Bool
  | .quiet => false | .debounce => false | .active => true | .latched => true

/-- The input of a line is active: HIGH under ACTIVE_HIGH, LOW under ACTIVE_LOW (R146). -/
def LineRec.inputActive (l : LineRec) : Bool := l.high != l.activeLow

/-- ATTN: some class in the attention mask has an unconsumed count above 0 (R181). -/
def attnOf (mask : BitVec 6) (counts : Table Nat 6) : Bool :=
  (List.finRange 6).any fun c => mask.getLsbD c.val && decide (0 < counts.get c)

/-- The number of unconsumed records: (producer index - consumer index) mod length (R178). -/
def Report.unconsumedNum (r : Report) : Nat := (r.producer + (r.logLen - r.consumer % r.logLen)) % r.logLen

/-- A record falling due finds room: unconsumed and queued records number fewer than length - 1 (R178, R179). -/
def Report.room (r : Report) : Bool := decide (r.unconsumedNum + r.queue.length + 1 < r.logLen)

/-- The header burst is due: the header in memory is unknown or differs (R180). -/
def Report.headerDue (r : Report) : Bool := r.header != some (r.producer, r.lost)

/-- The slot after the producer index is not the consumer index (R180). -/
def Report.slotFree (r : Report) : Bool := (r.producer + 1) % r.logLen != r.consumer

/-- The step Δ of a channel from its duck gain and its use's ramp length: ceil((32768 - d) / R), and 1 when d is 32768
(R82). -/
def rampStep (d ramp : Nat) : Nat := if d = 32768 then 1 else (32768 - d + (ramp - 1)) / ramp

/-- A deadline has been reached. -/
def reached (deadline : Option Nat) (now : Nat) : Bool :=
  match deadline with
  | some d => decide (d ≤ now)
  | none => false

end Sys2Proof.Machine
end

