-- ==== Sys2Proof/WellFormed.lean ====
section
/-! DEFINITION. Which commands are well formed: a transaction must be a burst by R17 and lie in the 32-bit address
space of chapter 12. Every other operand is in range by its type. -/

namespace Sys2Proof

/-- The first-word address of a burst: a word address, 32 bits (R17, chapter 12). -/
def wfAddr (a : Nat) : Bool := a % 4 == 0 && decide (a < 4294967296)

/-- The length of a burst: 1 to 16 words (R17). -/
def wfLen (m : Nat) : Bool := decide (1 ≤ m) && decide (m ≤ 16)

/-- A command that the host can present, or an event of the part. -/
def Instr.wf : Instr → Bool
  | .hostWrite b => wfAddr b.addr && wfLen b.words.length
  | .hostRead b => wfAddr b.addr && wfLen b.len
  | _ => true

end Sys2Proof
end

