-- ==== Sys2Proof/Machine/Ops.lean ====
section
/-! DEFINITION. The named operations that every block uses: memory, the records of each block, region classification,
mirror marks, log records, memory errors, the change in progress, free values. -/

namespace Sys2Proof.Machine

/-! ### Memory -/

/-- What a byte that no cell lists reads as. DESIGN CHOICE, unsafe: log entry 4. -/
def unlisted : Byte := 0

/-- The byte at an address. -/
def Memory.read : Memory → Nat → Byte
  | [], _ => unlisted
  | (a, v) :: m, x => if x = a then v else Memory.read m x

/-- A byte written. The cells stay in rising order, and a byte that reads as an unlisted one is not listed. -/
def Memory.write : Memory → Nat → Byte → Memory
  | [], x, w => if w = unlisted then [] else [(x, w)]
  | (a, v) :: m, x, w =>
    if x < a then (if w = unlisted then (a, v) :: m else (x, w) :: (a, v) :: m)
    else if x = a then (if w = unlisted then m else (a, w) :: m)
    else (a, v) :: Memory.write m x w

/-- Several bytes written, in order. -/
def Memory.writeCells (m : Memory) (cells : List (Nat × Byte)) : Memory :=
  cells.foldl (fun acc c => Memory.write acc c.1 c.2) m

/-- Consecutive bytes from an address, each with its address. -/
def cellsFrom (a : Nat) : List Byte → List (Nat × Byte)
  | [] => []
  | b :: bs => (a, b) :: cellsFrom (a + 1) bs

/-- `n` bytes from an address. -/
def Memory.bytes (m : Memory) (a n : Nat) : List Byte := (List.range n).map fun j => Memory.read m (a + j)

/-- The word at a word address, little-endian (chapter 12). -/
def Memory.word (m : Memory) (a : Nat) : Word := BitVec.ofNat 32 (ofLe (Memory.bytes m a 4))

/-- The words of a read burst, in burst order (R17). -/
def Memory.burst (m : Memory) (a len : Nat) : List Word := (List.range len).map fun t => Memory.word m (burstWordAddr a t)

/-- The canonical form, from a lowest address on: addresses rise, and no cell holds what an unlisted address reads as. -/
def Memory.wfFrom : Nat → Memory → Bool
  | _, [] => true
  | lo, (a, v) :: m => decide (lo ≤ a) && v != unlisted && Memory.wfFrom (a + 1) m

/-- The memory has its canonical form. -/
def Memory.wf (m : Memory) : Bool := Memory.wfFrom 0 m

/-! ### The records of the blocks -/

def State.sec (s : State) (k : Fin 24) : SectionRec := s.sections.get k
def State.setSec (s : State) (k : Fin 24) (r : SectionRec) : State := { s with sections := s.sections.set k r }
def State.prog (s : State) (p : Fin 6) : ProgRec := s.tracker.progs.get p
def State.chan (s : State) (c : Fin 4) : Chan := s.playout.chans.get c
def State.setChan (s : State) (c : Fin 4) (r : Chan) : State :=
  { s with playout := { s.playout with chans := s.playout.chans.set c r } }
def State.brk (s : State) (k : Fin 24) : BreakRec := s.mixer.recs.get k
def State.setBrk (s : State) (k : Fin 24) (r : BreakRec) : State :=
  { s with mixer := { s.mixer with recs := s.mixer.recs.set k r } }
def State.armed (s : State) (c : Fin 4) : Bool := s.mixer.armed.get c
def State.setArmed (s : State) (c : Fin 4) (v : Bool) : State :=
  { s with mixer := { s.mixer with armed := s.mixer.armed.set c v } }
def State.grp (s : State) (g : Fin 12) : Group := s.gather.groups.get g
def State.setGrp (s : State) (g : Fin 12) (r : Group) : State :=
  { s with gather := { s.gather with groups := s.gather.groups.set g r } }
def State.line (s : State) (k : Fin 6) : LineRec := s.lines.get k
def State.setLine (s : State) (k : Fin 6) (r : LineRec) : State := { s with lines := s.lines.set k r }

/-- A plan is in force. -/
def State.inForce (s : State) : Bool := s.plan.partState.inForce

/-! ### Regions (R21) -/

/-- The region covers the line of an address. PLAN's last line is covered even where the area length ends within it (log
entry 16). -/
def Region.covers (r : Region) (a : Nat) : Bool := decide (r.base ≤ a ∧ a / 64 * 64 < r.base + r.size)

/-- The regions in force: the table's used entries and the implicit ones. -/
def MemPath.allRegions (p : MemPath) : List Region := p.regions.xs.filterMap id ++ p.implicit

/-- The region whose lines include the line of an address. -/
def MemPath.regionAt (p : MemPath) (a : Nat) : Option Region := p.allRegions.find? fun r => r.covers a

/-- The kind of the line of an address under the table in force; a line in no region is PLAIN (R21). -/
def MemPath.kindAt (p : MemPath) (a : Nat) : LineKind :=
  match p.regionAt a with
  | some r => r.kind
  | none => .plain

/-- The CLIP region an address lies in. -/
def MemPath.clipRegion (p : MemPath) (a : Nat) : Option Region :=
  p.allRegions.find? fun r => r.kind = .clip && r.covers a

/-- The base of the VIEW region of a programme in force. -/
def MemPath.baseOf (p : MemPath) (k : LineKind) : Nat :=
  match p.allRegions.find? fun r => r.kind = k with
  | some r => r.base
  | none => 0

/-- A queued write covers the line of an address. The head write that is taken and waits on the pool no longer counts:
it is in memory (log entry 13). -/
def State.queuedOn (s : State) (a : Nat) : Bool :=
  (if s.gather.waiting.isSome then s.path.queue.tail else s.path.queue).any fun e => lineNo e.burst.addr = lineNo a

/-- The queue holds a write to a CLIP line (R24). -/
def State.clipQueued (s : State) : Bool := s.path.queue.any fun e => e.kind = .clip

/-! ### Mirror marks (R177) -/

def mirrorOfSec (k : Fin 24) : Nat := k.val + 1
def mirrorOfChan (c : Fin 4) : Nat := c.val + 25
def mirrorOfGroup (g : Fin 12) : Nat := g.val + 29
def mirrorOfLine (k : Fin 6) : Nat := k.val + 41

/-- Mirror record `m` becomes dirty, while a plan is in force. -/
def State.mark (s : State) (m : Nat) : State :=
  { s with report := if s.inForce then { s.report with dirty := s.report.dirty ||| BitVec.twoPow 47 m } else s.report }

/-- Mirror record `m` becomes dirty when `changed` holds. -/
def State.markIf (s : State) (changed : Bool) (m : Nat) : State :=
  { s with report := if changed && s.inForce then { s.report with dirty := s.report.dirty ||| BitVec.twoPow 47 m }
      else s.report }

/-! ### Log records (R179, R180) -/

/-- The LOG requester chooses a burst when it has none: the header burst when due, else the record at the head of the log
queue when the ring has a slot for it (R180). -/
def Report.choose (r : Report) : Report :=
  match r.req with
  | .idle =>
    if r.headerDue then { r with req := .header }
    else if !r.queue.isEmpty && r.slotFree then { r with req := .record }
    else r
  | _ => r

/-- A record falls due while a plan is in force: queued where there is room, otherwise lost (R179). -/
def Report.enqueue (r : Report) (e : LogRec) : Report :=
  (if r.room then { r with queue := r.queue ++ [e] } else { r with lost := bump r.lost }).choose

/-- The whole milliseconds of the timebase, as 32 bits (R176, R179). -/
def ms32 (now : Nat) : Nat := now / 1000 % 4294967296

/-- A log record falls due (R179). Without a plan in force it is discarded (R162). -/
def State.log (s : State) (kind : LogKind) (subject : Nat) (d1 d2 : Word) : State :=
  { s with report := if s.inForce then s.report.enqueue ⟨kind, subject, ms32 s.now, d1, d2⟩ else s.report }

/-! ### Memory errors (R32) -/

/-- The memory errors count increments, saturating; a change makes the part record dirty (R32, R161). -/
def State.memError (s : State) : State :=
  { s with
    plan := { s.plan with memErrors := bump s.plan.memErrors }
    report := if s.plan.memErrors < 65535 && s.inForce then { s.report with dirty := s.report.dirty ||| BitVec.twoPow 47 0 }
      else s.report }

/-! ### The change in progress -/

/-- The word written back to change word 0: kind NONE, the result, and for PLAN_INVALID the check and entry (R167). -/
def resultWord (r : ResultCode) (check entry : Nat) : Word := w4 0 r.code check entry

/-- The change goes to WRITING_BACK with a result: its write-back is ready behind the header field writes, if any. -/
def State.finishWith (s : State) (r : ResultCode) (check entry : Nat) : State :=
  { s with plan :=
      match s.plan.change with
      | some c =>
        { s.plan with change := some { c with stage := .writingBack }
                      out := s.plan.out ++ [.writeBack (resultWord r check entry)] }
      | none => s.plan }

/-- The change goes to WRITING_BACK with a result whose detail is zero. -/
def State.finish (s : State) (r : ResultCode) : State := s.finishWith r 0 0

/-- The stage of the change in progress is replaced. -/
def State.setStage (s : State) (st : Stage) : State :=
  { s with plan :=
      match s.plan.change with
      | some c => { s.plan with change := some { c with stage := st } }
      | none => s.plan }

/-- The stage of the change in progress, if there is one. -/
def State.stage (s : State) : Option Stage := s.plan.change.map Change.stage

/-- The plan unit has a further burst ready for the PLAN requester. -/
def State.planOut (s : State) (b : PlanBurst) : State := { s with plan := { s.plan with out := s.plan.out ++ [b] } }

/-- The address of a burst of the PLAN requester (chapter 12). -/
def PlanBurst.addr (anchor : Nat) : PlanBurst → Nat
  | .argRead => anchor
  | .loadLine off => anchor + off
  | .entryLine off => anchor + off
  | .stateField _ => anchor + 80
  | .genField _ => anchor + 76
  | .writeBack _ => anchor

/-- The anchor, where it is captured. -/
def State.anchorAddr (s : State) : Nat := s.plan.anchor.getD 0

end Sys2Proof.Machine
end

