-- ==== Sys2Proof/Machine/Mixer.lean ====
section
/-! DEFINITION. The break-in mixer (chapter 05): joins, releases, gain steps and the mixing of view reads. -/

namespace Sys2Proof.Machine

/-- The duck gain of a channel, read from its defaults when it is needed (R82). -/
def State.duck (s : State) (c : Fin 4) : Nat := (s.chan c).defaults.duck

/-- The step Δ of a channel: its duck gain and the ramp length of the use now on it (R82). -/
def State.delta (s : State) (c : Fin 4) : Nat := rampStep (s.duck c) (s.chan c).use.ramp

/-- A break-in record replaced. The section's mirror record becomes dirty when its state, active or suspended channel
changed (R99). -/
def State.putBrk (s : State) (k : Fin 24) (b : BreakRec) : State :=
  let old := s.brk k
  (s.setBrk k b).markIf (old.st != b.st || old.active != b.active || old.suspended != b.suspended) (mirrorOfSec k)

/-! ### Joins (R84, R85) -/

/-- SECTION_DROPPED: `e` dropped from section `k` by the join of `c` (R85). -/
def State.logDropped (s : State) (k : Fin 24) (e c : Fin 4) (prio : Nat) : State :=
  s.log .sectionDropped k.val (w4 e.val (s.chan e).prio c.val prio) 0

/-- The priority of an optional channel, 0 for an empty slot. -/
def State.prioOf (s : State) (e : Option (Fin 4)) : Nat :=
  match e with
  | some c => (s.chan c).prio
  | none => 0

/-- SECTION_REFUSED: channel `c` refused by section `k` (R85). -/
def State.logRefused (s : State) (k : Fin 24) (c : Fin 4) (prio : Nat) (b : BreakRec) : State :=
  s.log .sectionRefused k.val (w4 c.val prio (refCode b.active) (s.prioOf b.active))
    (w4 (refCode b.suspended) (s.prioOf b.suspended) 0 0)

/-- The drop, if any, of the channel that was suspended in a section. -/
def State.dropSuspended (s : State) (k : Fin 24) (e : Option (Fin 4)) (c : Fin 4) (prio : Nat) : State :=
  match e with
  | some d => s.logDropped k d c prio
  | none => s

/-- The join of channel `c` with its priority, decided on section `k`'s own record (R84). -/
def joinSection (c : Fin 4) (prio : Nat) (s : State) (k : Fin 24) : State :=
  let b := s.brk k
  if (s.sec k).state = .disabled then s
  else
    match b.active with
    | none => s.putBrk k { b with active := some c, st := .settling }
    | some a =>
      if (s.chan a).prio < prio then
        (s.putBrk k { b with active := some c, suspended := some a, st := .settling }).dropSuspended k b.suspended c prio
      else if prio < (s.chan a).prio && (b.suspended.isNone || decide (s.prioOf b.suspended < prio)) then
        (s.putBrk k { b with suspended := some c }).dropSuspended k b.suspended c prio
      else s.logRefused k c prio b

/-- A join takes the sections of the mask in ascending order and sets the channel's miss state to QUIET (R84). -/
def State.join (s : State) (c : Fin 4) (mask : SecSet) (prio : Nat) : State :=
  ((members mask).foldl (joinSection c prio) s).setArmed c false

/-! ### Releases (R86, R87) -/

/-- A release of channel `c` with ramps, on section `k`'s record (R86). -/
def releaseSection (c : Fin 4) (s : State) (k : Fin 24) : State :=
  let b := s.brk k
  if b.active = some c then
    match b.suspended with
    | some e => s.putBrk k { b with active := some e, suspended := none, st := .settling }
    | none => s.putBrk k { b with active := none, st := .restoring, restore := s.delta c }
  else if b.suspended = some c then s.putBrk k { b with suspended := none }
  else s

/-- A release of channel `c` with ramps (R86). -/
def State.release (s : State) (c : Fin 4) : State := (List.finRange 24).foldl (releaseSection c) s

/-- A release of section `k` without ramps: CLEAR at full gain at once, the restore step left as it was (R87). -/
def State.clearSection (s : State) (k : Fin 24) : State :=
  s.putBrk k { s.brk k with active := none, suspended := none, gain := 32768, st := .clear }

/-- Every section released without ramps, and every channel's miss state QUIET (R87, R100). -/
def State.clearAll (s : State) : State :=
  let s1 := (List.finRange 24).foldl State.clearSection s
  { s1 with mixer := { s1.mixer with armed := Table.fill 4 false } }

/-! ### Gain at block time (R88 to R90) -/

/-- A gain moved toward a target by at most a step (R88). -/
def moveGain (g target step : Nat) : Nat :=
  if target < g then max target (g - step) else min target (g + step)

/-- Section `k`'s record after one block-time event (R88, R89, R90). -/
def State.stepped (s : State) (k : Fin 24) : BreakRec :=
  let b := s.brk k
  match b.st, b.active with
  | .settling, some c =>
    let g := moveGain b.gain (s.duck c) (s.delta c)
    { b with gain := g, st := if g = s.duck c then .announcing else .settling }
  | .announcing, some c => if b.gain = s.duck c then b else { b with st := .settling }
  | .restoring, _ =>
    let g := min 32768 (b.gain + b.restore)
    { b with gain := g, st := if g = 32768 then .clear else .restoring }
  | _, _ => b

/-- Section `k` takes its step at a block-time event. -/
def stepSection (s : State) (k : Fin 24) : State := s.putBrk k (s.stepped k)

/-- The sections of a set take their step at a block-time event. -/
def State.stepGains (s : State) (m : SecSet) : State := (members m).foldl stepSection s

/-! ### Mixing (R93 to R98) -/

/-- The left half of a word, signed. -/
def leftOf (w : Word) : Int := (w.extractLsb' 0 16).toInt

/-- The right half of a word, signed. -/
def rightOf (w : Word) : Int := (w.extractLsb' 16 16).toInt

/-- A word of two halves. -/
def stereo (l r : Int) : Word := (BitVec.ofInt 16 r) ++ (BitVec.ofInt 16 l)

/-- The quotient of R94 and R96 before the clamp: floor((x × g + y × a + 16384) / 32768). -/
def mixRaw (g a : Nat) (x y : Int) : Int := (x * g + y * a + 16384) / 32768

/-- A value clamped to -32768 … 32767 (R96). -/
def clamp16 (v : Int) : Int := max (-32768) (min 32767 v)

/-- A half-sample mixed (R96), or with gain alone when the announcement gain is 0 (R94). -/
def mixHalf (g a : Nat) (x y : Int) : Int := clamp16 (mixRaw g a x y)

/-- The mixing of a half-sample was clamped (R96). -/
def clipped (g a : Nat) (x y : Int) : Bool := mixHalf g a x y != mixRaw g a x y

/-- A word mixed with an announcement word, half by half (R96). -/
def mixWord (g a : Nat) (x y : Word) : Word :=
  stereo (mixHalf g a (leftOf x) (leftOf y)) (mixHalf g a (rightOf x) (rightOf y))

/-- Some half of a word was clamped. -/
def wordClipped (g a : Nat) (x y : Word) : Bool :=
  clipped g a (leftOf x) (leftOf y) || clipped g a (rightOf x) (rightOf y)

/-- The slot number of an index (R63). -/
def slotNo (x : Int) : Fin 32 := ⟨(x % 32).toNat, by omega⟩

/-- The slot that holds an index. -/
def Chan.slot (ch : Chan) (x : Int) : Slot := ch.window.get (slotNo x)

/-- Frame `f` of a block held in a slot: word f mod 16 of line f / 16 (chapter 12). -/
def Slot.frame (sl : Slot) (f : Nat) : Word := BitVec.ofNat 32 (field (sl.lines.getD (f / 16) []) (4 * (f % 16)) 4)

/-- The announcement index of a read at ring position `n` (R95). -/
def annIndex (n startPos ringLen : Nat) (i : Int) : Int :=
  let u := ((n : Int) - startPos) % ringLen
  if i + 23 < u then u - ringLen else u

/-- What the announcement gives a read (R95): silence, the block of a READY slot, or a miss, late or with the slot state
met. -/
inductive AnnCase where
  | silence
  | ready (sl : Slot)
  | late
  | unready (st : SlotState)
  deriving DecidableEq, Repr

/-- The case of R95 for an announcement index. -/
def Chan.annCase (ch : Chan) (u : Int) : AnnCase :=
  if u < 0 then .silence
  else if u < ch.i - 8 then .late
  else
    match (ch.slot u).st with
    | .ready => .ready (ch.slot u)
    | .silent => .silence
    | st => .unready st

/-- UNDERRUN (R98). -/
def State.logUnderrun (s : State) (c : Fin 4) (k : Fin 24) (u i : Int) (reason slotCode : Nat) : State :=
  s.log .underrun c.val
    (BitVec.ofNat 32 (((u - i) % 65536).toNat + 65536 * (k.val + 256 * (reason + 16 * slotCode)))) (wInt i)

/-- A miss of a read that sees the part as `z`: the counter, and UNDERRUN when the channel is ARMED there; the channel's miss
state is QUIET (R93, R97, R98). -/
def State.miss (s z : State) (c : Fin 4) (k : Fin 24) (u : Int) (late : Bool) (slotCode : Nat) : State :=
  let ch := s.chan c
  let s1 := (s.setChan c (if late then { ch with lateReads := bump ch.lateReads }
      else { ch with underruns := bump ch.underruns })).markIf
        (if late then ch.lateReads != bump ch.lateReads else ch.underruns != bump ch.underruns) (mirrorOfChan c)
  let s2 := s1.setArmed c false
  if z.armed c then s2.logUnderrun c k u (z.chan c).i (if late then 1 else 2) slotCode else s2

/-- The saturation counter of a channel increments once for a read of which some half-sample was clamped (R96). -/
def State.countClipped (s : State) (c : Fin 4) (any : Bool) : State :=
  let ch := s.chan c
  if any then
    (s.setChan c { ch with saturations := bump ch.saturations }).markIf (ch.saturations != bump ch.saturations)
      (mirrorOfChan c)
  else s

/-- The words of a read mixed with an announcement word for each (R96). -/
def mixWords (g a : Nat) (xs ys : List Word) : List Word := List.zipWith (mixWord g a) xs ys

/-- Some word of a read was clamped. -/
def anyClipped (g a : Nat) (xs ys : List Word) : Bool := (List.zipWith (wordClipped g a) xs ys).any id

/-- The words of a read with gain alone (R94), or under silence (R96 with y = 0). -/
def gainWords (g : Nat) (xs : List Word) : List Word := xs.map fun x => mixWord g 0 x 0

/-- A view read that sees the part as `z`, served for an ANNOUNCING section with active channel `c` (R93, R95 to R98). -/
def State.mixAnnounced (s z : State) (v : ViewRead) (c : Fin 4) (g : Nat) (xs : List Word) : State × List Word :=
  let ch := z.chan c
  let u := annIndex v.pos (ch.startPos.get v.prog) (z.prog v.prog).ringLen ch.i
  match ch.annCase u with
  | .silence => (s, gainWords g xs)
  | .ready sl =>
    let ys := v.frames.map sl.frame
    ((s.countClipped c (anyClipped g ch.use.ann xs ys)).setArmed c true, mixWords g ch.use.ann xs ys)
  | .late =>
    (s.miss z c v.sec u true 0, match ch.use.policy with | .silence => gainWords g xs | .pass => xs)
  | .unready st =>
    (s.miss z c v.sec u false st.code, match ch.use.policy with | .silence => gainWords g xs | .pass => xs)

/-- A view read that sees the part as `z` (R93): bypass, gain only, or announcement. The counters and the miss state it changes
are those of `s`. -/
def State.mixView (s z : State) (v : ViewRead) (xs : List Word) : State × List Word :=
  let b := z.brk v.sec
  if (z.sec v.sec).state = .disabled then (s, xs)
  else
    match b.st, b.active with
    | .clear, _ => (s, xs)
    | .announcing, some c => s.mixAnnounced z v c b.gain xs
    | _, _ => (s, gainWords b.gain xs)

end Sys2Proof.Machine
end

