-- ==== Sys2Proof/Machine/Playout.lean ====
section
/-! DEFINITION. The playout unit (chapter 04): the window, the list walk, begins, takeovers, ends and handouts, block
time, the clip fence, and the offers at the CLIP requester. -/

namespace Sys2Proof.Machine

/-! ### What the incident unit is told (R151) -/

/-- A line's request status is set; a change makes its mirror record dirty (R160). -/
def State.setRequest (s : State) (k : Fin 6) (st : ReqStatus) : State :=
  (s.setLine k { s.line k with request := st }).markIf ((s.line k).request != st) (mirrorOfLine k)

/-- The owner of a use or start is told a request status, when it is a line. -/
def State.tellOwner (s : State) (o : Option Owner) (st : ReqStatus) : State :=
  match o with
  | some (.line k) => s.setRequest k st
  | _ => s

/-! ### Reports of the channel (R79) -/

/-- The causes of CHANNEL_STATE, by code (chapter 12). -/
inductive ChanCause where
  | begin_ | takeover | play | hold | continue_ | finish | stop | withdraw | listError
  deriving DecidableEq, Repr

def ChanCause.code : ChanCause → Nat
  | .begin_ => 1 | .takeover => 2 | .play => 3 | .hold => 4 | .continue_ => 5 | .finish => 6 | .stop => 7
  | .withdraw => 8 | .listError => 9

/-- CHANNEL_STATE, with the owner, priority and play index after the change (R79). -/
def State.logChan (s : State) (c : Fin 4) (old : ChanState) (cause : ChanCause) : State :=
  let ch := s.chan c
  s.log .channelState c.val (w4 old.code ch.st.code cause.code (ownerCode ch.owner + 16 * ch.prio)) (wInt ch.i)

/-- A channel record replaced. Its mirror record becomes dirty at a change of state, owner, priority, repeats left or a
counter (R79). -/
def State.putChan (s : State) (c : Fin 4) (ch : Chan) : State :=
  let old := s.chan c
  (s.setChan c ch).markIf (old.st != ch.st || old.owner != ch.owner || old.prio != ch.prio || old.repeats != ch.repeats
    || old.marksPassed != ch.marksPassed) (mirrorOfChan c)

/-- A channel's state changed and logged. -/
def State.putChanState (s : State) (c : Fin 4) (st : ChanState) (cause : ChanCause) : State :=
  (s.putChan c { s.chan c with st := st }).logChan c (s.chan c).st cause

/-! ### The window (R63) -/

/-- The state of a slot that takes index `x` (R63, cases 1, 3, 4 and 5; the walk never has assigned an index that no slot
held, so case 2 does not arise). -/
def Chan.freshState (ch : Chan) (x : Int) : SlotState :=
  if x < 0 then .silent
  else
    match ch.walk.st with
    | .finished =>
      match ch.endIdx with
      | some e => if e ≤ x then .silent else .empty
      | none => .empty
    | .stopped => if ch.walk.next ≤ x then .silent else .empty
    | .running => .empty

/-- A slot as it takes index `x` (R63). -/
def Chan.freshSlot (ch : Chan) (x : Int) : Slot := ⟨some x, ch.freshState x, none, 0, [], []⟩

/-- The window of a begin: the 32 indices from i - 8, each in its slot (R63, R67). -/
def Chan.freshWindow (ch : Chan) : Table Slot 32 :=
  Table.ofFn fun j => ch.freshSlot (ch.i - 8 + ((j.val : Int) - (ch.i - 8)) % 32)

/-- The window with each slot whose index is at or above `lo` and that `f` picks out made SILENT. -/
def Chan.silenceFrom (ch : Chan) (lo : Int) (f : Slot → Bool) : Table Slot 32 :=
  Table.ofFn fun j =>
    let sl := ch.window.get j
    match sl.idx with
    | some x => if lo ≤ x && f sl then { sl with st := .silent, src := none, presented := 0, lines := [] } else sl
    | none => sl

/-- A slot is EMPTY with no source. -/
def Slot.unassignedEmpty (sl : Slot) : Bool := sl.st = .empty && sl.src.isNone

/-! ### The list buffer (R60) -/

/-- Line `k` of the list lies within the CLIP region that holds the list address. -/
def State.listLineInside (s : State) (listAddr k : Nat) : Bool :=
  match s.path.clipRegion listAddr with
  | some r => decide (listAddr + 64 * k + 64 ≤ r.base + r.size)
  | none => false

/-- Line `k` of the list in the buffer. -/
def Chan.bufLine (ch : Chan) (k : Nat) : Option ListLine :=
  if k = 0 then ch.headLine
  else
    match ch.curLine with
    | some l => if l.k = k then some l else (match ch.nextLine with | some m => if m.k = k then some m else none | none => none)
    | none => match ch.nextLine with | some m => if m.k = k then some m else none | none => none

/-- A read of line `k` is requested, unless it lies outside its region (R60). A read that is requested already and not yet made
stays the one request (log entry 11). -/
def State.requestLine (s : State) (c : Fin 4) (k : Nat) : State :=
  let ch := s.chan c
  if k ≤ 63 && s.listLineInside ch.listAddr k && !ch.requested.contains k then
    s.setChan c { ch with requested := ch.requested ++ [k] }
  else s

/-- The walk moves into line `k`: it becomes the current line, and a read of the next one is requested (R60). -/
def State.enterLine (s : State) (c : Fin 4) (k : Nat) : State :=
  let ch := s.chan c
  let cur := ch.bufLine k
  let nxt := match ch.nextLine with | some m => if m.k = k then none else some m | none => none
  (s.setChan c { ch with curLine := cur, nextLine := nxt }).requestLine c (k + 1)

/-- The walk moves to the entry after the current one, block 0 (R59). Past entry 255 the current entry is 256, outside R57's
0 to 255, until the walk runs on and meets NO_END (log entry 39). -/
def State.nextEntry (s : State) (c : Fin 4) : State :=
  let ch := s.chan c
  let e := ch.walk.entry + 1
  let s1 := s.setChan c { ch with walk := { ch.walk with entry := e, block := 0 } }
  if e % 4 = 0 && e < 256 then s1.enterLine c (e / 4) else s1

/-! ### Begins, ends and handouts -/

/-- The priority of a channel's current start: its live use, or its begin waiting (R66). -/
def Chan.currentPrio (ch : Chan) : Option Nat :=
  if ch.st.live then some ch.prio else ch.waiting.map Start.prio

/-- The discarded use of a channel: the mask, walk, end index, list buffer and window are cleared (R69, R73 step 3). -/
def Chan.discard (ch : Chan) : Chan :=
  { ch with mask := 0, walk := Walk.cleared, endIdx := none, headLine := none, curLine := none, nextLine := none,
            requested := [], window := Table.fill 32 Slot.unassigned, useNo := ch.useNo + 1 }

/-- The channel record of a use that begins (R67 steps 1 to 5). -/
def Chan.begun (ch : Chan) (st : Start) (heads : Table Nat 6) : Chan :=
  let base : Chan := { ch.discard with
    st := .priming
    owner := some st.owner
    prio := st.prio
    mask := st.mask
    listAddr := st.listAddr
    repeats := st.rep
    reqRep := st.rep
    use := ⟨ch.defaults.ramp, ch.defaults.ann, ch.defaults.policy⟩
    i := -((ch.defaults.ramp : Int) + 2)
    startPos := heads
    walk := ⟨0, 0, 0, .running, false⟩
    waiting := none }
  { base with window := base.freshWindow }

/-- The alignment row of a begin with ramp length `ramp`: (head_p + R + 2) mod L_p (R67 step 3). -/
def State.alignRow (s : State) (ramp : Nat) : Table Nat 6 :=
  Table.ofFn fun p => ((s.prog p).head + ramp + 2) % (s.prog p).ringLen

/-- A start begins on channel `c` at once (R67). `old` and `cause` are what CHANNEL_STATE carries. -/
def State.beginNow (s : State) (c : Fin 4) (st : Start) (old : ChanState) (cause : ChanCause) : State :=
  let ch := s.chan c
  let s1 := s.putChan c (ch.begun st (s.alignRow ch.defaults.ramp))
  let s2 := (s1.requestLine c 0).requestLine c 1
  let s3 := (s2.join c st.mask st.prio).logChan c old cause
  if st.reply then s3.finish .done else s3

/-- The begin waiting of a channel begins (R67). -/
def beginWaiting (s : State) (c : Fin 4) : State :=
  match (s.chan c).waiting with
  | some st => s.beginNow c st .idle .begin_
  | none => s

/-- The fence reports UP: every begin waiting begins, in the order of waiting (R67). -/
def State.fenceUp (s : State) : State :=
  let order := s.playout.waitOrder
  order.foldl beginWaiting
    { s with path := { s.path with fence := .up }, playout := { s.playout with waitOrder := [] } }

/-- The playout unit raises the fence (R24): a DOWN fence becomes RAISING, and UP at once when no CLIP write is queued. -/
def State.raiseFence (s : State) : State :=
  match s.path.fence with
  | .down => if s.clipQueued then { s with path := { s.path with fence := .raising } } else s.fenceUp
  | _ => s

/-- A start is to begin on an idle channel: at once under an UP fence, otherwise it waits (R67). A channel that already
stands in the order of waiting keeps its place. -/
def State.requestBegin (s : State) (c : Fin 4) (st : Start) : State :=
  if s.path.fence = .up then s.beginNow c st .idle .begin_
  else
    let s1 := s.setChan c { s.chan c with waiting := some st }
    let order := if s1.playout.waitOrder.contains c then s1.playout.waitOrder else s1.playout.waitOrder ++ [c]
    { s1 with playout := { s1.playout with waitOrder := order } }.raiseFence

/-- No channel is live and no begin waits (R68). -/
def State.noStarts (s : State) : Bool :=
  (List.finRange 4).all fun c => !(s.chan c).st.live && (s.chan c).waiting.isNone

/-- The check of R68: the fence is lowered when no channel is live and no begin waits. -/
def State.checkFence (s : State) : State :=
  if s.noStarts then { s with path := { s.path with fence := .down } } else s

/-- A handout candidate stands before another: higher priority, a line before a host start, the lower line (R74). -/
def Start.before (a b : Start) : Bool :=
  if a.prio = b.prio then
    match a.owner, b.owner with
    | .line j, .line k => j.val < k.val
    | .line _, .host => true
    | .host, _ => false
  else b.prio < a.prio

/-- The first of the candidates in the order of R74. -/
def bestStart : List Start → Option Start
  | [] => none
  | a :: as =>
    match bestStart as with
    | some b => if b.before a then some b else some a
    | none => some a

/-- The candidate leaves the pending set or the queued slot (R74). -/
def Chan.without (ch : Chan) (st : Start) : Chan :=
  match st.owner with
  | .host => { ch with queued := none }
  | .line _ => { ch with pending := ch.pending.filter fun x => x.owner != st.owner }

/-- The candidates of a handout: the pending set and the queued start (R74). -/
def Chan.candidates (ch : Chan) : List Start := ch.pending ++ ch.queued.toList

/-- The channel is handed out (R74). -/
def State.handout (s : State) (c : Fin 4) : State :=
  match bestStart (s.chan c).candidates with
  | some st =>
    ((s.setChan c ((s.chan c).without st)).tellOwner (some st.owner) .running).requestBegin c st
  | none => { s with playout := { s.playout with waitOrder := s.playout.waitOrder.filter fun d => d != c } }

/-- The request status an end with a cause leaves its line in (R151): a withdrawal is settled by R155. -/
def ChanCause.endStatus : ChanCause → ReqStatus
  | .withdraw => .none
  | _ => .stopped

/-- The record of an idle channel after its use has ended (R73 step 3). The list address, repeats left, use copies, play index
and alignment row, which step 3 does not name, keep their last values (log entry 38). -/
def Chan.ended (ch : Chan) : Chan := { ch.discard with st := .idle, owner := none, prio := 0 }

/-- A live channel ends with a cause (R73). -/
def State.endUse (s : State) (c : Fin 4) (cause : ChanCause) : State :=
  let ch := s.chan c
  let s1 := (s.release c).tellOwner ch.owner cause.endStatus
  let s2 := (s1.putChan c (s1.chan c).ended).logChan c ch.st cause
  (s2.handout c).checkFence

/-- A begin waiting is cancelled: its line is told, the channel is handed out, the fence checked (R73). -/
def State.cancelWaiting (s : State) (c : Fin 4) (cause : ChanCause) : State :=
  let ch := s.chan c
  let s1 := (s.setChan c { ch with waiting := none }).tellOwner (ch.waiting.map Start.owner) cause.endStatus
  (s1.handout c).checkFence

/-- The displaced start of a takeover: a line's request returns to the pending set and is told PENDING; a host start is
lost, and one whose change waits for it is answered DONE (R69, R165, log entry 12). -/
def State.displace (s : State) (c : Fin 4) (st : Start) : State :=
  match st.owner with
  | .line k => (s.setChan c { s.chan c with pending := (s.chan c).pending ++ [st] }).setRequest k .pending
  | .host => if st.reply then s.finish .done else s

/-- The use now on a channel, as the start it was. -/
def Chan.asStart (ch : Chan) (o : Owner) : Start := ⟨o, ch.listAddr, ch.mask, ch.prio, ch.reqRep, false⟩

/-- A takeover of channel `c` by a start of strictly higher priority (R69). -/
def State.takeover (s : State) (c : Fin 4) (st : Start) : State :=
  let ch := s.chan c
  if ch.st.live then
    let s1 := s.release c
    let s2 := match ch.owner with
      | some o => s1.displace c (ch.asStart o)
      | none => s1
    s2.beginNow c st ch.st .takeover
  else
    match ch.waiting with
    | some w => (s.setChan c { ch with waiting := some st }).displace c w
    | none => s

/-! ### The walk (R59 to R62) -/

/-- The reasons of LIST_ERROR (R62), by code (chapter 12). -/
inductive ListReason where
  | listOutside | listRead | badEntry | clipOutside | noEnd
  deriving DecidableEq, Repr

def ListReason.code : ListReason → Nat
  | .listOutside => 1 | .listRead => 2 | .badEntry => 3 | .clipOutside => 4 | .noEnd => 5

/-- A list error: logged, and the channel ends (R62). -/
def State.listError (s : State) (c : Fin 4) (r : ListReason) : State :=
  let ch := s.chan c
  (s.log .listError c.val (w2 (r.code + 256 * ch.repeats) ch.walk.entry) 0).endUse c .listError

/-- MARK_PASSED (R71). -/
def State.passMark (s : State) (c : Fin 4) (tag entry : Nat) : State :=
  let ch := s.chan c
  (s.putChan c { ch with marksPassed := bump ch.marksPassed }).log .markPassed c.val (w2 tag entry) (wInt ch.i)

/-- A marker acts (R71): a MARK is counted and logged, a HOLD sets HELD. -/
def actMarker (c : Fin 4) (s : State) (m : Marker) : State :=
  match m with
  | .mark tag entry => s.passMark c tag entry
  | .hold => s.putChanState c .held .hold

/-- A marker met by the walk attaches to the index one below the next: it is kept in that index's slot, or acts at once
when the index has been passed (R59). -/
def State.attachMarker (s : State) (c : Fin 4) (m : Marker) : State :=
  let ch := s.chan c
  let x := ch.walk.next - 1
  if ch.i ≤ x then
    let sl := ch.slot x
    s.setChan c { ch with window := ch.window.set (slotNo x) { sl with marks := sl.marks ++ [m] } }
  else actMarker c s m

/-- A CLIP entry's blocks lie wholly within one CLIP region, at a multiple of 64 (R62). -/
def State.clipInside (s : State) (addr len : Nat) : Bool :=
  addr % 64 = 0 &&
    match s.path.clipRegion addr with
    | some r => decide (addr + 192 * len ≤ r.base + r.size)
    | none => false

/-- The next index is assigned the block at `src` (R59): its slot gets the source where it is in the window. -/
def State.assignBlock (s : State) (c : Fin 4) (src len : Nat) : State :=
  let ch := s.chan c
  let x := ch.walk.next
  let sl := ch.slot x
  let win := if sl.idx = some x && sl.st = .empty then ch.window.set (slotNo x) { sl with src := some src } else ch.window
  let ch1 := { ch with window := win, walk := { ch.walk with next := x + 1, pass := true, block := ch.walk.block + 1 } }
  let s1 := s.setChan c ch1
  if ch.walk.block + 1 < len then s1 else s1.nextEntry c

/-- The walk meets an END (R61). -/
def State.meetEnd (s : State) (c : Fin 4) : State :=
  let ch := s.chan c
  let again : Walk := { ch.walk with entry := 0, block := 0, pass := false }
  if ch.walk.pass && ch.repeats = 15 then s.setChan c { ch with walk := again }
  else if ch.walk.pass && 0 < ch.repeats then s.putChan c { ch with repeats := ch.repeats - 1, walk := again }
  else
    let e := ch.walk.next
    let ch1 := { ch with endIdx := some e, walk := { ch.walk with st := .finished } }
    let s1 := s.setChan c { ch1 with window := ch1.silenceFrom e fun _ => true }
    if e ≤ ch.i then s1.endUse c .finish else s1

/-- The walk meets a HOLD (R59): it attaches and the walk stops. The slots beyond it that have no block are SILENT (log
entry 10), but those that play has passed, which stay EMPTY (R64, R97). -/
def State.meetHold (s : State) (c : Fin 4) : State :=
  let s1 := (s.attachMarker c .hold).nextEntry c
  let ch := s1.chan c
  let ch1 := { ch with walk := { ch.walk with st := .stopped } }
  s1.setChan c { ch1 with window := ch1.silenceFrom (max ch.walk.next ch.i) Slot.unassignedEmpty }

/-- One entry taken by the walk, from the line that holds it (R59, R62). -/
def State.takeEntry (s : State) (c : Fin 4) (e : ListEntry) : State :=
  let w := (s.chan c).walk
  match e with
  | .clip addr len =>
    if len = 0 then s.nextEntry c
    else if s.clipInside addr len then s.assignBlock c (addr + 192 * w.block) len
    else s.listError c .clipOutside
  | .mark tag => (s.attachMarker c (.mark tag w.entry)).nextEntry c
  | .hold => s.meetHold c
  | .finish => s.meetEnd c
  | .bad => s.listError c .badEntry

/-- The walk may take an entry: its channel is live, it is RUNNING and the next index is at most i + 23 (R59). -/
def Chan.walkReady (ch : Chan) : Bool := ch.st.live && ch.walk.st = .running && decide (ch.walk.next ≤ ch.i + 23)

/-- The walk taken entry by entry, as far as it goes; `fuel` bounds the entries. It stops where it is not ready, where the
line it needs is still to come, and where the channel has ended. -/
def walkFor (c : Fin 4) (useNo : Nat) : Nat → State → State
  | 0, s => s
  | fuel + 1, s =>
    let ch := s.chan c
    if ch.useNo != useNo || !ch.walkReady then s
    else if 256 ≤ ch.walk.entry then s.listError c .noEnd
    else if !s.listLineInside ch.listAddr (ch.walk.entry / 4) then s.listError c .listOutside
    else
      match ch.bufLine (ch.walk.entry / 4) with
      | none => s
      | some l =>
        match l.bytes with
        | none => s.listError c .listRead
        | some b => walkFor c useNo fuel (s.takeEntry c (parseListEntry (b.drop (16 * (ch.walk.entry % 4)))))

/-- More entries than a walk can take before it must wait: between two assigned indices it takes at most the rest of one pass and
a second pass, 514 entries, since an END met with the pass flag clear is final (R61). -/
def Chan.walkFuel (ch : Chan) : Nat := 600 * ((ch.i + 25 - ch.walk.next).toNat + 2)

/-- The walk of channel `c` runs (R59). -/
def State.walk (s : State) (c : Fin 4) : State := walkFor c (s.chan c).useNo (s.chan c).walkFuel s

/-! ### Block time (R71) -/

/-- The largest play index. -/
def maxIndex : Int := 2147483647

/-- The play index moves on and the slot of i - 9 takes the index i + 23 (R71 steps 1 and 2). -/
def Chan.movedOn (ch : Chan) : Chan :=
  let ch1 := { ch with i := ch.i + 1 }
  { ch1 with window := ch1.window.set (slotNo (ch1.i + 23)) (ch1.freshSlot (ch1.i + 23)) }

/-- Channel `c` takes a block-time event (R71). A walk that waited for the window goes on after step 5; R59 says only that it
resumes when the event moves the window on (log entry 42). -/
def advanceChan (s : State) (c : Fin 4) : State :=
  let ch := s.chan c
  if !ch.st.live then s
  else if maxIndex ≤ ch.i then s.endUse c .finish
  else
    let s1 := s.setChan c ch.movedOn
    let s2 := ((ch.movedOn.slot ch.i).marks).foldl (actMarker c) s1
    let ch2 := s2.chan c
    if ch2.endIdx = some ch2.i then s2.endUse c .finish
    else if ch2.st = .priming && ch2.i = 0 then (s2.putChanState c .playing .play).walk c
    else s2.walk c

/-! ### Host starts (R66) and line requests (R76, R77) -/

/-- The channel number, priority and list address of a start are usable (R66, R76). -/
def State.startArgsOk (s : State) (channel prio listAddr : Nat) : Bool :=
  decide (channel < 4) && decide (1 ≤ prio ∧ prio ≤ 7) && listAddr % 64 = 0 && (s.path.clipRegion listAddr).isSome

/-- START carried out (R66). -/
def State.hostStart (s : State) (channel listAddr : Nat) (mask : SecSet) (prio rep : Nat) : State :=
  match toFin? 4 channel with
  | none => s.finish .badArgument
  | some c =>
    if !s.startArgsOk channel prio listAddr then s.finish .badArgument
    else
      let ch := s.chan c
      let st : Start := ⟨.host, listAddr, mask, prio, rep, true⟩
      match ch.currentPrio with
      | none => (s.setStage .startWait).requestBegin c st
      | some q =>
        if q < prio then (s.setStage .startWait).takeover c st
        else if ch.queued.isNone then
          (s.setChan c { ch with queued := some { st with reply := false } }).finish .queued
        else s.finish .busy

/-- The playout unit's answer to a line's request (R76), and the request carried out. -/
def State.lineRequest (s : State) (k : Fin 6) (channel listAddr : Nat) (mask : SecSet) (prio rep : Nat) :
    State × ReqStatus :=
  match toFin? 4 channel with
  | none => (s, .refused)
  | some c =>
    if !s.startArgsOk channel prio listAddr then (s, .refused)
    else
      let ch := s.chan c
      let st : Start := ⟨.line k, listAddr, mask, prio, rep, false⟩
      match ch.currentPrio with
      | none => (s.requestBegin c st, .running)
      | some q =>
        if q < prio then (s.takeover c st, .running)
        else (s.setChan c { ch with pending := ch.pending ++ [st] }, .pending)

/-- Line `k`'s request on channel `c` is withdrawn (R77). -/
def State.withdrawRequest (s : State) (k : Fin 6) (c : Fin 4) : State :=
  let ch := s.chan c
  if ch.st.live && ch.owner = some (.line k) then s.endUse c .withdraw
  else if (ch.waiting.map Start.owner) = some (.line k) then s.cancelWaiting c .withdraw
  else s.setChan c { ch with pending := ch.pending.filter fun x => x.owner != .line k }

/-- STOP carried out (R75). -/
def State.hostStop (s : State) (channel : Nat) : State :=
  match toFin? 4 channel with
  | none => s.finish .badArgument
  | some c =>
    if (s.chan c).st.live then (s.endUse c .stop).finish .done
    else if (s.chan c).waiting.isSome then (s.cancelWaiting c .stop).finish .done
    else s.finish .refusedState

/-- The record of a channel that continues after its hold (R72 steps 1 to 3). -/
def Chan.continued (ch : Chan) : Chan :=
  let ch1 := { ch with walk := { ch.walk with next := ch.i + 2, st := .running, pass := false } }
  { ch1 with window := Table.ofFn fun j =>
      let sl := ch1.window.get j
      match sl.idx with
      | some x => if ch.i + 2 ≤ x then ch1.freshSlot x else sl
      | none => sl }

/-- CONTINUE carried out (R72). -/
def State.hostContinue (s : State) (channel : Nat) : State :=
  match toFin? 4 channel with
  | none => s.finish .badArgument
  | some c =>
    if (s.chan c).st = .held then
      let s1 := (s.setChan c (s.chan c).continued).putChanState c .playing .continue_
      (s1.finish .done).walk c
    else s.finish .refusedState

/-! ### Quiesce and swap (R80) -/

/-- Channel `c` stopped with its starts dropped (R80). -/
def stopChan (s : State) (c : Fin 4) : State :=
  s.putChan c { (s.chan c).ended with waiting := none, queued := none, pending := [] }

/-- Line `k`'s request status becomes NONE (R159, R171, R174). -/
def dropRequest (s : State) (k : Fin 6) : State := s.setRequest k .none

/-- Every channel is stopped and every start dropped; every section is CLEAR; every line's request status is NONE; the fence
is lowered (R80). -/
def State.stopAll (s : State) : State :=
  let s1 := (List.finRange 4).foldl stopChan s.clearAll
  let s2 := (List.finRange 6).foldl dropRequest s1
  { s2 with playout := { s2.playout with waitOrder := [] } }.checkFence

/-! ### The CLIP requester (R64, R65) -/

/-- The channel's slots for indices i to i + 3 are all READY. -/
def Chan.nearReady (ch : Chan) : Bool :=
  (List.range 4).all fun (j : Nat) => (ch.slot (ch.i + j)).st = .ready

/-- A channel is urgent: live, and its slots for i to i + 3 are not all READY (R37, R65). -/
def Chan.urgent (ch : Chan) : Bool := ch.st.live && !ch.nearReady

/-- The slot whose block is in progress (R64). -/
def Chan.inProgress (ch : Chan) : Option Slot := ch.window.xs.find? fun sl => sl.st = .fetching

/-- The lower-indexed of two slots. -/
def lowerSlot (a : Option Slot) (b : Slot) : Option Slot :=
  match a with
  | none => some b
  | some x => if b.idx.getD 0 < x.idx.getD 0 then some b else some x

/-- The lowest-indexed EMPTY slot that has a source and an index at or above i (R64). -/
def Chan.firstEmpty (ch : Chan) : Option Slot :=
  (ch.window.xs.filter fun sl => sl.st = .empty && sl.src.isSome && decide (ch.i ≤ sl.idx.getD (ch.i - 1))).foldl
    lowerSlot none

/-- The fetch of line `j` of a slot's block. -/
def Chan.blockFetch (ch : Chan) (c : Fin 4) (sl : Slot) (j : Nat) : ClipFetch :=
  ⟨c, ch.useNo, .block (sl.idx.getD 0) j, sl.src.getD 0 + 64 * j⟩

/-- The read of line `k` of the list. -/
def Chan.listFetch (ch : Chan) (c : Fin 4) (k : Nat) : ClipFetch := ⟨c, ch.useNo, .list k, ch.listAddr + 64 * k⟩

/-- The list line the walk is waiting for (R64, 1). -/
def State.awaitedLine (s : State) (c : Fin 4) : Option Nat :=
  let ch := s.chan c
  let k := ch.walk.entry / 4
  if ch.walkReady && decide (ch.walk.entry < 256) && (ch.bufLine k).isNone && s.listLineInside ch.listAddr k then some k
  else none

/-- What the burst of channel `c`'s use on the memory port fetches, if there is one. -/
def State.fetchOnPort (s : State) (c : Fin 4) : Option ClipWhat :=
  match s.arb.port with
  | some (.clip f) => if f.ch = c && f.useNo = (s.chan c).useNo then some f.what else none
  | _ => none

/-- A line of channel `c`'s list is on the memory port: no other is read meanwhile (R60). -/
def State.listOnPort (s : State) (c : Fin 4) : Bool :=
  match s.fetchOnPort c with
  | some (.list _) => true
  | _ => false

/-- A line of a slot's block is on the memory port: whether the next one is presented is known at its completion (R64, log
entry 32). -/
def State.blockOnPort (s : State) (c : Fin 4) (sl : Slot) : Bool :=
  match s.fetchOnPort c with
  | some (.block x _) => sl.idx = some x
  | _ => false

/-- The list line read that channel `c` offers when it has nothing else to fetch: the earliest of those requested and not yet made
(R64, log entry 37). -/
def State.requestedLine (s : State) (c : Fin 4) : Option (ClipFetch × Int) :=
  let ch := s.chan c
  match ch.requested with
  | k :: _ => if s.listOnPort c then none else some (ch.listFetch c k, ch.walk.next - ch.i)
  | [] => none

/-- The offer of a live channel with its index relative to the play index: the first that exists of the list line awaited, the
next line of the block in progress, line 0 of the lowest block to fetch and a list line requested (R64, R65). -/
def State.offer (s : State) (c : Fin 4) : Option (ClipFetch × Int) :=
  let ch := s.chan c
  if !ch.st.live then none
  else
    match if s.listOnPort c then none else s.awaitedLine c with
    | some k => some (ch.listFetch c k, ch.walk.next - ch.i)
    | none =>
      match ch.inProgress with
      | some sl =>
        if sl.presented < 3 && !s.blockOnPort c sl then some (ch.blockFetch c sl sl.presented, sl.idx.getD 0 - ch.i)
        else s.requestedLine c
      | none =>
        match ch.firstEmpty with
        | some sl => some (ch.blockFetch c sl 0, sl.idx.getD 0 - ch.i)
        | none => s.requestedLine c

/-- One channel's offer against the best so far: urgent first, then the lower index, then the lower channel (R65). -/
def betterOffer (s : State) (best : Option (ClipFetch × Int)) (c : Fin 4) : Option (ClipFetch × Int) :=
  match s.offer c with
  | none => best
  | some o =>
    match best with
    | none => some o
    | some b =>
      let ub := (s.chan b.1.ch).urgent
      let uo := (s.chan c).urgent
      if uo != ub then (if uo then some o else some b)
      else if o.2 < b.2 then some o else some b

/-- The offer the playout unit presents (R65). -/
def State.chosenOffer (s : State) : Option ClipFetch :=
  ((List.finRange 4).foldl (betterOffer s) none).map Prod.fst

/-- The channel record as its fetch is presented: the slot is FETCHING with one more line presented, or the list line is no
longer requested (R63, R64). -/
def Chan.presents (ch : Chan) (f : ClipFetch) : Chan :=
  match f.what with
  | .block x _ =>
    let sl := ch.slot x
    let sl1 := { sl with st := if sl.st = .empty then .fetching else sl.st, presented := sl.presented + 1 }
    { ch with window := ch.window.set (slotNo x) sl1 }
  | .list k => { ch with requested := ch.requested.filter fun j => j != k }

/-- The CLIP requester presents a burst whenever it has none presented (R65). -/
def State.presentClip (s : State) : State :=
  match s.arb.clip with
  | some _ => s
  | none =>
    match s.chosenOffer with
    | some f =>
      { s with playout := { s.playout with chans := s.playout.chans.set f.ch ((s.chan f.ch).presents f) }
               arb := { s.arb with clip := some f } }
    | none => s

/-- A burst still belongs to the live use of its channel (R64). -/
def State.fetchCurrent (s : State) (f : ClipFetch) : Bool := (s.chan f.ch).st.live && (s.chan f.ch).useNo = f.useNo

/-- The channel record when a block line completes: the slot that still fetches this index gets the line, READY at the
third, or BAD on an error (R64). -/
def Chan.blockLine (ch : Chan) (x : Int) (err : Bool) (line : List Byte) : Chan :=
  let sl := ch.slot x
  if sl.idx = some x && sl.st = .fetching then
    let sl1 := if err then { sl with st := .bad, lines := [] }
      else { sl with lines := sl.lines ++ [line], st := if sl.lines.length = 2 then .ready else .fetching }
    { ch with window := ch.window.set (slotNo x) sl1 }
  else ch

/-- The channel record when a list line read completes: into the head line, the current line or the next one (R60). -/
def Chan.listLine (ch : Chan) (k : Nat) (bytes : Option (List Byte)) : Chan :=
  if k = 0 then { ch with headLine := some ⟨k, bytes⟩ }
  else if ch.walk.entry / 4 = k then { ch with curLine := some ⟨k, bytes⟩ }
  else { ch with nextLine := some ⟨k, bytes⟩ }

end Sys2Proof.Machine
end

