-- ==== Sys2Proof/Machine/Incident.lean ====
section
/-! DEFINITION. The incident unit (chapter 09): input, debounce, activation, requests, acknowledgement, withdrawal, and
what FORCE_OPEN and FOCUS give the gather engine. -/

namespace Sys2Proof.Machine

/-- The causes of LINE_STATE, by code (chapter 12). -/
inductive LineCause where
  | input | debounce | ack | update | reload
  deriving DecidableEq, Repr

def LineCause.code : LineCause → Nat
  | .input => 1 | .debounce => 2 | .ack => 3 | .update => 4 | .reload => 5

/-- A line record replaced. Its mirror record becomes dirty at a change of state, acknowledged flag or request status
(R160). -/
def State.putLine (s : State) (k : Fin 6) (l : LineRec) : State :=
  let old := s.line k
  (s.setLine k l).markIf (old.state != l.state || old.acked != l.acked || old.request != l.request) (mirrorOfLine k)

/-- LINE_STATE, with the acknowledged flag and request status after the change (R160). -/
def State.logLine (s : State) (k : Fin 6) (old : LineState) (cause : LineCause) : State :=
  let l := s.line k
  s.log .lineState k.val
    (w4 old.code l.state.code cause.code ((if l.acked then 1 else 0) + 16 * l.request.code)) 0

/-- The kind byte of an action. -/
def Action.kind : Action → Nat
  | .empty => 0
  | .breakin _ _ _ _ _ => 1
  | .forceOpen _ _ _ => 2
  | .focus _ _ _ => 3
  | .unknown k => k

/-- The second detail word of ACTION_REFUSED: a BREAKIN's channel and priority. -/
def Action.detail2 : Action → Word
  | .breakin c _ _ prio _ => w4 c prio 0 0
  | _ => 0

/-- ACTION_REFUSED with its reason code: 1 GROUP_UNUSABLE, 2 SECOND_BREAKIN, 3 BAD_KIND, 4 BREAKIN_REFUSED (R160). -/
def State.logRefusedAction (s : State) (k : Fin 6) (slot : Nat) (a : Action) (reason : Nat) : State :=
  s.log .actionRefused k.val (w4 slot a.kind reason 0) a.detail2

/-- Lines may request their BREAKIN: in RUNNING, and not between a swap's stop and its activation (R159, R171). -/
def State.breakinOpen (s : State) : Bool :=
  s.plan.partState = .running && (match s.stage with | some (.draining _) => false | _ => true)

/-- The slot of a line's BREAKIN: the first BREAKIN of its entry (R150). -/
def LineRec.breakinSlot (l : LineRec) : Option (Fin 3) :=
  (List.finRange 3).find? fun j => match l.actions.get j with | .breakin _ _ _ _ _ => true | _ => false

/-- A line's BREAKIN requested (R151): the request channel is recorded, the playout unit asked, the answer kept. -/
def State.requestBreakin (s : State) (k : Fin 6) (j : Fin 3) : State :=
  let l := s.line k
  match l.actions.get j with
  | .breakin c addr mask prio rep =>
    let s1 := s.setLine k { l with reqChannel := toFin? 4 c }
    let r := s1.lineRequest k c addr mask prio rep
    let s2 := r.1.setRequest k r.2
    if r.2 = .refused then s2.logRefusedAction k j.val (l.actions.get j) 4 else s2
  | _ => s

/-- A group byte names a present group of a kind. -/
def State.groupIs (s : State) (g : Nat) (kind : GroupKind) : Bool :=
  match toFin? 12 g with
  | some g => (s.grp g).present && (s.grp g).kind = kind
  | none => false

/-- One action of a line that becomes ACTIVE: checked, and a BREAKIN requested where lines may (R150, R159). -/
def handleAction (k : Fin 6) (s : State) (j : Fin 3) : State :=
  let a := (s.line k).actions.get j
  match a with
  | .empty => s
  | .breakin _ _ _ _ _ =>
    if (s.line k).breakinSlot = some j then (if s.breakinOpen then s.requestBreakin k j else s)
    else s.logRefusedAction k j.val a 2
  | .forceOpen g _ _ => if s.groupIs g .rank then s else s.logRefusedAction k j.val a 1
  | .focus g _ _ => if s.groupIs g .select then s else s.logRefusedAction k j.val a 1
  | .unknown _ => s.logRefusedAction k j.val a 3

/-- The debounce deadline is reached: the line is ACTIVE, its actions take effect in entry order, LINE_STATE is logged
(R149, R150). -/
def State.activateLine (s : State) (k : Fin 6) : State :=
  let s1 := s.putLine k { s.line k with state := .active, deadline := none }
  ((List.finRange 3).foldl (handleAction k) s1).logLine k .debounce .debounce

/-- A line is withdrawn (R155). -/
def State.withdrawLine (s : State) (k : Fin 6) : State :=
  let l := s.line k
  let s1 := s.putLine k { l with state := .quiet, deadline := none }
  let s2 :=
    match l.reqChannel with
    | some c => if l.request == ReqStatus.running || l.request == ReqStatus.pending then s1.withdrawRequest k c else s1
    | none => s1
  s2.putLine k { s2.line k with request := .none, acked := false }

/-- The input of a line evaluated afresh: an enabled line whose input is active enters DEBOUNCE, any other is QUIET (R149,
R157 step 3). -/
def LineRec.evaluated (l : LineRec) (now : Nat) : LineRec :=
  if l.enabled && l.inputActive then
    { l with state := .debounce, deadline := some (now + l.debounce * 1000), acked := false }
  else { l with state := .quiet, deadline := none }

/-- LINE_BOUNCE: the time spent in DEBOUNCE and the debounce time (R160). -/
def State.logBounce (s : State) (k : Fin 6) (since debounce : Nat) : State :=
  s.log .lineBounce k.val (wNat (s.now - since)) (wNat debounce)

/-- The BREAKIN of a line requested again where its status allows (R153). -/
def State.rerequest (s : State) (k : Fin 6) : State :=
  let l := s.line k
  match l.breakinSlot with
  | some j =>
    if s.breakinOpen && (l.request == ReqStatus.none || l.request == ReqStatus.stopped || l.request == ReqStatus.refused) then s.requestBreakin k j
    else s
  | none => s

/-- The input of an enabled line has changed, its raw level recorded (R148). The time in DEBOUNCE that LINE_BOUNCE carries counts
from the moment from which the debounce time counts: for a line that stayed in DEBOUNCE through an UPDATE LINE, from that update
(log entry 43). -/
def State.lineInput (s : State) (k : Fin 6) : State :=
  let l := s.line k
  match l.state, l.inputActive with
  | .quiet, true => (s.putLine k (l.evaluated s.now)).logLine k .quiet .input
  | .debounce, false =>
    let since := l.deadline.getD s.now - l.debounce * 1000
    ((s.putLine k { l with state := .quiet, deadline := none }).logBounce k since l.debounce).logLine k .debounce .input
  | .active, false =>
    if l.acked then (s.withdrawLine k).logLine k .active .input
    else (s.putLine k { l with state := .latched }).logLine k .active .input
  | .latched, true => ((s.putLine k { l with state := .active }).rerequest k).logLine k .latched .input
  | _, _ => s

/-- A change of an input's level (R148). On a disabled line the raw level alone is recorded. -/
def State.inputChange (s : State) (k : Fin 6) (high : Bool) : State :=
  let s1 := s.setLine k { s.line k with high := high }
  if (s.line k).enabled then s1.lineInput k else s1

/-- ACK carried out (R154). -/
def State.hostAck (s : State) (line : Nat) : State :=
  match toFin? 6 line with
  | none => s.finish .badArgument
  | some k =>
    match (s.line k).state with
    | .quiet => s.finish .nothingToAck
    | .debounce => s.finish .nothingToAck
    | .active => (s.putLine k { s.line k with acked := true }).finish .done
    | .latched => ((s.withdrawLine k).logLine k .latched .ack).finish .done

/-- A line's entry applied (R157 steps 1 to 4, R158): withdrawn when in force, its fields replaced by `set`, its input
evaluated afresh. -/
def State.applyLine (s : State) (k : Fin 6) (set : LineRec → LineRec) (cause : LineCause) : State :=
  let old := (s.line k).state
  let s1 := if old.inForce then (s.withdrawLine k).logLine k old cause else s
  let mid := (s1.line k).state
  let s2 := s1.putLine k ((set (s1.line k)).evaluated s.now)
  if (s2.line k).state = mid then s2 else s2.logLine k mid cause

/-- The fields of a fetched line entry (R156, R157). The request channel stays as last recorded, also where the entry has no BREAKIN
any more: the model's choice, log entry 45. -/
def LineRec.withEntry (l : LineRec) (e : LineEntry) : LineRec :=
  { l with enabled := e.enabled, activeLow := e.activeLow, debounce := e.debounce, actions := e.actions }

/-- The fields of a new plan's line entry: the acknowledged flag clear and the request channel none (R158). -/
def LineRec.reloaded (l : LineRec) (e : LineEntry) : LineRec := { l.withEntry e with acked := false, reqChannel := none }

/-- An ACTIVE line with a BREAKIN requests it at RESUME (R159). -/
def resumeLine (s : State) (k : Fin 6) : State :=
  match (s.line k).state, (s.line k).breakinSlot with
  | .active, some j => s.requestBreakin k j
  | _, _ => s

/-! ### What is in force (R124, R137) -/

/-- The actions of the lines in force. -/
def State.actionsInForce (s : State) : List Action :=
  (List.finRange 6).flatMap fun k => if (s.line k).state.inForce then (s.line k).actions.xs else []

/-- The focus bonus of section `k` in group `g`: the largest of the FOCUS actions in force that name both (R124). -/
def State.focusBonus (s : State) (g : Fin 12) (k : Fin 24) : Nat :=
  s.actionsInForce.foldl (fun acc a =>
    match a with
    | .focus g' m bonus => if g' = g.val && has m k then max acc bonus else acc
    | _ => acc) 0

/-- Section `k` is forced in band `b` of group `g` (R137). -/
def State.isForced (s : State) (g : Fin 12) (b : Fin 8) (k : Fin 24) : Bool :=
  s.actionsInForce.any fun a =>
    match a with
    | .forceOpen g' bands m => g' = g.val && bands.getLsbD b.val && has m k
    | _ => false

end Sys2Proof.Machine
end

