-- ==== Sys2Proof/Machine/Vote.lean ====
section
/-! DEFINITION. Rescue radio voting (chapter 07) and mobile uplink gating (chapter 08). -/

namespace Sys2Proof.Machine

/-! ### Voting -/

/-- The vote contents of a gather that opens (R120). -/
def Vote.opened : Vote := ⟨none, 0, 0, zeros 48, 0, 0⟩

/-- The sum of the terms of R122. -/
def metricSum (p : VoteParams) (level err : Nat) (crcOk isLast degraded : Bool) (focus : Nat) : Int :=
  4 * level + (if crcOk then (p.crcBonus : Int) else 0) + (if isLast then (p.hysteresis : Int) else 0) + focus
    - p.errorWeight * err - (if degraded then (p.penalty : Int) else 0)

/-- The metric: the sum clamped to 0 … 1593 (R122). -/
def metricOf (p : VoteParams) (level err : Nat) (crcOk isLast degraded : Bool) (focus : Nat) : Nat :=
  min (metricSum p level err crcOk isLast degraded focus).toNat 1593

/-- The metric of the block in a line from section `k` for group `g`, from the state at its join (R122, R123). -/
def State.metric (s : State) (g : Fin 12) (k : Fin 24) (line : List Byte) : Nat :=
  metricOf (s.grp g).vote (field line 4 1) (field line 5 1) (uplinkFlag line 1) ((s.grp g).lastWinner == some k)
    ((s.sec k).state = .degraded) (s.focusBonus g k)

/-- A block of metric `m` from section `k` becomes the best candidate (R125). -/
def Vote.beats (v : Vote) (k : Fin 24) (m : Nat) : Bool :=
  match v.best with
  | none => true
  | some b => decide (v.metric < m) || (decide (v.metric = m) && decide (k < b))

/-- The vote contents after a block joins (R121, R125). -/
def Vote.joined (v : Vote) (k : Fin 24) (m : Nat) (line : List Byte) : Vote :=
  let v1 := { v with candidates := v.candidates + 1 }
  if uplinkFlag line 0 then
    let v2 := { v1 with eligible := v.eligible + 1 }
    if v.beats k m then
      { v2 with best := some k, metric := m, timeslot := field line 2 1 % 4, payload := (line.drop 16).take 48 }
    else v2
  else v1

/-! ### Gating -/

/-- The band report in a line from section `k`, as a gather stores it (R131, R133). -/
def storedReport (k : Fin 24) (line : List Byte) : Report8 :=
  ⟨k, (line.drop 8).take 8, uplinkFlag line 0, uplinkFlag line 1⟩

/-- The stored report of a contributor. -/
def Gather.reportOf (ga : Gather) (k : Fin 24) : Option Report8 := ga.reports.find? fun r => r.sec = k

/-- Section `k` is a candidate of a close of group `g`: in its set and eligible at the close (R135). -/
def State.isCandidate (s : State) (g : Fin 12) (k : Fin 24) : Bool :=
  has (s.grp g).set k && (s.sec k).state.eligible

/-- The band power code of a candidate in band `b`, 0 where it has not reported (R135). -/
def Gather.power (ga : Gather) (b : Fin 8) (k : Fin 24) : Nat :=
  match ga.reportOf k with
  | some r => (r.codes.getD b.val 0).toNat
  | none => 0

/-- Whether a candidate wants its gate, and its new hold (R136). -/
def wantsGate (p : BandParams) (reported isOpen : Bool) (hold power : Nat) : Bool × Nat :=
  if reported && decide (p.tOpen ≤ power) then (true, p.hold)
  else if reported && isOpen && decide (p.tClose ≤ power) then (true, p.hold)
  else if 0 < hold then (true, hold - 1)
  else (false, 0)

/-- A forced section that is opened: neither LOST nor DISABLED at the close (R137). -/
def State.forcedOpen (s : State) (g : Fin 12) (b : Fin 8) (k : Fin 24) : Bool :=
  s.isForced g b k && (s.sec k).state.eligible

/-- A candidate's decision under R136 in band `b`; a section that is no candidate does not want and holds 0. -/
def State.want (s : State) (ga : Gather) (b : Fin 8) (k : Fin 24) : Bool × Nat :=
  if s.isCandidate ga.group k then
    let gr := s.grp ga.group
    let gate := gr.gates.get b
    wantsGate (gr.bands.get b) (has ga.contributors k) (has gate.isOpen k) (gate.hold.get k) (ga.power b k)
  else (false, 0)

/-- A wanter: a candidate that wants its gate and is not opened as forced (R138). -/
def State.isWanter (s : State) (ga : Gather) (b : Fin 8) (k : Fin 24) : Bool :=
  (s.want ga b k).1 && !s.forcedOpen ga.group b k

/-- A wanter is degraded: by its section's state, or by its own report in this gather (R138). -/
def State.rankDegraded (s : State) (ga : Gather) (k : Fin 24) : Bool :=
  (s.sec k).state = .degraded ||
    (match ga.reportOf k with
     | some r => r.feederFault || r.unitAlarm
     | none => false)

/-- Section `j` ranks ahead of section `k` (R138): healthy first, then by power, then the lower section. -/
def State.ranksAhead (s : State) (ga : Gather) (b : Fin 8) (j k : Fin 24) : Bool :=
  let dj := s.rankDegraded ga j
  let dk := s.rankDegraded ga k
  if dj != dk then dk
  else if ga.power b j = ga.power b k then decide (j < k)
  else decide (ga.power b k < ga.power b j)

/-- The wanters that rank ahead of section `k`. -/
def State.aheadOf (s : State) (ga : Gather) (b : Fin 8) (k : Fin 24) : Nat :=
  ((List.finRange 24).filter fun j => s.isWanter ga b j && s.ranksAhead ga b j k).length

/-- The sections forced and opened in a band (R137). -/
def State.forcedSet (s : State) (g : Fin 12) (b : Fin 8) : SecSet := secSet (s.forcedOpen g b)

/-- The budget of a band left by the forced sections (R138). -/
def State.budget (s : State) (g : Fin 12) (b : Fin 8) : Nat :=
  ((s.grp g).bands.get b).budget - card (s.forcedSet g b)

/-- A wanter opened within the budget: fewer wanters than the budget rank ahead of it (R138). -/
def State.openedByRank (s : State) (ga : Gather) (b : Fin 8) (k : Fin 24) : Bool :=
  s.isWanter ga b k && decide (s.aheadOf ga b k < s.budget ga.group b)

/-- The gate map of a band (R140). -/
def State.gateMap (s : State) (ga : Gather) (b : Fin 8) : GateMap where
  opened := secSet fun k => s.forcedOpen ga.group b k || s.openedByRank ga b k
  forced := s.forcedSet ga.group b
  denied := secSet fun k => s.isWanter ga b k && !s.openedByRank ga b k

/-- The gate state of a band after a close (R139). -/
def State.gateAfter (s : State) (ga : Gather) (b : Fin 8) : GateBand where
  isOpen := (s.gateMap ga b).opened
  hold := Table.ofFn fun k => (s.want ga b k).2

end Sys2Proof.Machine
end

