-- ==== Sys2Proof/Machine/Gathering.lean ====
section
/-! DEFINITION. The gather engine (chapter 06): arrivals, opens, joins, closes, flushes, output reads, UPDATE GROUP. -/

namespace Sys2Proof.Machine

/-- The number of OPEN records of a group (R101, R117). -/
def State.openCount (s : State) (g : Fin 12) : Nat := (s.gather.opens.filter fun ga => ga.group = g).length

/-- The records of the pool in use (R102). -/
def State.poolUsed (s : State) : Nat := s.gather.opens.length + s.gather.results.length

/-- A gather record has a key. -/
def Gather.hasKey (ga : Gather) (g : Fin 12) (n : Nat) : Bool := ga.group = g && ga.pos = n

/-- The OPEN record of a key. -/
def State.openAt (s : State) (g : Fin 12) (n : Nat) : Option Gather := s.gather.opens.find? fun ga => ga.hasKey g n

/-- The expected set of a gather of group `g` at this moment (R108). -/
def State.expectedSet (s : State) (g : Fin 12) : SecSet := secSet (s.isCandidate g)

/-- The contributors cover the expected set (R108). -/
def State.covered (s : State) (ga : Gather) : Bool :=
  (List.finRange 24).all fun k => !s.isCandidate ga.group k || has ga.contributors k

/-- A group record replaced, its mirror record dirty (R117). -/
def State.putGrp (s : State) (g : Fin 12) (r : Group) : State := (s.setGrp g r).mark (mirrorOfGroup g)

/-- The result line of a gather that closes (R112, R127, R140). -/
def State.resultLine (s : State) (ga : Gather) (st : CloseStatus) : List Byte :=
  let expected := card (s.expectedSet ga.group)
  match (s.grp ga.group).kind with
  | .select => resultSelect ga st expected
  | .rank => resultRank ga st expected (Table.ofFn fun b => s.gateMap ga b)

/-- The group record after a close: the count of the status, the last winner or the gate state (R110, R128, R139). -/
def State.groupAfterClose (s : State) (ga : Gather) (st : CloseStatus) : Group :=
  let gr := s.grp ga.group
  let gr1 := { gr with counts := gr.counts.set st.idx (bump (gr.counts.get st.idx)) }
  match gr.kind with
  | .select =>
    match ga.vote.best with
    | some k => { gr1 with lastWinner := some k }
    | none => gr1
  | .rank => { gr1 with gates := Table.ofFn fun b => s.gateAfter ga b }

/-- Close statuses that are logged as GATHER_ABNORMAL (R110). -/
def CloseStatus.abnormal : CloseStatus → Bool
  | .evicted => true | .superseded => true | .retryLimit => true
  | .complete => false | .deadline => false | .onRead => false | .flushed => false

/-- GATHER_ABNORMAL (R110). -/
def State.logAbnormal (s : State) (ga : Gather) (st : CloseStatus) (expected : Nat) : State :=
  s.log .gatherAbnormal ga.group.val (w2 ga.pos ga.seq) (w4 st.code (card ga.contributors) expected 0)

/-- An OPEN gather closes with a status (R110): its result is computed from the state at this moment, it joins the tail of
the result list, its group's count increments, an abnormal close is logged. -/
def State.closeGather (s : State) (ga : Gather) (st : CloseStatus) : State :=
  let closed := { ga with status := some st, deadline := none, result := s.resultLine ga st }
  let s1 := s.putGrp ga.group (s.groupAfterClose ga st)
  let s2 := { s1 with gather := { s1.gather with
    opens := s.gather.opens.filter fun x => !x.hasKey ga.group ga.pos
    results := s.gather.results ++ [closed] } }
  if st.abnormal then s2.logAbnormal ga st (card (s.expectedSet ga.group)) else s2

/-- The record of a gather after section `k` joins it with a line (R105, R121, R133). -/
def State.joinedRecord (s : State) (ga : Gather) (k : Fin 24) (line : List Byte) : Gather :=
  let ga1 := { ga with contributors := ga.contributors ||| single k }
  match (s.grp ga.group).kind with
  | .select => { ga1 with vote := ga.vote.joined k (s.metric ga.group k line) line }
  | .rank => { ga1 with reports := ga.reports ++ [storedReport k line] }

/-- The OPEN record of a key replaced. -/
def State.putOpen (s : State) (ga : Gather) : State :=
  { s with gather := { s.gather with
      opens := s.gather.opens.map fun x => if x.hasKey ga.group ga.pos then ga else x } }

/-- Section `k` joins an OPEN gather (R105): the contributor mask, the kind's computation, the check for completion. -/
def State.joinGather (s : State) (ga : Gather) (k : Fin 24) (line : List Byte) : State :=
  let ga1 := s.joinedRecord ga k line
  let s1 := s.putOpen ga1
  if s1.covered ga1 then s1.closeGather ga1 .complete else s1

/-- A gather as it opens for an arrival (R106). -/
def State.openedRecord (s : State) (a : Arrival) : Gather where
  group := a.group
  pos := a.pos
  seq := a.seq
  firstArrival := s.now
  deadline := some (s.now + (s.grp a.group).closeDelay)
  contributors := 0
  retries := 0
  status := none
  result := []
  vote := Vote.opened
  reports := []

/-- A gather opens for an arrival in a free record, and the arrival's section joins it (R106). -/
def State.openGather (s : State) (a : Arrival) : State :=
  let ga := s.openedRecord a
  let s1 := { s with gather := { s.gather with opens := s.gather.opens ++ [ga] } }.mark (mirrorOfGroup a.group)
  s1.joinGather ga a.sec a.line

/-- The earlier of two OPEN gathers for eviction: first arrival, then group, then position (R107). -/
def earlier (a b : Gather) : Gather :=
  if b.firstArrival < a.firstArrival then b
  else if b.firstArrival = a.firstArrival ∧ (b.group < a.group ∨ (b.group = a.group ∧ b.pos < a.pos)) then b
  else a

/-- The gather to be evicted, if any is OPEN (R107). -/
def evictee : List Gather → Option Gather
  | [] => none
  | a :: as =>
    match evictee as with
    | some b => some (earlier a b)
    | none => some a

/-- An arrival that must open a gather: in a free record, or after an eviction it waits on the pool (R106, R107). -/
def State.openOrWait (s : State) (a : Arrival) : State :=
  if s.poolUsed < 32 then s.openGather a
  else
    let s1 := match evictee s.gather.opens with
      | some ga => s.closeGather ga .evicted
      | none => s
    { s1 with gather := { s1.gather with waiting := some a } }

/-- DUPLICATE or LATE: the group's count increments and the arrival is ignored (R104). -/
def State.countDuplicate (s : State) (g : Fin 12) : State :=
  s.putGrp g { s.grp g with duplicates := bump (s.grp g).duplicates }

def State.countLate (s : State) (g : Fin 12) : State :=
  s.putGrp g { s.grp g with lates := bump (s.grp g).lates }

/-- An arrival decided against the records of its key (R104). -/
def State.arrive (s : State) (a : Arrival) : State :=
  match s.openAt a.group a.pos with
  | some ga =>
    if ga.seq = a.seq then
      if has ga.contributors a.sec then s.countDuplicate a.group else s.joinGather ga a.sec a.line
    else (s.closeGather ga .superseded).openOrWait a
  | none =>
    if s.gather.results.any fun ga => ga.hasKey a.group a.pos && ga.seq = a.seq then s.countLate a.group
    else s.openOrWait a

/-- The line index of a write within its UPLINK region (R5). -/
def Group.lineIndex (gr : Group) (a : Nat) : Nat := (a - gr.uplinkBase) / 64

/-- The section a write's address names (R5). -/
def Group.sectionOf (gr : Group) (a : Nat) : Option (Fin 24) := toFin? 24 (gr.lineIndex a / gr.ringLen)

/-- The position a write's address names (R5). -/
def Group.positionOf (gr : Group) (a : Nat) : Nat := gr.lineIndex a % gr.ringLen

/-- PARTIAL_UPLINK (R103). -/
def State.logPartial (s : State) (g : Fin 12) (k : Fin 24) (n : Nat) (b : WriteBurst) : State :=
  s.log .partialUplink g.val (w4 k.val b.words.length (n % 256) (n / 256)) (wNat b.addr)

/-- A taken UPLINK(g) write at the gather engine (R103). -/
def State.gatherWrite (s : State) (g : Fin 12) (b : WriteBurst) : State :=
  let gr := s.grp g
  match gr.sectionOf b.addr with
  | none => s
  | some k =>
    let n := gr.positionOf b.addr
    if !s.gather.taking then s
    else if !b.fullLine then s.logPartial g k n b
    else if !has gr.set k || (s.sec k).state = .disabled then s
    else s.arrive ⟨k, g, n, uplinkSeq b.lineBytes, b.lineBytes⟩

/-! ### Section moves and flushes -/

/-- One OPEN gather stands before another in the order of closes: ascending group, then position (R108, R116). -/
def keyLe (a b : Gather) : Bool := decide (a.group < b.group) || (a.group = b.group && decide (a.pos ≤ b.pos))

/-- A gather put into its place in a list in the order of `keyLe`. -/
def insertKey (a : Gather) : List Gather → List Gather
  | [] => [a]
  | b :: bs => if keyLe a b then a :: b :: bs else b :: insertKey a bs

/-- OPEN gathers in the order of `keyLe`. -/
def sortKeys (l : List Gather) : List Gather := l.foldr insertKey []

/-- An OPEN gather of a group with section `k` that is now covered closes as COMPLETE (R10, R108). -/
def checkComplete (k : Fin 24) (s : State) (ga : Gather) : State :=
  if has (s.grp ga.group).set k && s.covered ga then s.closeGather ga .complete else s

/-- Section `k` has left the expected sets: completions follow in ascending order (R10, R108). -/
def State.leaveExpected (s : State) (k : Fin 24) : State := (sortKeys s.gather.opens).foldl (checkComplete k) s

/-- The gate state of section `k` cleared in a band. -/
def GateBand.without (b : GateBand) (k : Fin 24) : GateBand := ⟨b.isOpen &&& ~~~(single k), b.hold.set k 0⟩

/-- The gate state of section `k` cleared in every band of a group. -/
def Group.clearGate (gr : Group) (k : Fin 24) : Group := { gr with gates := Table.ofFn fun b => (gr.gates.get b).without k }

/-- Section `k`'s gate state cleared in every RANK group (R11). -/
def State.clearGates (s : State) (k : Fin 24) : State :=
  { s with gather := { s.gather with groups := Table.ofFn fun g =>
      if (s.grp g).kind = .rank then (s.grp g).clearGate k else s.grp g } }

/-- The arrival waiting on the pool ends its wait: no gather opens and the queue moves on (R115, R116). -/
def State.endWait (s : State) : State :=
  if s.gather.waiting.isSome then
    { s with gather := { s.gather with waiting := none }, path := { s.path with queue := s.path.queue.tail } }
  else s

/-- A gather closes as FLUSHED. -/
def flushOne (s : State) (ga : Gather) : State := s.closeGather ga .flushed

/-- The whole pool flushed (R116): arrivals are no longer taken, a wait ends, every OPEN gather closes as FLUSHED. -/
def State.flushPool (s : State) : State :=
  let s1 := { s with gather := { s.gather with taking := false } }.endWait
  (sortKeys s1.gather.opens).foldl flushOne s1

/-! ### Output reads (R113) -/

/-- The position an OUTPUT read names (R113). -/
def Group.outputPos (gr : Group) (a : Nat) : Nat := (a - gr.outputBase) / 64

/-- The CLOSING records of a key (R114). -/
def State.closingCount (s : State) (g : Fin 12) (n : Nat) : Nat :=
  (s.gather.results.filter fun ga => ga.hasKey g n).length

/-- What the gather engine answers an OUTPUT read (R113). -/
inductive OutputAnswer where
  | retry
  | held (awaited : Nat)
  | released
  deriving DecidableEq, Repr

/-- An OUTPUT(g) read at position `n` decided (R113). -/
def State.outputRead (s : State) (g : Fin 12) (n : Nat) : State × OutputAnswer :=
  let gr := s.grp g
  match s.openAt g n with
  | some ga =>
    match gr.policy with
    | .onRead =>
      let s1 := s.closeGather ga .onRead
      (s1, .held (s1.closingCount g n))
    | .wait =>
      let ga1 := { ga with retries := ga.retries + 1 }
      let s1 := s.putOpen ga1
      if ga1.retries = gr.retryLimit then
        let s2 := s1.closeGather ga1 .retryLimit
        (s2, .held (s2.closingCount g n))
      else (s1, .retry)
  | none =>
    let c := s.closingCount g n
    if 0 < c then (s, .held c) else (s, .released)

/-! ### UPDATE GROUP (R115) -/

/-- The group record with an entry's set, close delay, policy, retry limit and parameters. -/
def Group.withEntry (gr : Group) (e : GroupEntry) : Group :=
  { gr with set := e.set, closeDelay := e.closeDelay, policy := e.policy, retryLimit := e.retryLimit,
            vote := e.vote, bands := e.bands }

/-- The group's own state after its section set has changed (R115 step 4). -/
def Group.setChanged (gr : Group) (old : SecSet) : Group :=
  let gone := old &&& ~~~gr.set
  { gr with
    lastWinner := match gr.lastWinner with
      | some k => if has gr.set k then some k else none
      | none => none
    gates := Table.ofFn fun b => (members gone).foldl GateBand.without (gr.gates.get b) }

/-- The entry of an UPDATE GROUP can be applied (R115). -/
def Group.accepts (gr : Group) (e : GroupEntry) : Bool :=
  gr.present && e.present && groupKindOf e.kind = some gr.kind && e.ringLen = gr.ringLen

/-- A waiting arrival of group `g` ends its wait (R115 step 2). -/
def State.endWaitOf (s : State) (g : Fin 12) : State :=
  match s.gather.waiting with
  | some a => if a.group = g then s.endWait else s
  | none => s

/-- UPDATE GROUP applied (R115 steps 1 to 4). -/
def State.applyGroup (s : State) (g : Fin 12) (e : GroupEntry) : State :=
  let s1 := (sortKeys (s.gather.opens.filter fun ga => ga.group = g)).foldl flushOne s
  let s2 := s1.endWaitOf g
  let old := s2.grp g
  let new := (old.withEntry e).setChanged old.set
  (s2.setGrp g new).markIf (old.lastWinner != new.lastWinner) (mirrorOfGroup g)

/-- The group record a new plan gives (R116): a group that is not present stands at its reset values (log entry 22). -/
def loadGroup (e : GroupEntry) (uplinkBase outputBase : Nat) : Group :=
  if e.present then
    { ({ Group.atReset with
          present := true
          kind := (groupKindOf e.kind).getD .select
          ringLen := e.ringLen
          uplinkBase := uplinkBase
          outputBase := outputBase } : Group).withEntry e with lastWinner := none }
  else Group.atReset

end Sys2Proof.Machine
end

