-- ==== Sys2Proof/Machine/Sections.lean ====
section
/-! DEFINITION. The section supervisor (chapter 01): uplink writes, revival, loss, UPDATE SECTION. -/

namespace Sys2Proof.Machine

/-- The causes of SECTION_STATE, by code (chapter 12). -/
inductive SecCause where
  | expiry | arrival | report | update
  deriving DecidableEq, Repr

def SecCause.code : SecCause → Nat
  | .expiry => 1 | .arrival => 2 | .report => 3 | .update => 4

/-- A section record replaced. Its mirror record becomes dirty at a change of state, flags or transitions (R15). -/
def State.putSec (s : State) (k : Fin 24) (r : SectionRec) : State :=
  let old := s.sec k
  (s.setSec k r).markIf (old.state != r.state || old.feederFault != r.feederFault || old.unitAlarm != r.unitAlarm
    || old.transitions != r.transitions) (mirrorOfSec k)

/-- The loss deadline from a refresh time and a timeout in ms (R4). -/
def lossDeadline (refresh timeout : Nat) : Nat := refresh + timeout * 1000

/-- The record with its loss timer restarted at `now` (R4). -/
def SectionRec.refreshed (r : SectionRec) (now : Nat) : SectionRec :=
  { r with refresh := now, deadline := some (lossDeadline now r.lossTimeout) }

/-- A section moves to a new state: the transition is counted and logged with its cause (R15). -/
def State.moveSec (s : State) (k : Fin 24) (r : SectionRec) (new : SectionState) (cause : SecCause) : State :=
  let n := bump r.transitions
  (s.putSec k { r with state := new, transitions := n }).log .sectionState k.val
    (w4 r.state.code new.code cause.code 0) (w2 n 0)

/-- The state a heard section takes from its flags (R6, R7). -/
def heardState (feeder alarm : Bool) : SectionState := if feeder || alarm then .degraded else .online

/-- The record after a taken uplink write has restarted the timer (R4) and, for a band report, recorded its flags (R7). -/
def SectionRec.heard (r : SectionRec) (now : Nat) (flags : Option (Bool × Bool)) : SectionRec :=
  match flags with
  | some f => { r.refreshed now with feederFault := f.1, unitAlarm := f.2 }
  | none => r.refreshed now

/-- A taken uplink write for section `k` (R5, R6, R7). `flags` are those of a band report, absent for any other write. -/
def State.superviseSec (s : State) (k : Fin 24) (flags : Option (Bool × Bool)) : State :=
  let r := s.sec k
  let r1 := r.heard s.now flags
  let new := heardState r1.feederFault r1.unitAlarm
  match r.state with
  | .disabled => s
  | .unseen => (s.putSec k r1).moveSec k r1 new .arrival
  | .lost => (s.putSec k r1).moveSec k r1 new .arrival
  | .online =>
    if flags.isSome && new = .degraded then (s.putSec k r1).moveSec k r1 .degraded .report else s.putSec k r1
  | .degraded =>
    if flags.isSome && new = .online then (s.putSec k r1).moveSec k r1 .online .report else s.putSec k r1

/-- The flags of a band report: those of a full line in a RANK group's region (R7). -/
def State.reportFlags (s : State) (g : Fin 12) (b : WriteBurst) : Option (Bool × Bool) :=
  if b.fullLine && (s.grp g).kind = .rank then some (uplinkFlag b.lineBytes 0, uplinkFlag b.lineBytes 1) else none

/-- A taken UPLINK(g) write at the section supervisor (R5). -/
def State.superviseWrite (s : State) (g : Fin 12) (b : WriteBurst) : State :=
  match (s.grp g).sectionOf b.addr with
  | some k => s.superviseSec k (s.reportFlags g b)
  | none => s

/-- A section moves to LOST (R9): its deadline absent, the move logged, its gathers checked (R10), its gates cleared (R11). -/
def State.loseSec (s : State) (k : Fin 24) : State :=
  ((s.moveSec k { s.sec k with deadline := none } .lost .expiry).leaveExpected k).clearGates k

/-- A section moves to DISABLED with the four effects of R14. -/
def State.disableSec (s : State) (k : Fin 24) (timeout : Nat) : State :=
  let r : SectionRec := { s.sec k with
    enabled := false, lossTimeout := timeout, deadline := none, feederFault := false, unitAlarm := false }
  (((s.moveSec k r .disabled .update).leaveExpected k).clearGates k).clearSection k

/-- A section is enabled: from DISABLED to UNSEEN with its timer started (R14). -/
def State.enableSec (s : State) (k : Fin 24) (timeout : Nat) : State :=
  let r : SectionRec := { s.sec k with
    enabled := true, lossTimeout := timeout, refresh := s.now, deadline := some (lossDeadline s.now timeout)
    feederFault := false, unitAlarm := false }
  s.moveSec k r .unseen .update

/-- A new loss timeout for an enabled section (R14): a running timer's deadline follows, and one already passed expires at
once. -/
def State.retimeSec (s : State) (k : Fin 24) (timeout : Nat) : State :=
  let r := s.sec k
  let s1 := s.putSec k { r with
    lossTimeout := timeout, deadline := r.deadline.map fun _ => lossDeadline r.refresh timeout }
  if r.deadline.isSome && decide (lossDeadline r.refresh timeout ≤ s.now) then s1.loseSec k else s1

/-- A fetched section entry applied (R14). -/
def State.applySection (s : State) (k : Fin 24) (enabled : Bool) (timeout : Nat) : State :=
  match (s.sec k).enabled, enabled with
  | true, true => s.retimeSec k timeout
  | true, false => s.disableSec k timeout
  | false, true => s.enableSec k timeout
  | false, false => s.putSec k { s.sec k with lossTimeout := timeout }

/-- A section record as a plan swap initialises it (R3). -/
def swappedSection (enabled : Bool) (timeout now : Nat) (old : SectionRec) : SectionRec where
  enabled := enabled
  lossTimeout := timeout
  state := if enabled then .unseen else .disabled
  refresh := if enabled then now else old.refresh
  deadline := if enabled then some (lossDeadline now timeout) else none
  feederFault := false
  unitAlarm := false
  transitions := 0

end Sys2Proof.Machine
end

