-- ==== Sys2Proof/Machine/Tracking.lean ====
section
/-! DEFINITION. The programme tracker (chapter 03): heads, block time, the view translation. -/

namespace Sys2Proof.Machine

/-- The sections that step at draw `d` after `n` channels have been handled (R91, log entry 7). -/
def stepSet (d : Nat) (n : Fin 5) : SecSet := secSet fun k => Config.stepAt d k = n

/-- A channel takes a block-time event, the sections that step just before it having stepped (R71, R91). -/
def handleChan (d : Nat) (s : State) (c : Fin 4) : State := advanceChan (s.stepGains (stepSet d c.castSucc)) c

/-- A block-time event (R51): handed to the playout unit, whose live channels take it in ascending order (R71, log entry 9), and
to the break-in mixer. When each section steps among the channels is free (R91, log entry 7). -/
def State.blockTime (s : State) : State :=
  ((List.finRange 4).foldl (handleChan s.free) { s with free := s.free + 1 }).stepGains (stepSet s.free 4)

/-- The watchdog time: 4000 µs (R44, R47). -/
def watchdogTime : Nat := 4000

/-- The free-run period: 1000 µs (R48). -/
def freeRunPeriod : Nat := 1000

/-- The first detail word of REFERENCE_LOST and REFERENCE_REGAINED (R49). -/
def ProgRec.headWord (r : ProgRec) : Word := w2 r.head r.gen

/-- The watchdog deadline is reached in LOCKED (R48). -/
def State.watchdogDue (s : State) : Bool := s.tracker.timing = .locked && reached s.tracker.watchdog s.now

/-- The next free-run time is reached in FREE_RUN (R48). -/
def State.freeRunDue (s : State) : Bool := s.tracker.timing = .freeRun && reached s.tracker.nextFree s.now

/-- A block-time event of the timebase falls at this moment and has not been taken yet (R48). -/
def State.eventDue (s : State) : Bool := s.watchdogDue || s.freeRunDue

/-- The draw of a view read served at the moment of a block-time event (R93). -/
def State.drawSight (s : State) : State := if s.eventDue then { s with free := s.free + 1 } else s

/-- A block-time event taken at the playout unit and not yet at the mixer: every live channel advances, and the releases and
joins of the channels that end or begin at the event have acted, because a release is complete before its channel's window is
cleared (R71, R86). -/
def State.channelTime (s : State) : State := (List.finRange 4).foldl advanceChan s

/-- A block-time event taken at the mixer and not yet at the playout unit: every section steps (R88 to R90). -/
def State.gainTime (s : State) : State := s.stepGains (BitVec.allOnes 24)

/-- What a view read served now sees (R93): this state, but at the moment of a block-time event that event taken or not taken
at the playout unit and at the mixer, each free (log entry 40). -/
def State.sight (s : State) : State :=
  if s.eventDue then
    let z := match Config.seesPlay s.free, Config.seesGain s.free with
      | true, true => s.drawSight.blockTime
      | true, false => s.channelTime
      | false, true => s.gainTime
      | false, false => s
    { s with playout := z.playout, mixer := z.mixer }
  else s

/-- The watchdog deadline in LOCKED is reached: the reference is lost (R48). REFERENCE_LOST carries the last advance time in
milliseconds; the manual does not say how a part of a millisecond is rounded nor what becomes of a time above 32 bits, and the
model rounds down and keeps the low 32 bits (log entry 36). -/
def State.loseReference (s : State) : State :=
  let s1 := { s with tracker := { s.tracker with timing := .freeRun, watchdog := none } }
  let s2 := match s.tracker.reference with
    | some p => s1.log .referenceLost p.val (s.prog p).headWord (wNat ((s.prog p).lastAdvance / 1000))
    | none => s1
  let s3 := s2.blockTime
  { s3 with tracker := { s3.tracker with freeCount := 1, nextFree := some (s.now + freeRunPeriod) } }

/-- The next free-run time is reached (R48). -/
def State.freeRunEvent (s : State) : State :=
  let s1 := s.blockTime
  { s1 with tracker := { s1.tracker with
      freeCount := bump s1.tracker.freeCount, nextFree := s1.tracker.nextFree.map (· + freeRunPeriod) } }

/-- A head advance of programme `p` to block `n` (R46). -/
def State.setHead (s : State) (p : Fin 6) (n : Nat) : State :=
  let r := s.prog p
  { s with tracker := { s.tracker with
      progs := s.tracker.progs.set p { r with head := n, gen := wrap16 r.gen, lastAdvance := s.now } } }

/-- The advance of the reference in LOCKED: a block-time event, the watchdog moved on (R47). -/
def State.lockedAdvance (s : State) : State :=
  let s1 := s.blockTime
  { s1 with tracker := { s1.tracker with watchdog := some (s.now + watchdogTime) } }

/-- The advance of the reference in FREE_RUN regains it (R49). -/
def State.regainReference (s : State) (p : Fin 6) : State :=
  let s1 := s.log .referenceRegained p.val (s.prog p).headWord (w2 s.tracker.freeCount 0)
  let s2 := { s1 with tracker := { s1.tracker with timing := .locked, nextFree := none } }
  s2.lockedAdvance

/-- A taken write that covers the last word of block `n` of programme `p` (R46, R47, R49). -/
def State.headAdvance (s : State) (p : Fin 6) (n : Nat) : State :=
  let s1 := s.setHead p n
  if s.tracker.reference = some p then
    match s.tracker.timing with
    | .locked => s1.lockedAdvance
    | .freeRun => s1.regainReference p
    | .stopped => s1
  else s1

/-- The write covers the last word of its block: line 2, word 15 (R45). -/
def coversLast (base : Nat) (b : WriteBurst) : Bool := (b.addr - base) % 192 / 64 = 2 && b.covers 15

/-- A taken PROGRAMME(p) write (R45, R46). -/
def State.programmeWrite (s : State) (p : Fin 6) (b : WriteBurst) : State :=
  let base := (s.prog p).base
  if coversLast base b then s.headAdvance p ((b.addr - base) / 192) else s

/-- The frames of a read burst at line `j` of its block, in burst order (R52). -/
def viewFrames (j a len : Nat) : List Nat := (List.range len).map fun t => 16 * j + burstWord a t

/-- The translation of a VIEW(p) read at an offset of its region (R52): the section, position, line and remapped address. -/
def viewTranslate (viewBase ringBase ringLen : Nat) (p : Fin 6) (b : ReadBurst) : Option (ViewRead × Nat) :=
  let o := b.addr - viewBase
  let blk := o / 192
  let n := blk % ringLen
  let r := o % 192
  match toFin? 24 (blk / ringLen) with
  | some k => some (⟨k, p, n, r / 64, viewFrames (r / 64) b.addr b.len⟩, ringBase + n * 192 + r)
  | none => none

/-- The tracker as a plan swap initialises it (R44, R50). -/
def swappedTracker (progs : Table ProgRec 6) (reference : Option (Fin 6)) (now : Nat) : Tracker where
  progs := progs
  reference := reference
  timing := if reference.isSome then .locked else .freeRun
  watchdog := if reference.isSome then some (now + watchdogTime) else none
  nextFree := if reference.isSome then none else some (now + freeRunPeriod)
  freeCount := 0

end Sys2Proof.Machine
end

