-- ==== Sys2Proof/Machine/Path.lean ====
section
/-! DEFINITION. The memory path (chapter 02): classification, refusals, the posted-write queue, presented reads. -/

namespace Sys2Proof.Machine

/-- The classification of the line of an address (R19 to R21): beyond memory in every part state; PLAIN without a plan in
force; otherwise by the table. -/
def State.classify (s : State) (a : Nat) : LineKind :=
  if s.path.memSize ≤ a then .beyondMemory
  else if s.inForce then s.path.kindAt a
  else .plain

/-- A write to a line of this kind is refused (R19, R23, R24). -/
def State.refuses (s : State) (k : LineKind) : Bool :=
  match k with
  | .view _ => true | .output _ => true | .mirror => true | .log => true | .beyondMemory => true
  | .clip => s.path.fence != .down
  | .plain => false | .programme _ => false | .uplink _ => false | .plan => false

/-- The transaction in progress gets its response and ends (R18). -/
def State.respond (s : State) (r : Response) : State := { s with path := { s.path with txn := none, response := some r } }

/-- A refused write: ERROR, no slot, WRITE_REFUSED with the address, length and reason (R23). The reason's code is the code
of the line kind. -/
def State.refuseWrite (s : State) (b : WriteBurst) (k : LineKind) : State :=
  (s.respond .error).log .writeRefused k.code (wNat b.addr) (w4 b.words.length k.code 0 0)

/-- The memory path drains for an installation (R33). -/
def State.draining (s : State) : Bool :=
  match s.stage with
  | some (.draining _) => true
  | _ => false

/-- The queue entry of an accepted write, with the watched words it covers (R20, R25, R26). -/
def State.entryFor (s : State) (b : WriteBurst) (k : LineKind) : QEntry where
  burst := b
  kind := k
  watchChange := s.plan.partState != .awaitAnchor && (b.fullWordAt s.anchorAddr).isSome
  watchConsumer := s.inForce && (b.fullWordAt (s.anchorAddr + 64)).isSome

/-- The first write accepted in AWAIT_ANCHOR captures the anchor, its address rounded down to 4 KiB (R20). -/
def State.captureAnchor (s : State) (b : WriteBurst) : State :=
  match s.plan.partState with
  | .awaitAnchor => { s with plan := { s.plan with anchor := some (b.addr / 4096 * 4096), partState := .anchored } }
  | _ => s

/-- A write accepted: it enters the queue at the tail and ACCEPT is given (R20, R26). -/
def State.acceptWrite (s : State) (b : WriteBurst) (k : LineKind) : State :=
  let e := s.entryFor b k
  let s1 := s.respond .accept
  { s1 with path := { s1.path with queue := s1.path.queue ++ [e] } }.captureAnchor b

/-- A write held at the system port: the queue is full or draining (R26, R33). -/
def State.mustHold (s : State) : Bool := decide (16 ≤ s.path.queue.length) || s.draining

/-- A transaction held at the system port without a response. -/
def State.holdTxn (s : State) (x : Txn) : State := { s with path := { s.path with txn := some x, response := none } }

/-- A write presented, or classified again: refused, held or accepted (R23, R26). -/
def State.presentWrite (s : State) (b : WriteBurst) : State :=
  let k := s.classify b.addr
  if s.refuses k then s.refuseWrite b k
  else if s.mustHold then s.holdTxn (.write b)
  else s.acceptWrite b k

/-- The read of a burst put in progress, waiting to be presented (R22, R30). -/
def State.startRead (s : State) (b : ReadBurst) (k : LineKind) (memAddr : Nat) (view : Option ViewRead)
    (phase : ReadPhase) : State :=
  { s with path := { s.path with
      txn := some (.read ⟨b, k, memAddr, view, s.plan.partState = .running, phase⟩), response := none } }

/-- An OUTPUT read handed to the gather engine in RUNNING (R22, R113). -/
def State.presentOutput (s : State) (b : ReadBurst) (g : Fin 12) : State :=
  let n := (s.grp g).outputPos b.addr
  let r := s.outputRead g n
  match r.2 with
  | .retry => r.1.respond .retry
  | .held c => r.1.startRead b (.output g) b.addr none (.held g n c)
  | .released => r.1.startRead b (.output g) b.addr none .waiting

/-- A read presented: ERROR beyond memory, remapped for a VIEW, handed to the gather engine for an OUTPUT in RUNNING, and
otherwise passed (R19, R22, R52). -/
def State.presentRead (s : State) (b : ReadBurst) : State :=
  match s.classify b.addr with
  | .beyondMemory => s.respond .error
  | .view p =>
    match viewTranslate (s.path.baseOf (.view p)) (s.prog p).base (s.prog p).ringLen p b with
    | some (v, a) => s.startRead b (.view p) a (some v) .waiting
    | none => s.startRead b (.view p) b.addr none .waiting
  | .output g =>
    if s.plan.partState = .running then s.presentOutput b g else s.startRead b (.output g) b.addr none .waiting
  | k => s.startRead b k b.addr none .waiting

/-- The read that waited for the activation step is classified, as the first transaction after it (R172). -/
def State.classifyDeferred (s : State) : State :=
  match s.path.txn with
  | some (.unclassified b) => s.presentRead b
  | _ => s

/-- A read in this phase waits for the memory port. -/
def ReadPhase.waits : ReadPhase → Bool
  | .waiting => true | .released _ _ => true | .held _ _ _ => false | .onPort => false

/-- The read in progress may be presented: it waits, and no queued write covers its line (R30). -/
def State.readReady (s : State) : Bool :=
  match s.path.txn with
  | some (.read r) => r.phase.waits && !s.queuedOn r.memAddr
  | _ => false

/-- The key of a read that awaits no further result write and has not been granted the memory port yet (R114). -/
def ReadPhase.dueKey : ReadPhase → Option (Fin 12 × Nat)
  | .held g n 0 => some (g, n)
  | .released g n => some (g, n)
  | _ => none

/-- The key of the held read in progress once the last result write it awaited has completed (R114). -/
def State.dueKey (s : State) : Option (Fin 12 × Nat) :=
  match s.path.txn with
  | some (.read r) => r.phase.dueKey
  | _ => none

/-- A classified read is in progress at the system port. -/
def State.readInProgress (s : State) : Bool :=
  match s.path.txn with
  | some (.read _) => true
  | _ => false

/-- The staged plan and the clamped fields of a swap that the memory path is ready to install: the queue is empty and no read
is in progress (R33). -/
def State.drained (s : State) : Option (Staged × Nat) :=
  match s.stage, s.plan.staged with
  | some (.draining n), some st => if s.path.queue.isEmpty && !s.readInProgress then some (st, n) else none
  | _, _ => none

end Sys2Proof.Machine
end

