-- ==== Sys2Proof/Machine/Reporting.lean ====
section
/-! DEFINITION. The report unit's own events (chapter 11): mirror contents, the log ring, the consumer index, attention. -/

namespace Sys2Proof.Machine

/-- The contents of mirror record `m`, 60 bytes, from the owning block's fields (R176). -/
def State.mirrorBody (s : State) (m : Nat) : List Byte :=
  padTo 60 <|
    if m = 0 then mirrorPart s.plan
    else
      match toFin? 24 (m - 1), toFin? 4 (m - 25), toFin? 12 (m - 29), toFin? 6 (m - 41) with
      | some k, _, _, _ => mirrorSection (s.sec k) (s.brk k)
      | none, some c, _, _ => mirrorChan (s.chan c)
      | none, none, some g, _ => mirrorGroup (s.openCount g) (s.grp g)
      | none, none, none, some k => mirrorLine (s.line k)
      | none, none, none, none => []

/-- Mirror record `m` with its capture time (R176). -/
def State.mirrorBytes (s : State) (m : Nat) : List Byte := s.mirrorBody m ++ le 4 (ms32 s.now)

/-- The first dirty record in mirror order after the one written last (R177). -/
def Report.nextDirty (r : Report) : Option Nat :=
  ((List.range 47).map fun j => (r.lastWritten + 1 + j) % 47).find? fun m => r.dirty.getLsbD m

/-- ATTN evaluated again (R181). -/
def Report.evalAttn (r : Report) : Report := { r with attn := attnOf r.attnMask r.unconsumed }

/-- The class tag of a slot (R178). -/
def tagAt : List (Nat × AttnClass) → Nat → Option AttnClass
  | [], _ => none
  | (j, c) :: ts, x => if j = x then some c else tagAt ts x

/-- The class tag of a slot set; the tags stay in rising order of slot. -/
def setTag : List (Nat × AttnClass) → Nat → AttnClass → List (Nat × AttnClass)
  | [], x, c => [(x, c)]
  | (j, d) :: ts, x, c =>
    if x < j then (x, c) :: (j, d) :: ts
    else if x = j then (x, c) :: ts
    else (j, d) :: setTag ts x c

/-- A slot passed by the consumer index: the unconsumed count of its class decrements (R178). A count that is already 0
takes a free value (log entry 8). -/
def passSlot (acc : Report × Nat) (slot : Nat) : Report × Nat :=
  match tagAt acc.1.tags slot with
  | some c =>
    let n := acc.1.unconsumed.get c.bit
    if n = 0 then
      ({ acc.1 with unconsumed := acc.1.unconsumed.set c.bit (Config.countBelowZero acc.2) }, acc.2 + 1)
    else ({ acc.1 with unconsumed := acc.1.unconsumed.set c.bit (n - 1) }, acc.2)
  | none => acc

/-- The slots from the old consumer index up to, but not including, the new one, in ring order (R178). -/
def slotsPassed (len old new : Nat) : List Nat :=
  (List.range ((new + (len - old % len)) % len)).map fun j => (old + j) % len

/-- A taken write of the log consumer index (R178). -/
def State.takeConsumer (s : State) (v : Word) : State :=
  let r := s.report
  let new := v.toNat % r.logLen
  let p := (slotsPassed r.logLen r.consumer new).foldl passSlot (r, s.free)
  { s with report := { p.1 with consumer := new }.evalAttn.choose, free := p.2 }

/-- The address of the slot the next record is written in (R178). -/
def Report.slotAddr (r : Report) : Nat := r.logBase + 16 * r.producer

/-- A record burst that completed without error (R180). -/
def Report.wrote (r : Report) (e : LogRec) : Report :=
  let c := e.kind.cls
  ({ r with
    queue := r.queue.tail
    tags := setTag r.tags r.producer c
    unconsumed := r.unconsumed.set c.bit (r.unconsumed.get c.bit + 1)
    producer := (r.producer + 1) % r.logLen
    req := .idle }).evalAttn.choose

/-- A record burst answered with an error: the record is lost and the producer index stays (R180). -/
def Report.lostHead (r : Report) : Report :=
  { r with queue := r.queue.tail, lost := bump r.lost, req := .idle }.choose

/-- A header burst that completed (R180). -/
def Report.headerWrote (r : Report) (producer lost : Nat) : Report :=
  { r with header := some (producer, lost), req := .idle }.choose

/-- A header burst answered with an error: it is due again (R180). -/
def Report.headerFailed (r : Report) : Report := { r with req := .idle }.choose

/-- The report unit at a swap's activation step (R182, R172). -/
def Report.swapped (r : Report) (d : Descriptors) : Report :=
  { r with
    mirrorBase := d.mirrorBase
    logBase := d.logBase
    logLen := d.logLen
    attnMask := d.attnMask }.evalAttn

/-- Every mirror record becomes dirty (R172). -/
def State.markAll (s : State) : State := { s with report := { s.report with dirty := BitVec.allOnes 47 } }

/-- The requesters named in MEMORY_ERROR (chapter 12). -/
inductive ErrSource where
  | pass | clip | result | plan
  deriving DecidableEq, Repr

def ErrSource.code : ErrSource → Nat
  | .pass => 1 | .clip => 2 | .result => 3 | .plan => 4

/-- A burst answered with an error, counted and logged with its requester, address and detail (R32). -/
def State.burstError (s : State) (src : ErrSource) (addr : Nat) (d2 : Word) : State :=
  s.memError.log .memoryError src.code (wNat addr) d2

end Sys2Proof.Machine
end

