-- ==== Sys2Proof/Machine/Arbiter.lean ====
section
/-! DEFINITION. The memory-port arbiter (R35 to R40): what each requester presents, which burst is granted, and what is
fixed at the grant. `State.settle` ends every command: bursts are presented, and one is granted when the port is free (log
entry 14). -/

namespace Sys2Proof.Machine

/-- The queue head may be presented: there is one, it is not taken and waiting, and it is not on the port (R27, R28). -/
def State.headReady (s : State) : Bool :=
  !s.path.queue.isEmpty && s.gather.waiting.isNone && s.arb.port != some .queueHead

/-- The address of the LOG requester's burst: the producer index in the plan header, or the record's slot (R180). -/
def State.logAddr (s : State) : Nat :=
  match s.report.req with
  | .record => s.report.slotAddr
  | _ => s.anchorAddr + 68

/-- The address of the mirror record that would be chosen (R177). -/
def State.mirrorAddr (s : State) : Nat := s.report.mirrorBase + 64 * (s.report.nextDirty.getD 0)

/-- The address of the result slot at the head of the result list (R111). -/
def State.resultAddr (s : State) : Nat :=
  match s.gather.results with
  | ga :: _ => (s.grp ga.group).outputBase + ga.pos * 64
  | [] => 0

/-- The record at the head of the result list is kept back: a read that was held for earlier results of its key is to return
the latest of them, and has not been granted the memory port yet (R114, log entry 41). -/
def State.resultKept (s : State) : Bool :=
  match s.gather.results, s.dueKey with
  | ga :: _, some x => ga.hasKey x.1 x.2
  | _, _ => false

/-- A requester has a burst presented (R35, R114, R177, R180). -/
def State.presents (s : State) : Requester → Bool
  | .result => !s.gather.results.isEmpty && s.arb.port != some .result && !s.resultKept
  | .clip => s.arb.clip.isSome
  | .pass => s.readReady || s.headReady
  | .plan => !s.plan.out.isEmpty
  | .mirror => s.inForce && s.report.nextDirty.isSome
  | .log => s.inForce && (s.report.req = .header || s.report.req = .record)

/-- The address of a requester's presented burst, for those of the part's own. -/
def State.burstAddr (s : State) : Requester → Nat
  | .result => s.resultAddr
  | .clip => match s.arb.clip with | some f => f.addr | none => 0
  | .pass => 0
  | .plan => match s.plan.out with | b :: _ => b.addr s.anchorAddr | [] => 0
  | .mirror => s.mirrorAddr
  | .log => s.logAddr

/-- A requester's presented burst takes part in arbitration: the part's own wait while a queued write covers their line
(R31). -/
def State.eligible (s : State) (r : Requester) : Bool :=
  match r with
  | .pass => s.presents .pass
  | r => s.presents r && !s.queuedOn (s.burstAddr r)

/-- The presented CLIP burst is urgent: its channel is (R37). -/
def State.clipUrgent (s : State) : Bool :=
  match s.arb.clip with
  | some f => (s.chan f.ch).urgent
  | none => false

/-- The moment a requester's burst was presented. -/
def Waits.of (w : Waits) : Requester → Option Nat
  | .result => w.result | .clip => w.clip | .pass => w.pass | .plan => w.plan | .mirror => w.mirror | .log => w.log

/-- A burst is promoted: eligible, and presented more than 2000 µs ago (R39). -/
def State.promoted (s : State) (r : Requester) : Bool :=
  s.eligible r &&
    match s.arb.waits.of r with
    | some t => decide (2000 < s.now - t)
    | none => false

/-- One of CLIP, PLAN, MIRROR and LOG has an eligible burst waiting (R38). -/
def State.othersWait (s : State) : Bool :=
  s.eligible .clip || s.eligible .plan || s.eligible .mirror || s.eligible .log

/-- The requester granted, if any burst is eligible (R36, R38, R39). -/
def State.winner (s : State) : Option Requester :=
  if s.eligible .result then some .result
  else if s.eligible .clip && s.clipUrgent then some .clip
  else if s.promoted .plan then some .plan
  else if s.promoted .mirror then some .mirror
  else if s.promoted .log then some .log
  else if s.eligible .pass && !(s.arb.runCount = 8 && s.othersWait) then some .pass
  else if s.eligible .clip then some .clip
  else if s.eligible .plan then some .plan
  else if s.eligible .mirror then some .mirror
  else if s.eligible .log then some .log
  else none

/-- The run count after a grant (R38). -/
def State.runAfter (s : State) : Requester → Nat
  | .result => s.arb.runCount
  | .pass => if s.othersWait then s.arb.runCount + 1 else 0
  | .clip => 0 | .plan => 0 | .mirror => 0 | .log => 0

/-- The waiting time of a requester ended by its grant. -/
def Waits.granted (w : Waits) : Requester → Waits
  | .result => { w with result := none }
  | .clip => { w with clip := none }
  | .pass => { w with pass := none }
  | .plan => { w with plan := none }
  | .mirror => { w with mirror := none }
  | .log => { w with log := none }

/-- The burst a grant puts on the memory port, with what is fixed at the grant (R36, R177, R180). -/
def State.grantedBurst (s : State) : Requester → Option PortBurst
  | .result => some .result
  | .clip => s.arb.clip.map .clip
  | .pass => some (if s.readReady then .read else .queueHead)
  | .plan => s.plan.out.head?.map .plan
  | .mirror => s.report.nextDirty.map fun m => .mirror (s.report.mirrorBase + 64 * m) (s.mirrorBytes m)
  | .log => some (if s.report.req = .record then .logRecord else .logHeader s.report.producer s.report.lost)

/-- The transaction in progress, its read now on the memory port. -/
def onPortTxn (t : Option Txn) : Option Txn :=
  match t with
  | some (.read r) => some (.read { r with phase := .onPort })
  | t => t

/-- The report unit after a grant: a mirror record leaves the dirty set and is the one written last (R177); the LOG burst is
on the port (R180). -/
def State.reportAfter (s : State) (r : Requester) : Report :=
  match r with
  | .mirror =>
    match s.report.nextDirty with
    | some m => { s.report with dirty := s.report.dirty &&& ~~~(BitVec.twoPow 47 m), lastWritten := m }
    | none => s.report
  | .log => { s.report with req := .onPort }
  | .result => s.report | .clip => s.report | .pass => s.report | .plan => s.report

/-- A requester's burst granted (R36). -/
def State.grant (s : State) (r : Requester) : State :=
  { s with
    arb := { s.arb with
      port := s.grantedBurst r
      clip := if r = .clip then none else s.arb.clip
      runCount := s.runAfter r
      waits := s.arb.waits.granted r }
    path := { s.path with txn := if r = .pass && s.readReady then onPortTxn s.path.txn else s.path.txn }
    plan := { s.plan with out := if r = .plan then s.plan.out.tail else s.plan.out }
    report := s.reportAfter r }

/-- The burst of a requester is the one it presented before: PASS presents the read in place of the queue head as soon as the
read is eligible (R30, R35). -/
def State.sameBurst (s : State) (r : Requester) : Bool := r != .pass || s.arb.passRead == s.readReady

/-- When a requester's burst was presented, if it presents one: kept, or this moment (R35). -/
def State.waitNow (s : State) (r : Requester) : Option Nat :=
  if s.presents r then some (if s.sameBurst r then (s.arb.waits.of r).getD s.now else s.now) else none

/-- The waiting times brought up to date. -/
def State.noteWaits (s : State) : State :=
  { s with arb := { s.arb with passRead := s.readReady, waits :=
      ⟨s.waitNow .result, s.waitNow .clip, s.waitNow .pass, s.waitNow .plan, s.waitNow .mirror, s.waitNow .log⟩ } }

/-- The LOG requester chooses while a plan is in force (R180). -/
def State.presentLog (s : State) : State :=
  { s with report := if s.inForce then s.report.choose else s.report }

/-- Every requester presents what it has ready. -/
def State.presentAll (s : State) : State := s.presentClip.presentLog.noteWaits

/-- The arbiter decides when the port is free (R36). -/
def State.arbitrate (s : State) : State :=
  match s.arb.port with
  | some _ => s
  | none =>
    match s.winner with
    | some r => s.grant r
    | none => s

/-- The end of every command: bursts are presented, one is granted if the port is free, and the requesters present their
next ones. -/
def State.settle (s : State) : State := s.presentAll.arbitrate.presentAll

/-- The memory port is free after a completion. -/
def State.freePort (s : State) : State := { s with arb := { s.arb with port := none } }

/-- The bytes a burst on the port writes, each with its address; none for a read. -/
def State.portCells (s : State) : List (Nat × Byte) :=
  match s.arb.port with
  | some .queueHead =>
    match s.path.queue with
    | e :: _ => e.burst.cells
    | [] => []
  | some .result =>
    match s.gather.results with
    | ga :: _ => cellsFrom s.resultAddr ga.result
    | [] => []
  | some (.plan (.stateField v)) => cellsFrom (s.anchorAddr + 80) (le 4 v.code)
  | some (.plan (.genField v)) => cellsFrom (s.anchorAddr + 76) (le 4 v)
  | some (.plan (.writeBack w)) => cellsFrom s.anchorAddr (le 4 w.toNat)
  | some (.mirror a l) => cellsFrom a l
  | some (.logHeader p l) => cellsFrom (s.anchorAddr + 68) (le 4 p ++ le 4 l)
  | some .logRecord =>
    match s.report.queue with
    | e :: _ => cellsFrom s.report.slotAddr e.bytes
    | [] => []
  | some .read => []
  | some (.clip _) => []
  | some (.plan .argRead) => []
  | some (.plan (.loadLine _)) => []
  | some (.plan (.entryLine _)) => []
  | none => []

/-- The burst on the port completes: the port is free, and a write that was not answered with an error is in memory (R28,
R32, log entry 5). -/
def State.complete (s : State) (err : Bool) : State :=
  { s.freePort with mem := if err then s.mem else Memory.writeCells s.mem s.portCells }

end Sys2Proof.Machine
end

