-- ==== Sys2Proof/Machine/PlanOps.lean ====
section
/-! DEFINITION. The plan unit (chapter 10): the change protocol, the load and its checks, the swap, the halt. -/

namespace Sys2Proof.Machine

/-! ### The change record -/

/-- CHANGE_COLLISION (R164). -/
def State.collide (s : State) (c : Change) (kind : Nat) : State :=
  s.log .changeCollision c.kind (w4 kind c.stage.code 0 0) 0

/-- A taken write of change word 0 (R163, R164). -/
def State.takeWord0 (s : State) (w : Word) : State :=
  let kind := w.toNat % 256
  if kind = 0 then s
  else
    match s.plan.change with
    | some c => s.collide c kind
    | none =>
      { s with plan := { s.plan with
          change := some ⟨kind, w, 0, 0, 0, .arguments⟩, out := s.plan.out ++ [.argRead] } }

/-- The table number (1 to 6 in the order of R168) an UPDATE's table byte names, for the tables it may change (R173). -/
def updateTable (code : Nat) : Option (Fin 7) :=
  match code with
  | 1 => some 3
  | 2 => some 4
  | 3 => some 5
  | 4 => some 6
  | _ => none

/-- The entries of a table an UPDATE may name (R173). -/
def updateCount (t : Fin 7) : Nat :=
  match t with
  | 3 => 24 | 4 => 12 | 5 => 4 | 6 => 6 | _ => 0

/-- The table byte and the index byte of an UPDATE. -/
def Change.tableByte (c : Change) : Nat := c.arg1.toNat % 256
def Change.indexByte (c : Change) : Nat := c.arg1.toNat / 256 % 256

/-- The offset of the entry an UPDATE names, from the place of its table in the plan in force (R173). -/
def State.entryOff (s : State) (t : Fin 7) (idx : Nat) : Nat :=
  match s.plan.descr with
  | some d => d.tableOff t + idx * entrySize t
  | none => 0

/-- The lines of the entry an UPDATE names (log entry 23). -/
def State.entryLines (s : State) (t : Fin 7) (idx : Nat) : List Nat := lineOffs (s.entryOff t idx) (entrySize t)

/-- An UPDATE decided before any fetch, and its first read made ready (R173). -/
def State.beginUpdate (s : State) (c : Change) : State :=
  match updateTable c.tableByte with
  | none => s.finish .badArgument
  | some t =>
    if updateCount t ≤ c.indexByte then s.finish .badArgument
    else
      match s.entryLines t c.indexByte with
      | [] => s.finish .badArgument
      | off :: rest => (s.setStage (.entryFetch rest [])).planOut (.entryLine off)

/-- The result of a kind that the part state does not take (R165): kinds 1 to 8 by their codes. -/
def notTaken (p : PartState) (kind : Nat) : Option ResultCode :=
  if 8 < kind then some .badKind
  else
    match p with
    | .running => if kind = 8 then some .refusedState else none
    | .halted => if kind = 1 || kind = 8 then none else some .refusedState
    | .anchored => if kind = 1 then none else some .notInPlan
    | .awaitAnchor => some .notInPlan

/-- The change decided by its kind and the part state, its arguments known (R165). -/
def State.decideChange (s : State) (c : Change) : State :=
  match notTaken s.plan.partState c.kind with
  | some r => s.finish r
  | none => if c.kind = 2 then s.beginUpdate c else s.setStage .handover

/-- The arguments taken from words 1 to 3 of the change record as memory holds them (R163). -/
def State.takeArgs (s : State) (c : Change) : State :=
  let a := s.anchorAddr
  let c1 := { c with arg1 := Memory.word s.mem (a + 4), arg2 := Memory.word s.mem (a + 8), arg3 := Memory.word s.mem (a + 12) }
  { s with plan := { s.plan with change := some c1 } }.decideChange c1

/-- A PLAN read answered with an error ends its change with MEMORY_ERROR (R163, R173). -/
def State.fetchFailed (s : State) (addr : Nat) : State := (s.burstError .plan addr 0).finish .memoryError

/-- The change stands in ACTING with this kind, to be carried out by the kind's own step. -/
def State.handed (s : State) (kind : Nat) : Bool :=
  match s.plan.change with
  | some c => c.kind = kind && c.stage = .handover
  | none => false

/-- The change in progress, with neutral arguments where there is none. -/
def State.theChange (s : State) : Change := s.plan.change.getD ⟨0, 0, 0, 0, 0, .arguments⟩

/-! ### Loading (R168) -/

/-- The lines of the header. -/
def headerLines : List StagedLine := [⟨0, 0⟩, ⟨0, 64⟩]

/-- The lines of the six tables, in the order of R168. -/
def tableLines (d : Descriptors) : List StagedLine :=
  ([1, 2, 3, 4, 5, 6] : List (Fin 7)).flatMap fun k => (lineOffs (d.tableOff k) (partSize k)).map fun o => ⟨k, o⟩

/-- A load begins with the header lines (R168). -/
def State.beginLoad (s : State) : State :=
  { s.setStage .loading with plan := { (s.setStage .loading).plan with
      staged := some ⟨headerLines, []⟩, out := s.plan.out ++ [.loadLine 0] } }

/-- The header of a staged plan. -/
def Staged.header (st : Staged) : Descriptors :=
  parseHeader ((st.got.filter fun x => x.1.part = 0).flatMap fun x => x.2)

/-- The plan area length holds the header and the tables as placed, and the area lies below M (check PLAN_AREA, R169). -/
def planAreaOk (d : Descriptors) (anchor memSize : Nat) : Bool :=
  (([0, 1, 2, 3, 4, 5, 6] : List (Fin 7)).all fun k => decide (d.tableOff k + partSize k ≤ d.areaLen)) &&
    decide (anchor + d.areaLen ≤ memSize)

/-! ### The staged plan as tables -/

/-- The tables of a staged plan, once read. -/
structure PlanTables where
  d : Descriptors
  regions : List Byte
  progs : List Byte
  secs : List Byte
  groups : List Byte
  chans : List Byte
  lines : List Byte
  deriving DecidableEq, Repr

def Staged.tables (st : Staged) : PlanTables :=
  let d := st.header
  ⟨d, st.part d 1, st.part d 2, st.part d 3, st.part d 4, st.part d 5, st.part d 6⟩

/-- Region entry `e`. -/
def PlanTables.region (t : PlanTables) (e : Nat) : RawRegion := parseRegion (entryOf 1 t.regions e)

/-- The used region entries with their numbers. -/
def PlanTables.used (t : PlanTables) : List (Nat × RawRegion) :=
  ((List.range 40).map fun e => (e, t.region e)).filter fun x => x.2.kind != 0

/-- The ring length of programme `p` as its entry gives it. -/
def PlanTables.progLen (t : PlanTables) (p : Nat) : Nat := field (entryOf 2 t.progs p) 0 2

/-- Group entry `g`, with its clamped fields counted. -/
def PlanTables.group (t : PlanTables) (g : Nat) : GroupEntry × Nat := parseGroup (entryOf 4 t.groups g)

/-- The size in bytes of a region (R21). -/
def PlanTables.sizeOf (t : PlanTables) (r : RawRegion) : Nat :=
  match r.kind with
  | 2 => t.progLen r.num * 192
  | 3 => 24 * t.progLen r.num * 192
  | 4 => 24 * (t.group r.num).1.ringLen * 64
  | 5 => (t.group r.num).1.ringLen * 64
  | _ => r.lines * 64

/-- The used entry of a kind and number, if there is one. -/
def PlanTables.find (t : PlanTables) (kind num : Nat) : Option RawRegion :=
  (t.used.find? fun x => x.2.kind = kind && x.2.num = num).map Prod.snd

/-- The implicit regions of a header: PLAN, MIRROR, LOG (R21). -/
def implicitRegions (d : Descriptors) (anchor : Nat) : List Region :=
  [⟨.plan, anchor, d.areaLen⟩, ⟨.mirror, d.mirrorBase, 47 * 64⟩, ⟨.log, d.logBase, d.logLen * 16⟩]

/-! ### The checks of R169. Each answers the entry index of a failure. -/

/-- The number of the first used region entry that fails `f`. -/
def PlanTables.firstRegion (t : PlanTables) (f : Nat × RawRegion → Bool) : Option Nat := (t.used.find? f).map Prod.fst

/-- 255, where no entry is concerned. -/
def whole (bad : Bool) : Option Nat := if bad then some 255 else none

def checkAlignment (t : PlanTables) : Option Nat :=
  (t.firstRegion fun x => x.2.base % 64 != 0) <|> whole (t.d.mirrorBase % 64 != 0 || t.d.logBase % 64 != 0)

def checkRegionEntry (t : PlanTables) : Option Nat :=
  t.firstRegion fun x =>
    match x.2.kind with
    | 1 => x.2.lines = 0
    | 2 => 5 < x.2.num
    | 3 => 5 < x.2.num
    | 4 => 11 < x.2.num
    | 5 => 11 < x.2.num
    | 6 => x.2.lines = 0
    | _ => true

def checkGroupKind (t : PlanTables) : Option Nat :=
  (List.range 12).find? fun g => (t.group g).1.present && (groupKindOf (t.group g).1.kind).isNone

def checkRingLength (t : PlanTables) : Option Nat :=
  ((List.range 6).find? fun p => (t.find 2 p).isSome && !(decide (64 ≤ t.progLen p) && decide (t.progLen p ≤ 4096))) <|>
  ((List.range 12).find? fun g => (t.group g).1.present &&
    !(decide (16 ≤ (t.group g).1.ringLen) && decide ((t.group g).1.ringLen ≤ 1024)))

/-- The powers of two in 64-8192. -/
def logLengthOk (n : Nat) : Bool := [64, 128, 256, 512, 1024, 2048, 4096, 8192].contains n

def checkLogLength (t : PlanTables) : Option Nat := whole (!logLengthOk t.d.logLen)

def checkLogMoved (t : PlanTables) (inForce : Bool) (old : Option Descriptors) : Option Nat :=
  whole (inForce && match old with
    | some d => t.d.logBase != d.logBase || t.d.logLen != d.logLen
    | none => false)

def checkDuplicate (t : PlanTables) : Option Nat :=
  t.firstRegion fun x => decide (2 ≤ x.2.kind ∧ x.2.kind ≤ 5) &&
    t.used.any fun y => y.1 != x.1 && y.2.kind = x.2.kind && y.2.num = x.2.num

def checkMissingPair (t : PlanTables) : Option Nat :=
  (t.firstRegion fun x =>
    match x.2.kind with
    | 3 => (t.find 2 x.2.num).isNone
    | 4 => !(t.group x.2.num).1.present
    | 5 => !(t.group x.2.num).1.present
    | _ => false) <|>
  ((List.range 12).find? fun g => (t.group g).1.present && ((t.find 4 g).isNone || (t.find 5 g).isNone))

def checkBeyond (t : PlanTables) (memSize : Nat) : Option Nat :=
  (t.firstRegion fun x => decide (memSize < x.2.base + t.sizeOf x.2)) <|>
  whole (decide (memSize < t.d.mirrorBase + 47 * 64) || decide (memSize < t.d.logBase + t.d.logLen * 16))

/-- Two extents share a line. -/
def shareLine (b1 n1 b2 n2 : Nat) : Bool :=
  decide (b1 / 64 * 64 < b2 + n2 ∧ b2 / 64 * 64 < b1 + n1)

/-- Some two of the implicit regions share a line. -/
def implicitOverlap : List Region → Bool
  | [] => false
  | r :: rs => (rs.any fun q => shareLine r.base r.size q.base q.size) || implicitOverlap rs

def checkOverlap (t : PlanTables) (anchor : Nat) : Option Nat :=
  let imp := implicitRegions t.d anchor
  (t.firstRegion fun x =>
    (t.used.any fun y => y.1 != x.1 && shareLine x.2.base (t.sizeOf x.2) y.2.base (t.sizeOf y.2)) ||
    (imp.any fun q => shareLine x.2.base (t.sizeOf x.2) q.base q.size)) <|>
  whole (implicitOverlap imp)

/-- REFERENCE (R169): the plan names no reference while a VIEW region exists, or a reference without a PROGRAMME region. The
manual does not say which entry either cause concerns; the model reports 255 for both (log entry 17). -/
def checkReference (t : PlanTables) : Option Nat :=
  whole (if t.d.reference = 255 then t.used.any fun x => x.2.kind = 3 else
    decide (5 < t.d.reference) || (t.find 2 t.d.reference).isNone)

/-- A check with its code, when it fails. -/
def failing (c : PlanCheck) (o : Option Nat) : Option (PlanCheck × Nat) := o.map fun e => (c, e)

/-- The checks after PLAN_AREA, in order: the first that fails, with its entry index (R169). -/
def State.planChecks (s : State) (t : PlanTables) : Option (PlanCheck × Nat) :=
  failing .alignment (checkAlignment t) <|> failing .regionEntry (checkRegionEntry t) <|>
  failing .groupKind (checkGroupKind t) <|> failing .ringLength (checkRingLength t) <|>
  failing .logLength (checkLogLength t) <|> failing .logMoved (checkLogMoved t s.inForce s.plan.descr) <|>
  failing .duplicateRegion (checkDuplicate t) <|> failing .missingPair (checkMissingPair t) <|>
  failing .beyondMemory (checkBeyond t s.path.memSize) <|> failing .overlap (checkOverlap t s.anchorAddr) <|>
  failing .reference (checkReference t)

/-- The clamped fields of a plan that passes its checks (R170). -/
def PlanTables.clampCount (t : PlanTables) : Nat :=
  ((List.range 24).map fun e => (parseSection (entryOf 3 t.secs e)).2).sum +
  ((List.range 12).map fun e => if (t.group e).1.present then (t.group e).2 else 0).sum +
  ((List.range 4).map fun e => (parseChannel (entryOf 5 t.chans e)).2).sum +
  ((List.range 6).map fun e => (parseLine (entryOf 6 t.lines e)).2).sum

/-- The last plan error set; the part record becomes dirty (R161). -/
def State.setLastError (s : State) (e : LastError) : State :=
  { s with plan := { s.plan with lastError := e } }.markIf (s.plan.lastError != e) 0

/-- A rejected plan (R169). -/
def State.rejectPlan (s : State) (c : PlanCheck) (entry : Nat) : State :=
  let s1 := { s with plan := { s.plan with staged := none } }.setLastError (.check c entry)
  (s1.log .planRejected c.code (w4 c.code entry 0 0) 0).finishWith .planInvalid c.code entry

/-- A load ended by a fetch error (R168). -/
def State.loadFailed (s : State) (off : Nat) : State :=
  let s1 := { s with plan := { s.plan with staged := none } }.setLastError (.fetch off)
  s1.fetchFailed (s.anchorAddr + off)

/-- A plan that passes its checks begins its swap with the flush of the pool (R171). -/
def State.beginSwap (s : State) (t : PlanTables) : State := (s.setStage (.flushing t.clampCount)).flushPool

/-- The staged plan, all read, is checked (R168, R169). -/
def State.checkStaged (s : State) (st : Staged) : State :=
  match s.planChecks st.tables with
  | some f => s.rejectPlan f.1 f.2
  | none => s.beginSwap st.tables

/-- The next line of a load is made ready. -/
def State.readNext (s : State) (st : Staged) : State :=
  match st.todo with
  | l :: _ => { s with plan := { s.plan with staged := some st, out := s.plan.out ++ [.loadLine l.off] } }
  | [] => { s with plan := { s.plan with staged := some st } }

/-- A plan line has been read: the load goes on, or the header is checked, or the whole plan is (R168). -/
def State.lineLoaded (s : State) (st : Staged) (l : StagedLine) (bytes : List Byte) : State :=
  let st1 : Staged := ⟨st.todo.tail, st.got ++ [(l, bytes)]⟩
  if !st1.todo.isEmpty then s.readNext st1
  else if l.part = 0 then
    if planAreaOk st1.header s.anchorAddr s.path.memSize then
      s.readNext { st1 with todo := tableLines st1.header }
    else s.rejectPlan .planArea 255
  else { s with plan := { s.plan with staged := some st1 } }.checkStaged st1

/-! ### The activation step (R172) -/

/-- The kind of a region entry in force. -/
def RawRegion.lineKind (r : RawRegion) : LineKind :=
  match r.kind, toFin? 6 r.num, toFin? 12 r.num with
  | 1, _, _ => .plain
  | 2, some p, _ => .programme p
  | 3, some p, _ => .view p
  | 4, _, some g => .uplink g
  | 5, _, some g => .output g
  | 6, _, _ => .clip
  | _, _, _ => .plain

/-- The region table of a plan (R21). -/
def PlanTables.installed (t : PlanTables) : Table (Option Region) 40 :=
  Table.ofFn fun e =>
    let r := t.region e.val
    if r.kind = 0 then none else some ⟨r.lineKind, r.base, t.sizeOf r⟩

/-- The programme records of a plan (R44). -/
def PlanTables.programmes (t : PlanTables) (now : Nat) : Table ProgRec 6 :=
  Table.ofFn fun p =>
    match t.find 2 p.val with
    | some r => ⟨true, r.base, t.progLen p.val, 0, 0, now⟩
    | none => ⟨false, 0, 64, 0, 0, now⟩

/-- The group records of a plan (R116). -/
def PlanTables.groupTable (t : PlanTables) : Table Group 12 :=
  Table.ofFn fun g =>
    let base (k : Nat) := match t.find k g.val with | some r => r.base | none => 0
    loadGroup (t.group g.val).1 (base 4) (base 5)

/-- The section records of a plan (R3). -/
def PlanTables.sectionTable (t : PlanTables) (old : Table SectionRec 24) (now : Nat) : Table SectionRec 24 :=
  Table.ofFn fun k =>
    let e := (parseSection (entryOf 3 t.secs k.val)).1
    swappedSection e.1 e.2 now (old.get k)

/-- A channel at the activation step: the new defaults, every counter 0 (R80). -/
def Chan.swapped (ch : Chan) (d : ChanDefaults) : Chan :=
  { ch with defaults := d, underruns := 0, lateReads := 0, saturations := 0, marksPassed := 0 }

/-- The channel records at the activation step (R80). -/
def PlanTables.channels (t : PlanTables) (s : State) : Table Chan 4 :=
  Table.ofFn fun c => (s.chan c).swapped (parseChannel (entryOf 5 t.chans c.val)).1

/-- Line `k` at the activation step (R158). -/
def reloadLine (t : PlanTables) (s : State) (k : Fin 6) : State :=
  s.applyLine k (fun l => l.reloaded (parseLine (entryOf 6 t.lines k.val)).1) .reload

/-- The part state set (R161). -/
def State.setPartState (s : State) (p : PartState) : State := { s with plan := { s.plan with partState := p } }

/-- Steps 1 to 3 of R172: the region table, the descriptors, and the tables of the section supervisor, the programme
tracker, the gather engine and the playout unit. -/
def State.installTables (s : State) (t : PlanTables) : State :=
  { s with
    path := { s.path with regions := t.installed, implicit := implicitRegions t.d s.anchorAddr }
    plan := { s.plan with descr := some t.d, staged := none }
    report := s.report.swapped t.d
    sections := t.sectionTable s.sections s.now
    tracker := swappedTracker (t.programmes s.now) (toFin? 6 t.d.reference) s.now
    gather := { s.gather with groups := t.groupTable, taking := true }
    playout := { s.playout with chans := t.channels s } }

/-- PLAN_LOADED, and PLAN_CLAMPED after it when fields were clamped (R172 step 7). -/
def State.logLoaded (s : State) (before : PartState) (clamped : Nat) : State :=
  let s1 := s.log .planLoaded s.plan.generation (w2 before.code clamped) 0
  if 0 < clamped then s1.log .planClamped clamped 0 0 else s1

/-- The part state field is to be written into the plan header (R161). -/
def State.writeState (s : State) : State := s.planOut (.stateField s.plan.partState)

/-- The plan generation field is to be written into the plan header (R161). -/
def State.writeGen (s : State) : State := s.planOut (.genField s.plan.generation)

/-- The activation step (R172). -/
def State.activate (s : State) (t : PlanTables) (clamped : Nat) : State :=
  let before := s.plan.partState
  let s1 := (List.finRange 6).foldl (reloadLine t) (s.installTables t)
  let s2 := s1.setPartState .running
  let s3 := { s2 with plan := { s2.plan with generation := wrap16 s2.plan.generation, lastError := .none } }
  let s4 := (s3.logLoaded before clamped).markAll
  let s5 := if before = .running then s4 else s4.writeState
  s5.writeGen.finish .done

/-! ### UPDATE (R173) -/

/-- PLAN_CLAMPED of an UPDATE, when fields were clamped (R173). -/
def State.logClamped (s : State) (n : Nat) : State := if 0 < n then s.log .planClamped n 0 0 else s

/-- The channel's defaults replaced (R78); its mirror record becomes dirty (R79). -/
def State.applyChannel (s : State) (c : Fin 4) (d : ChanDefaults) : State :=
  (s.setChan c { s.chan c with defaults := d }).mark (mirrorOfChan c)

/-- A fetched entry handed to the owner of its table (R173). -/
def State.handEntry (s : State) (t : Fin 7) (idx : Nat) (b : List Byte) : State :=
  match t, toFin? 24 idx, toFin? 12 idx, toFin? 4 idx, toFin? 6 idx with
  | 3, some k, _, _, _ =>
    let e := parseSection b
    ((s.applySection k e.1.1 e.1.2).logClamped e.2).finish .done
  | 4, _, some g, _, _ =>
    let e := parseGroup b
    if (s.grp g).accepts e.1 then ((s.applyGroup g e.1).logClamped e.2).finish .done else s.finish .badArgument
  | 5, _, _, some c, _ =>
    let e := parseChannel b
    ((s.applyChannel c e.1).logClamped e.2).finish .done
  | 6, _, _, _, some k =>
    let e := parseLine b
    ((s.applyLine k (fun l => l.withEntry e.1) .update).logClamped e.2).finish .done
  | _, _, _, _, _ => s.finish .badArgument

/-- The change in progress is an UPDATE of table `t` that fetches its entry, and the port carries a line of it. -/
def State.updating (s : State) (t : Fin 7) : Bool :=
  (match s.plan.change with
   | some c => c.kind = 2 && updateTable c.tableByte = some t && c.stage.code = 2
   | none => false) &&
  (match s.arb.port with
   | some (.plan (.entryLine _)) => true
   | _ => false)

/-- The offset of the entry line on the port. -/
def State.entryLineOff (s : State) : Nat :=
  match s.arb.port with
  | some (.plan (.entryLine off)) => off
  | _ => 0

/-- The entry's lines still to come and the bytes read, of an UPDATE. -/
def State.entryProgress (s : State) : List Nat × List Byte :=
  match s.stage with
  | some (.entryFetch todo got) => (todo, got)
  | _ => ([], [])

/-- A line of an UPDATE's entry has been read (R173): on an error the result is MEMORY_ERROR; the next line is read; or the
entry, whole, is handed to its owner. -/
def State.entryLineRead (s : State) (t : Fin 7) (err : Bool) : State :=
  let off := s.entryLineOff
  let p := s.entryProgress
  let s1 := s.complete err
  if err then s1.fetchFailed (s.anchorAddr + off)
  else
    let got := p.2 ++ Memory.bytes s.mem (s.anchorAddr + off) 64
    match p.1 with
    | next :: rest => (s1.setStage (.entryFetch rest got)).planOut (.entryLine next)
    | [] =>
      let idx := s.theChange.indexByte
      s1.handEntry t idx ((got.drop (s.entryOff t idx % 64)).take (entrySize t))

/-! ### Halting and resuming -/

/-- The stop of a QUIESCE: every channel stopped, the part HALTED, in one step (R174). -/
def State.haltPart (s : State) : State :=
  (((s.stopAll.setPartState .halted).mark 0).writeState).finish .done

/-- RESUME carried out (R175). -/
def State.resumePart (s : State) : State :=
  let s1 := (s.setPartState .running).mark 0
  let s2 := { s1 with gather := { s1.gather with taking := true } }
  (((List.finRange 6).foldl resumeLine s2).writeState).finish .done

end Sys2Proof.Machine
end

