-- ==== Sys2Proof/Machine/Board.lean ====
section
/-! DEFINITION. The commands at the part's pins: RESET, RESET_RELEASE, INPUT_EVENT, DEBOUNCE_EXPIRY. `act` is the form of
every command. -/

namespace Sys2Proof.Machine

/-- The outcome of a command whose effect is `t` when `ok` holds: the effect, then the end of every command. While RESET is
low, and where the event cannot occur, nothing changes (log entry 1). -/
def act (s : State) (ok : Bool) (t : State) : Host.Outcome State Fault Refusal :=
  .next (if !s.inReset && ok then t.settle else s)

/-- Memory after RESET abandons the burst on the port: whether a write in flight reached it is free (R34, log entry 6). -/
def State.memAfterReset (s : State) : Memory :=
  if Config.writeReached s.free then Memory.writeCells s.mem s.portCells else s.mem

/-- Every block at its reset values (R2, R34, R43, R58, R83, R101, R102, R147, R161, R178, R181, R182). M and the raw levels
stay as last sampled until RESET is released (R19, R147). -/
def State.resetState (s : State) : State :=
  { State.reset with
    pending := s.pending
    free := s.free + 1
    mem := s.memAfterReset
    path := { MemPath.atReset with memSize := s.path.memSize }
    lines := Table.ofFn fun k => { LineRec.atReset with high := (s.line k).high } }

/-- RESET: RESET is driven low (R34, R161). -/
def execReset (s : State) : Host.Outcome State Fault Refusal := .next s.resetState

/-- The memory size of the MSIZE straps: 128, 256, 512 or 1024 MiB (R19, chapter 12). -/
def memSizeOf (msize : BitVec 2) : Nat := 134217728 * 2 ^ msize.toNat

/-- RESET is released: M is sampled, the raw levels are taken, the timebase starts at 0 (R19, R34, R147, chapter 00). -/
def State.released (s : State) (msize : BitVec 2) (levels : BitVec 6) : State :=
  { s with
    inReset := false
    now := 0
    path := { s.path with memSize := memSizeOf msize }
    lines := Table.ofFn fun k => { s.line k with high := levels.getLsbD k.val } }

/-- RESET_RELEASE: RESET rises (R19, R34, R147). With RESET high already, nothing changes. -/
def execResetRelease (msize : BitVec 2) (levels : BitVec 6) (s : State) : Host.Outcome State Fault Refusal :=
  .next (if s.inReset then s.released msize levels else s)

/-- INPUT_EVENT: the level of an incident input changes (R148). -/
def execInputEvent (k : Fin 6) (high : Bool) (s : State) : Host.Outcome State Fault Refusal :=
  act s ((s.line k).high != high) (s.inputChange k high)

/-- Line `k`'s debounce deadline is reached (R149). -/
def State.debounceDue (s : State) (k : Fin 6) : Bool :=
  (s.line k).state = .debounce && reached (s.line k).deadline s.now

/-- DEBOUNCE_EXPIRY: the line becomes ACTIVE and its actions are handled (R149, R150). -/
def execDebounceExpiry (k : Fin 6) (s : State) : Host.Outcome State Fault Refusal :=
  act s (s.debounceDue k) (s.activateLine k)

end Sys2Proof.Machine
end

