-- ==== Sys2Proof/Machine/SystemPort.lean ====
section
/-! DEFINITION. The commands at the system port and the completions of host traffic: HOST_WRITE, HELD_WRITE_ACCEPTED,
HOST_READ, OUTPUT_READ_RELEASED, WRITE_TAKEN, POOL_RECORD_GIVEN, READ_SERVED, CLIP_FENCE_UP. -/

namespace Sys2Proof.Machine

/-! ### Presented transactions -/

/-- HOST_WRITE: a write burst is presented; it is refused, held or accepted (R17, R23, R26). While the activation step is due it
is held unclassified (R172, log entry 44). -/
def execHostWrite (b : WriteBurst) (s : State) : Host.Outcome State Fault Refusal :=
  if (Instr.hostWrite b).wf then
    act s s.path.txn.isNone (if s.drained.isSome then s.holdTxn (.write b) else s.presentWrite b)
  else .fault .malformedBurst

/-- The write held at the system port, if it may be classified again (R26). -/
def State.heldWrite (s : State) : Option WriteBurst :=
  match s.path.txn with
  | some (.write b) => if s.mustHold then none else some b
  | _ => none

/-- The held write is classified again (R26, R33). -/
def State.acceptHeld (s : State) : State :=
  match s.heldWrite with
  | some b => s.presentWrite b
  | none => s

/-- HELD_WRITE_ACCEPTED: the held write is classified again and accepted or refused (R26). -/
def execHeldWriteAccepted (s : State) : Host.Outcome State Fault Refusal := act s s.heldWrite.isSome s.acceptHeld

/-- HOST_READ: a read burst is presented (R17, R19, R22). While the activation step is due it waits unclassified (R172, log
entry 44). -/
def execHostRead (b : ReadBurst) (s : State) : Host.Outcome State Fault Refusal :=
  if (Instr.hostRead b).wf then
    act s s.path.txn.isNone (if s.drained.isSome then s.holdTxn (.unclassified b) else s.presentRead b)
  else .fault .malformedBurst

/-- The OUTPUT read held at the system port awaits no further result write (R114). -/
def State.releaseDue (s : State) : Bool :=
  match s.path.txn with
  | some (.read r) => (match r.phase with | .held _ _ n => n == 0 | _ => false)
  | _ => false

/-- A held read as it is released: it waits to be presented like any other (R22, R114). -/
def ReadTxn.released (r : ReadTxn) : ReadTxn :=
  match r.phase with
  | .held g n _ => { r with phase := .released g n }
  | _ => r

/-- The held read is released (R114). -/
def State.releaseRead (s : State) : State :=
  match s.path.txn with
  | some (.read r) => { s with path := { s.path with txn := some (.read r.released) } }
  | _ => s

/-- OUTPUT_READ_RELEASED: the last result write the read awaited has completed (R114). -/
def execOutputReadReleased (s : State) : Host.Outcome State Fault Refusal := act s s.releaseDue s.releaseRead

/-! ### Taken writes -/

/-- The queue head is on the memory port (R27). -/
def State.headOnPort (s : State) : Bool := s.arb.port = some .queueHead && !s.path.queue.isEmpty

/-- A queued write answered with an error: WRITE_LOST, and the memory errors count (R29). -/
def State.noteLost (s : State) (e : QEntry) (err : Bool) : State :=
  if err then (s.log .writeLost e.kind.code (wNat e.burst.addr) (w4 e.burst.words.length 0 0 0)).memError else s

/-- The watchers of a write's region (R28). -/
def State.watchRegion (s : State) (e : QEntry) : State :=
  match e.kind with
  | .programme p => s.programmeWrite p e.burst
  | .uplink g => (s.superviseWrite g e.burst).gatherWrite g e.burst
  | .plain => s | .view _ => s | .output _ => s | .clip => s | .plan => s | .mirror => s | .log => s | .beyondMemory => s

/-- The watchers of the watched words (R25, R28). -/
def State.watchWords (s : State) (e : QEntry) : State :=
  let s1 := match e.watchChange, e.burst.fullWordAt s.anchorAddr with
    | true, some w => s.takeWord0 w
    | _, _ => s
  match e.watchConsumer, e.burst.fullWordAt (s1.anchorAddr + 64) with
  | true, some w => s1.takeConsumer w
  | _, _ => s1

/-- The slot of the taken write frees, unless its arrival waits on the pool (R27, R28). -/
def State.popHead (s : State) : State :=
  if s.gather.waiting.isSome then s else { s with path := { s.path with queue := s.path.queue.tail } }

/-- The queue head completes and is taken (R28, R29). -/
def State.takeHead (s : State) (err : Bool) : State :=
  match s.path.queue with
  | e :: _ => ((((s.complete err).noteLost e err).watchRegion e).watchWords e).popHead
  | [] => s

/-- WRITE_TAKEN: the memory port completes the queued write at the head (R27, R28, R29). -/
def execWriteTaken (err : Bool) (s : State) : Host.Outcome State Fault Refusal := act s s.headOnPort (s.takeHead err)

/-- A record is free while an arrival waits on the pool (R107). -/
def State.poolReady (s : State) : Bool := s.gather.waiting.isSome && decide (s.poolUsed < 32)

/-- The record is given to the waiting arrival and the queue moves on (R107). -/
def State.givePool (s : State) : State :=
  match s.gather.waiting with
  | some a =>
    if has (s.grp a.group).set a.sec && (s.sec a.sec).state != .disabled then s.endWait.openGather a else s.endWait
  | none => s

/-- POOL_RECORD_GIVEN (R107). -/
def execPoolRecordGiven (s : State) : Host.Outcome State Fault Refusal := act s s.poolReady s.givePool

/-! ### Served reads -/

/-- The passed read on the memory port (R53). -/
def State.readOnPort (s : State) : Option ReadTxn :=
  match s.arb.port, s.path.txn with
  | some .read, some (.read r) => some r
  | _, _ => none

/-- The words of a completed read given with DATA: a VIEW read of RUNNING through the mixer, any other unchanged (R22, R41,
R53, log entry 15). -/
def State.serveWords (s : State) (r : ReadTxn) (xs : List Word) : State :=
  match r.view with
  | some v =>
    if r.mixed && s.plan.partState = .running then
      let m := s.drawSight.mixView s.sight v xs
      m.1.respond (.data m.2)
    else s.respond (.data xs)
  | none => s.respond (.data xs)

/-- The passed read completes (R32, R53, R55). -/
def State.serveRead (s : State) (err : Bool) : State :=
  match s.readOnPort with
  | some r =>
    if err then ((s.complete err).respond .error).burstError .pass r.memAddr 0
    else (s.complete err).serveWords r (Memory.burst s.mem r.memAddr r.burst.len)
  | none => s

/-- READ_SERVED: a passed read completes on the memory port (R53, R55). -/
def execReadServed (err : Bool) (s : State) : Host.Outcome State Fault Refusal :=
  act s s.readOnPort.isSome (s.serveRead err)

/-! ### The clip fence -/

/-- The fence is RAISING and no CLIP write remains queued (R24). -/
def State.fenceReady (s : State) : Bool := s.path.fence = .raising && !s.clipQueued

/-- CLIP_FENCE_UP: the fence becomes UP and every begin waiting begins (R24, R67). -/
def execClipFenceUp (s : State) : Host.Outcome State Fault Refusal := act s s.fenceReady s.fenceUp

end Sys2Proof.Machine
end

