-- ==== Sys2Proof/Machine/PortEvents.lean ====
section
/-! DEFINITION. The completions of the part's own bursts: RESULT_WRITE_COMPLETE, CLIP_BLOCK_LINE_COMPLETE,
LIST_LINE_READ_COMPLETE, MIRROR_WRITE_COMPLETE, LOG_RECORD_WRITE_COMPLETE, HEADER_BURST_COMPLETE. -/

namespace Sys2Proof.Machine

/-! ### Result slot writes -/

/-- The result list without its head. -/
def State.dropResult (s : State) : State := { s with gather := { s.gather with results := s.gather.results.tail } }

/-- A held read of the key awaits one write less (R114). -/
def ReadTxn.awaitedLess (r : ReadTxn) (g : Fin 12) (n : Nat) : ReadTxn :=
  match r.phase with
  | .held g' n' c => if g' = g && n' = n then { r with phase := .held g' n' (c - 1) } else r
  | _ => r

/-- The held read at the system port hears of a completed result write (R111, R114). -/
def State.noteResult (s : State) (g : Fin 12) (n : Nat) : State :=
  match s.path.txn with
  | some (.read r) => { s with path := { s.path with txn := some (.read (r.awaitedLess g n)) } }
  | _ => s

/-- The head of the result list has been written, or not (R111). -/
def State.resultWritten (s : State) (err : Bool) : State :=
  match s.gather.results with
  | ga :: _ =>
    let s1 := ((s.complete err).dropResult).noteResult ga.group ga.pos
    if err then s1.burstError .result s.resultAddr (w2 ga.group.val ga.pos) else s1
  | [] => s

/-- A result slot write is on the memory port (R111). -/
def State.resultOnPort (s : State) : Bool := s.arb.port = some .result && !s.gather.results.isEmpty

/-- RESULT_WRITE_COMPLETE (R111). -/
def execResultWriteComplete (err : Bool) (s : State) : Host.Outcome State Fault Refusal :=
  act s s.resultOnPort (s.resultWritten err)

/-! ### Clip fetches -/

/-- The clip burst on the memory port. -/
def State.clipOnPort (s : State) : Option ClipFetch :=
  match s.arb.port with
  | some (.clip f) => some f
  | _ => none

/-- The index and line of a block fetch. -/
def ClipFetch.blockOf (f : ClipFetch) : Option (Int × Nat) :=
  match f.what with
  | .block x j => some (x, j)
  | .list _ => none

/-- The line number of a list line read. -/
def ClipFetch.listOf (f : ClipFetch) : Option Nat :=
  match f.what with
  | .block _ _ => none
  | .list k => some k

/-- The second detail word of a clip fetch's MEMORY_ERROR (chapter 12). -/
def ClipFetch.detail2 (f : ClipFetch) : Word :=
  match f.what with
  | .block x _ => w2 (f.ch.val + 256) (x % 65536).toNat
  | .list _ => w4 f.ch.val 0 0 0

/-- A clip burst ends on the memory port, an error counted and logged (R60, R64). -/
def State.endClip (s : State) (f : ClipFetch) (err : Bool) : State :=
  if err then (s.complete err).burstError .clip f.addr f.detail2 else s.complete err

/-- The block line on the memory port completes (R64). -/
def State.clipLineRead (s : State) (err : Bool) : State :=
  match s.clipOnPort with
  | some f =>
    match f.blockOf with
    | some p =>
      let s1 := s.endClip f err
      if s1.fetchCurrent f then s1.setChan f.ch ((s1.chan f.ch).blockLine p.1 err (Memory.bytes s.mem f.addr 64)) else s1
    | none => s
  | none => s

/-- CLIP_BLOCK_LINE_COMPLETE (R64). -/
def execClipBlockLineComplete (err : Bool) (s : State) : Host.Outcome State Fault Refusal :=
  act s (s.clipOnPort.bind ClipFetch.blockOf).isSome (s.clipLineRead err)

/-- The list line on the memory port completes, and the walk goes on (R59, R60). -/
def State.listLineRead (s : State) (err : Bool) : State :=
  match s.clipOnPort with
  | some f =>
    match f.listOf with
    | some k =>
      let s1 := s.endClip f err
      if s1.fetchCurrent f then
        (s1.setChan f.ch ((s1.chan f.ch).listLine k (if err then none else some (Memory.bytes s.mem f.addr 64)))).walk f.ch
      else s1
    | none => s
  | none => s

/-- LIST_LINE_READ_COMPLETE (R60). -/
def execListLineReadComplete (err : Bool) (s : State) : Host.Outcome State Fault Refusal :=
  act s (s.clipOnPort.bind ClipFetch.listOf).isSome (s.listLineRead err)

/-! ### Mirror and log writes -/

/-- A mirror record write is on the memory port. -/
def State.mirrorOnPort (s : State) : Bool :=
  match s.arb.port with
  | some (.mirror _ _) => true
  | _ => false

/-- The mirror record write completes: an error is counted, and nothing else happens (R177). -/
def State.mirrorWritten (s : State) (err : Bool) : State := if err then (s.complete err).memError else s.complete err

/-- MIRROR_WRITE_COMPLETE (R177). -/
def execMirrorWriteComplete (err : Bool) (s : State) : Host.Outcome State Fault Refusal :=
  act s s.mirrorOnPort (s.mirrorWritten err)

/-- A log record write is on the memory port. -/
def State.recordOnPort (s : State) : Bool := s.arb.port = some .logRecord && !s.report.queue.isEmpty

/-- The log record write completes (R180). -/
def State.recordWritten (s : State) (err : Bool) : State :=
  match s.report.queue with
  | e :: _ =>
    let s1 := s.complete err
    if err then { s1.memError with report := s1.memError.report.lostHead } else { s1 with report := s1.report.wrote e }
  | [] => s

/-- LOG_RECORD_WRITE_COMPLETE (R180). -/
def execLogRecordWriteComplete (err : Bool) (s : State) : Host.Outcome State Fault Refusal :=
  act s s.recordOnPort (s.recordWritten err)

/-- The producer index and lost count of the header burst on the memory port. -/
def State.headerOnPort (s : State) : Option (Nat × Nat) :=
  match s.arb.port with
  | some (.logHeader p l) => some (p, l)
  | _ => none

/-- The header burst completes (R180). -/
def State.headerWritten (s : State) (err : Bool) : State :=
  match s.headerOnPort with
  | some h =>
    let s1 := s.complete err
    if err then { s1.memError with report := s1.memError.report.headerFailed }
    else { s1 with report := s1.report.headerWrote h.1 h.2 }
  | none => s

/-- HEADER_BURST_COMPLETE (R180). -/
def execHeaderBurstComplete (err : Bool) (s : State) : Host.Outcome State Fault Refusal :=
  act s s.headerOnPort.isSome (s.headerWritten err)

end Sys2Proof.Machine
end

