-- ==== Sys2Proof/Machine/Timers.lean ====
section
/-! DEFINITION. The commands at a moment of the timebase: LOSS_TIMER_EXPIRY, WATCHDOG_EXPIRY, FREE_RUN_TIME,
GATHER_DEADLINE. -/

namespace Sys2Proof.Machine

/-- Section `k`'s loss deadline is reached (R9). -/
def State.lossDue (s : State) (k : Fin 24) : Bool := reached (s.sec k).deadline s.now

/-- LOSS_TIMER_EXPIRY (R9, R10, R11). -/
def execLossTimerExpiry (k : Fin 24) (s : State) : Host.Outcome State Fault Refusal := act s (s.lossDue k) (s.loseSec k)

/-- WATCHDOG_EXPIRY (R48). -/
def execWatchdogExpiry (s : State) : Host.Outcome State Fault Refusal := act s s.watchdogDue s.loseReference

/-- FREE_RUN_TIME (R48). -/
def execFreeRunTime (s : State) : Host.Outcome State Fault Refusal := act s s.freeRunDue s.freeRunEvent

/-- The OPEN gather of a key whose deadline is reached (R109). -/
def State.expiredGather (s : State) (g : Fin 12) (n : Nat) : Option Gather :=
  match s.openAt g n with
  | some ga => if reached ga.deadline s.now then some ga else none
  | none => none

/-- The gather closes as DEADLINE (R109). -/
def State.expireGather (s : State) (g : Fin 12) (n : Nat) : State :=
  match s.expiredGather g n with
  | some ga => s.closeGather ga .deadline
  | none => s

/-- GATHER_DEADLINE (R109). -/
def execGatherDeadline (g : Fin 12) (n : Nat) (s : State) : Host.Outcome State Fault Refusal :=
  act s (s.expiredGather g n).isSome (s.expireGather g n)

end Sys2Proof.Machine
end

