-- ==== Sys2Proof/Machine/Changes.lean ====
section
/-! DEFINITION. The commands of the change protocol (chapter 10): ARGUMENT_READ_COMPLETE, RELOAD, PLAN_FETCH_COMPLETE,
SWAP_CHANNEL_STOP, ACTIVATION_STEP, the four UPDATEs, START, STOP, CONTINUE, ACK, QUIESCE, QUIESCE_STOP, RESUME,
WRITE_BACK_COMPLETE, HEADER_FIELD_WRITE_COMPLETE. -/

namespace Sys2Proof.Machine

/-! ### The argument read -/

/-- The change record read of a change in ARGUMENTS is on the memory port (R163). -/
def State.argsOnPort (s : State) : Bool :=
  s.arb.port = some (.plan .argRead) &&
    match s.plan.change with
    | some c => c.stage = .arguments
    | none => false

/-- The change record read completes (R163, R165). -/
def State.argsRead (s : State) (err : Bool) : State :=
  if err then (s.complete err).fetchFailed s.anchorAddr else (s.complete err).takeArgs s.theChange

/-- ARGUMENT_READ_COMPLETE (R163, R165). -/
def execArgumentReadComplete (err : Bool) (s : State) : Host.Outcome State Fault Refusal :=
  act s s.argsOnPort (s.argsRead err)

/-! ### Loading and swapping -/

/-- RELOAD: the load begins (R168). -/
def execReload (s : State) : Host.Outcome State Fault Refusal := act s (s.handed 1) s.beginLoad

/-- The plan line of the load that is on the memory port, with the staged plan (R168). -/
def State.lineOnPort (s : State) : Option (Staged × StagedLine) :=
  match s.arb.port, s.plan.staged with
  | some (.plan (.loadLine _)), some st =>
    match st.todo with
    | l :: _ => some (st, l)
    | [] => none
  | _, _ => none

/-- A plan line of a load completes (R168, R169). -/
def State.planLineRead (s : State) (err : Bool) : State :=
  match s.lineOnPort with
  | some p =>
    if err then (s.complete err).loadFailed p.2.off
    else (s.complete err).lineLoaded p.1 p.2 (Memory.bytes s.mem (s.anchorAddr + p.2.off) 64)
  | none => s

/-- PLAN_FETCH_COMPLETE (R168 to R171). -/
def execPlanFetchComplete (err : Bool) (s : State) : Host.Outcome State Fault Refusal :=
  act s s.lineOnPort.isSome (s.planLineRead err)

/-- The clamped fields of a swap whose flush has been written to its end (R171). -/
def State.flushed (s : State) : Option Nat :=
  match s.stage with
  | some (.flushing n) => if s.gather.results.isEmpty then some n else none
  | _ => none

/-- Every channel is stopped and the memory path drains (R80, R171, R33). -/
def State.swapStop (s : State) : State :=
  match s.flushed with
  | some n => s.stopAll.setStage (.draining n)
  | none => s

/-- SWAP_CHANNEL_STOP (R171). -/
def execSwapChannelStop (s : State) : Host.Outcome State Fault Refusal := act s s.flushed.isSome s.swapStop

/-- The activation step, and the classification of a read that waited for it (R172, log entry 44). -/
def State.activateStaged (s : State) : State :=
  match s.drained with
  | some p => (s.activate p.1.tables p.2).classifyDeferred
  | none => s

/-- ACTIVATION_STEP (R172). -/
def execActivationStep (s : State) : Host.Outcome State Fault Refusal := act s s.drained.isSome s.activateStaged

/-! ### UPDATE -/

/-- UPDATE_SECTION: the section entry of an UPDATE has been read (R14, R173). -/
def execUpdateSection (err : Bool) (s : State) : Host.Outcome State Fault Refusal :=
  act s (s.updating 3) (s.entryLineRead 3 err)

/-- UPDATE_GROUP: a line of the group entry of an UPDATE has been read (R115, R173). -/
def execUpdateGroup (err : Bool) (s : State) : Host.Outcome State Fault Refusal :=
  act s (s.updating 4) (s.entryLineRead 4 err)

/-- UPDATE_CHANNEL: the channel entry of an UPDATE has been read (R78, R173). -/
def execUpdateChannel (err : Bool) (s : State) : Host.Outcome State Fault Refusal :=
  act s (s.updating 5) (s.entryLineRead 5 err)

/-- UPDATE_LINE: a line of the line entry of an UPDATE has been read (R157, R173). -/
def execUpdateLine (err : Bool) (s : State) : Host.Outcome State Fault Refusal :=
  act s (s.updating 6) (s.entryLineRead 6 err)

/-! ### Kinds handed to other blocks -/

/-- Byte `j` of a word. -/
def byteAt (w : Word) (j : Nat) : Nat := w.toNat / 256 ^ j % 256

/-- START carried out with the arguments of the change in progress (R66, chapter 12). -/
def State.startChange (s : State) : State :=
  let c := s.theChange
  s.hostStart (byteAt c.arg1 0) c.arg2.toNat (c.arg3.setWidth 24) (byteAt c.arg1 1) (byteAt c.arg1 2 % 16)

/-- START (R66). -/
def execStart (s : State) : Host.Outcome State Fault Refusal := act s (s.handed 3) s.startChange

/-- STOP (R75). -/
def execStop (s : State) : Host.Outcome State Fault Refusal := act s (s.handed 4) (s.hostStop (byteAt s.theChange.arg1 0))

/-- CONTINUE (R72). -/
def execContinue (s : State) : Host.Outcome State Fault Refusal :=
  act s (s.handed 5) (s.hostContinue (byteAt s.theChange.arg1 0))

/-- ACK (R154). -/
def execAck (s : State) : Host.Outcome State Fault Refusal := act s (s.handed 6) (s.hostAck (byteAt s.theChange.arg1 0))

/-! ### Halting -/

/-- QUIESCE: the pool is flushed (R174). -/
def execQuiesce (s : State) : Host.Outcome State Fault Refusal := act s (s.handed 7) (s.setStage .quiescing).flushPool

/-- The flush of a QUIESCE has been written to its end (R174). -/
def State.quiesced (s : State) : Bool := s.stage = some .quiescing && s.gather.results.isEmpty

/-- QUIESCE_STOP: the part halts (R174). -/
def execQuiesceStop (s : State) : Host.Outcome State Fault Refusal := act s s.quiesced s.haltPart

/-- RESUME (R175). -/
def execResume (s : State) : Host.Outcome State Fault Refusal := act s (s.handed 8) s.resumePart

/-! ### The part's writes into the plan header and the change record -/

/-- The change result write-back is on the memory port (R167). -/
def State.writeBackOnPort (s : State) : Bool :=
  match s.arb.port with
  | some (.plan (.writeBack _)) => true
  | _ => false

/-- The write-back completes: the change in progress becomes absent (R167). -/
def State.changeEnded (s : State) (err : Bool) : State :=
  let s1 := if err then (s.complete err).burstError .plan s.anchorAddr 0 else s.complete err
  { s1 with plan := { s1.plan with change := none } }

/-- WRITE_BACK_COMPLETE (R167). -/
def execWriteBackComplete (err : Bool) (s : State) : Host.Outcome State Fault Refusal :=
  act s s.writeBackOnPort (s.changeEnded err)

/-- The address of the header field write on the memory port (R161). -/
def State.fieldOnPort (s : State) : Option Nat :=
  match s.arb.port with
  | some (.plan (.stateField _)) => some (s.anchorAddr + 80)
  | some (.plan (.genField _)) => some (s.anchorAddr + 76)
  | _ => none

/-- A header field write completes; an error is counted and logged, and the write is not repeated (R161). -/
def State.fieldWritten (s : State) (err : Bool) : State :=
  match s.fieldOnPort with
  | some a => if err then (s.complete err).burstError .plan a 0 else s.complete err
  | none => s

/-- HEADER_FIELD_WRITE_COMPLETE (R161). -/
def execHeaderFieldWriteComplete (err : Bool) (s : State) : Host.Outcome State Fault Refusal :=
  act s s.fieldOnPort.isSome (s.fieldWritten err)

end Sys2Proof.Machine
end

