-- ==== Sys2Proof/Machine/Due.lean ====
section
/-! DEFINITION. What the part does of itself when no command waits (log entry 2): the first of its own steps that is due, or
one microsecond of the timebase. -/

namespace Sys2Proof.Machine

/-- The part's own steps that follow another step at once, in the order in which an idle part takes them, each with whether it
is due. -/
def State.ownSteps (s : State) : List (Bool × Instr) :=
  [(s.heldWrite.isSome, .heldWriteAccepted), (s.releaseDue, .outputReadReleased), (s.poolReady, .poolRecordGiven),
   (s.fenceReady, .clipFenceUp), (s.flushed.isSome, .swapChannelStop), (s.drained.isSome, .activationStep),
   (s.quiesced, .quiesceStop), (s.handed 1, .reload), (s.handed 3, .start), (s.handed 4, .stop),
   (s.handed 5, .continueChannel), (s.handed 6, .ack), (s.handed 7, .quiesce), (s.handed 8, .resume)]

/-- The steps at a moment of the timebase, in the order in which an idle part takes them, each with whether it is due. -/
def State.timedSteps (s : State) : List (Bool × Instr) :=
  ((List.finRange 24).map fun k => (s.lossDue k, .lossTimerExpiry k)) ++
  [(s.watchdogDue, .watchdogExpiry), (s.freeRunDue, .freeRunTime)] ++
  (s.gather.opens.map fun ga => ((s.expiredGather ga.group ga.pos).isSome, .gatherDeadline ga.group ga.pos)) ++
  ((List.finRange 6).map fun k => (s.debounceDue k, .debounceExpiry k))

/-- The first of the part's own steps that is due. While RESET is low none is. -/
def State.dueCommand (s : State) : Option Instr :=
  if s.inReset then none else ((s.ownSteps ++ s.timedSteps).find? fun x => x.1).map Prod.snd

/-- One microsecond of the timebase, which stands still while RESET is low (chapter 00, log entry 24). -/
def State.tick (s : State) : State := if s.inReset then s else { s with now := s.now + 1 }

end Sys2Proof.Machine
end

