-- ==== Sys2Proof/Machine/Dispatch.lean ====
section
/-! DEFINITION. One arm per command: the direct call of its meaning. -/

namespace Sys2Proof.Machine

def exec (i : Instr) (s : State) : Host.Outcome State Fault Refusal :=
  match i with
  | .reset => Sys2Proof.Machine.execReset s
  | .resetRelease msize levels => Sys2Proof.Machine.execResetRelease msize levels s
  | .hostWrite b => Sys2Proof.Machine.execHostWrite b s
  | .heldWriteAccepted => Sys2Proof.Machine.execHeldWriteAccepted s
  | .hostRead b => Sys2Proof.Machine.execHostRead b s
  | .outputReadReleased => Sys2Proof.Machine.execOutputReadReleased s
  | .writeTaken err => Sys2Proof.Machine.execWriteTaken err s
  | .poolRecordGiven => Sys2Proof.Machine.execPoolRecordGiven s
  | .readServed err => Sys2Proof.Machine.execReadServed err s
  | .resultWriteComplete err => Sys2Proof.Machine.execResultWriteComplete err s
  | .clipBlockLineComplete err => Sys2Proof.Machine.execClipBlockLineComplete err s
  | .listLineReadComplete err => Sys2Proof.Machine.execListLineReadComplete err s
  | .lossTimerExpiry k => Sys2Proof.Machine.execLossTimerExpiry k s
  | .watchdogExpiry => Sys2Proof.Machine.execWatchdogExpiry s
  | .freeRunTime => Sys2Proof.Machine.execFreeRunTime s
  | .gatherDeadline g n => Sys2Proof.Machine.execGatherDeadline g n s
  | .inputEvent k high => Sys2Proof.Machine.execInputEvent k high s
  | .debounceExpiry k => Sys2Proof.Machine.execDebounceExpiry k s
  | .clipFenceUp => Sys2Proof.Machine.execClipFenceUp s
  | .argumentReadComplete err => Sys2Proof.Machine.execArgumentReadComplete err s
  | .reload => Sys2Proof.Machine.execReload s
  | .planFetchComplete err => Sys2Proof.Machine.execPlanFetchComplete err s
  | .swapChannelStop => Sys2Proof.Machine.execSwapChannelStop s
  | .activationStep => Sys2Proof.Machine.execActivationStep s
  | .updateSection err => Sys2Proof.Machine.execUpdateSection err s
  | .updateGroup err => Sys2Proof.Machine.execUpdateGroup err s
  | .updateChannel err => Sys2Proof.Machine.execUpdateChannel err s
  | .updateLine err => Sys2Proof.Machine.execUpdateLine err s
  | .start => Sys2Proof.Machine.execStart s
  | .stop => Sys2Proof.Machine.execStop s
  | .continueChannel => Sys2Proof.Machine.execContinue s
  | .ack => Sys2Proof.Machine.execAck s
  | .quiesce => Sys2Proof.Machine.execQuiesce s
  | .quiesceStop => Sys2Proof.Machine.execQuiesceStop s
  | .resume => Sys2Proof.Machine.execResume s
  | .writeBackComplete err => Sys2Proof.Machine.execWriteBackComplete err s
  | .headerFieldWriteComplete err => Sys2Proof.Machine.execHeaderFieldWriteComplete err s
  | .mirrorWriteComplete err => Sys2Proof.Machine.execMirrorWriteComplete err s
  | .logRecordWriteComplete err => Sys2Proof.Machine.execLogRecordWriteComplete err s
  | .headerBurstComplete err => Sys2Proof.Machine.execHeaderBurstComplete err s

end Sys2Proof.Machine
end

