-- ==== Sys2Proof/Safety.lean ====
section
/-! DEFINITION. The terms statements are made in: what a command leaves unchanged, the log records that fall due, and the
conditions that every reachable state of the part meets. -/

namespace Sys2Proof.Machine

/-! ### Frames -/

/-- A transaction, apart from whether its waiting read was held before and whether it has been granted the memory port. -/
def Txn.still : Txn → Txn
  | .write b => .write b
  | .unclassified b => .unclassified b
  | .read r =>
    match r.phase with
    | .onPort => .read { r with phase := .waiting }
    | .released _ _ => .read { r with phase := .waiting }
    | _ => .read r

/-- A slot, apart from how many lines of its block have been presented. -/
def Slot.still (sl : Slot) : Slot := { sl with st := if sl.st = .fetching then .empty else sl.st, presented := 0 }

/-- A channel record, apart from what its clip fetches have presented. -/
def Chan.still (ch : Chan) : Chan :=
  { ch with requested := [], window := Table.ofFn fun j => (ch.window.get j).still }

/-- A line record, apart from its request status. -/
def LineRec.still (l : LineRec) : LineRec := { l with request := .none }

/-- The pieces of the part's state that a frame names. The end of every command presents and grants bursts, so what only
says which bursts are presented, granted or still to be written (the arbiter's state, the PLAN bursts ready, the dirty set,
the LOG burst presented) is in no frame. -/
inductive Part where
  | commands | resetLine | timebase | draws | memory
  | memorySize | regions | queue | fence | transaction | response
  | anchor | partState | generation | memErrors | lastError | descriptors | change | staged
  | sections | programmes | timing
  | channels | startOrder | breakIns | missStates
  | groups | opens | results | arrival | taking
  | lines | requests
  | logQueue | lostCount | logIndices | classTags | classCounts | logHeader | reportBases | attnMask | attn
  deriving DecidableEq, Repr

/-- A piece of state is the same in two states. Memory is compared byte by byte, through the model's read of one byte. -/
def Same (p : Part) (s t : State) : Prop :=
  match p with
  | .commands => t.pending = s.pending
  | .resetLine => t.inReset = s.inReset
  | .timebase => t.now = s.now
  | .draws => t.free = s.free
  | .memory => ∀ a, Memory.read t.mem a = Memory.read s.mem a
  | .memorySize => t.path.memSize = s.path.memSize
  | .regions => t.path.regions = s.path.regions ∧ t.path.implicit = s.path.implicit
  | .queue => t.path.queue = s.path.queue
  | .fence => t.path.fence = s.path.fence
  | .transaction => t.path.txn.map Txn.still = s.path.txn.map Txn.still
  | .response => t.path.response = s.path.response
  | .anchor => t.plan.anchor = s.plan.anchor
  | .partState => t.plan.partState = s.plan.partState
  | .generation => t.plan.generation = s.plan.generation
  | .memErrors => t.plan.memErrors = s.plan.memErrors
  | .lastError => t.plan.lastError = s.plan.lastError
  | .descriptors => t.plan.descr = s.plan.descr
  | .change => t.plan.change = s.plan.change
  | .staged => t.plan.staged = s.plan.staged
  | .sections => t.sections = s.sections
  | .programmes => t.tracker.progs = s.tracker.progs
  | .timing => t.tracker.reference = s.tracker.reference ∧ t.tracker.timing = s.tracker.timing ∧
      t.tracker.watchdog = s.tracker.watchdog ∧ t.tracker.nextFree = s.tracker.nextFree ∧
      t.tracker.freeCount = s.tracker.freeCount
  | .channels => ∀ c, (t.chan c).still = (s.chan c).still
  | .startOrder => t.playout.waitOrder = s.playout.waitOrder
  | .breakIns => t.mixer.recs = s.mixer.recs
  | .missStates => t.mixer.armed = s.mixer.armed
  | .groups => t.gather.groups = s.gather.groups
  | .opens => t.gather.opens = s.gather.opens
  | .results => t.gather.results = s.gather.results
  | .arrival => t.gather.waiting = s.gather.waiting
  | .taking => t.gather.taking = s.gather.taking
  | .lines => ∀ k, (t.line k).still = (s.line k).still
  | .requests => ∀ k, (t.line k).request = (s.line k).request
  | .logQueue => t.report.queue = s.report.queue
  | .lostCount => t.report.lost = s.report.lost
  | .logIndices => t.report.producer = s.report.producer ∧ t.report.consumer = s.report.consumer
  | .classTags => t.report.tags = s.report.tags
  | .classCounts => t.report.unconsumed = s.report.unconsumed
  | .logHeader => t.report.header = s.report.header
  | .reportBases => t.report.mirrorBase = s.report.mirrorBase ∧ t.report.logBase = s.report.logBase ∧
      t.report.logLen = s.report.logLen
  | .attnMask => t.report.attnMask = s.report.attnMask
  | .attn => t.report.attn = s.report.attn

/-- Every piece of state is the same in two states, but those listed. -/
def Frame (changed : List Part) (s t : State) : Prop := ∀ p, p ∉ changed → Same p s t

/-! ### What the operations of a block may change -/

/-- What the break-in mixer's joins and releases may change. -/
def mixParts : List Part := [.breakIns, .missStates, .logQueue, .lostCount]

/-- What the playout unit's begins, ends, handouts and walks may change. -/
def playParts : List Part :=
  [.channels, .startOrder, .fence, .breakIns, .missStates, .requests, .change, .logQueue, .lostCount]

/-- What the incident unit's operations may change. -/
def lineParts : List Part := .lines :: playParts

/-- What a block-time event may change. -/
def blockParts : List Part := .draws :: playParts

/-- What a taken PROGRAMME write may change. -/
def headParts : List Part := .programmes :: .timing :: blockParts

/-- What the closes of gathers may change. -/
def closeParts : List Part := [.groups, .opens, .results, .logQueue, .lostCount]

/-- What the arrivals at the gather engine may change. -/
def gatherParts : List Part := .arrival :: closeParts

/-- What a flush may change. -/
def flushParts : List Part := .taking :: .queue :: gatherParts

/-- What a section's moves may change. -/
def sectionParts : List Part := .sections :: .breakIns :: closeParts

/-- What a burst answered with an error may change, besides what it was for. -/
def errorParts : List Part := [.memErrors, .logQueue, .lostCount]

/-- What the activation step itself may change, besides the classification of a read that waited for it. -/
def activationParts : List Part :=
  [.regions, .descriptors, .staged, .partState, .generation, .lastError, .reportBases, .attnMask, .attn, .sections,
   .programmes, .timing, .groups, .taking] ++ lineParts

/-- What each command may change, in every form of it. -/
def changedBy : Instr → List Part
  | .reset =>
    [.resetLine, .timebase, .draws, .memory, .regions, .queue, .fence, .transaction, .response, .anchor, .partState,
     .generation, .memErrors, .lastError, .descriptors, .change, .staged, .sections, .programmes, .timing, .channels,
     .startOrder, .breakIns, .missStates, .groups, .opens, .results, .arrival, .taking, .lines, .requests, .logQueue,
     .lostCount, .logIndices, .classTags, .classCounts, .logHeader, .reportBases, .attnMask, .attn]
  | .resetRelease _ _ => [.resetLine, .timebase, .memorySize, .lines]
  | .hostWrite _ => [.transaction, .response, .queue, .anchor, .partState, .logQueue, .lostCount]
  | .heldWriteAccepted => [.transaction, .response, .queue, .anchor, .partState, .logQueue, .lostCount]
  | .hostRead _ => .transaction :: .response :: closeParts
  | .outputReadReleased => [.transaction]
  | .writeTaken _ =>
    [.memory, .queue, .memErrors, .sections, .classCounts, .logIndices, .attn] ++ headParts ++ gatherParts
  | .poolRecordGiven => .queue :: gatherParts
  | .readServed _ => [.draws, .transaction, .response, .channels, .missStates] ++ errorParts
  | .resultWriteComplete _ => [.memory, .results, .transaction] ++ errorParts
  | .clipBlockLineComplete _ => .channels :: errorParts
  | .listLineReadComplete _ => playParts ++ errorParts
  | .lossTimerExpiry _ => .sections :: closeParts
  | .watchdogExpiry => .timing :: blockParts
  | .freeRunTime => .timing :: blockParts
  | .gatherDeadline _ _ => closeParts
  | .inputEvent _ _ => lineParts
  | .debounceExpiry _ => lineParts
  | .clipFenceUp => playParts
  | .argumentReadComplete _ => .change :: errorParts
  | .reload => [.change, .staged]
  | .planFetchComplete _ => [.change, .staged, .lastError] ++ errorParts ++ flushParts
  | .swapChannelStop => playParts
  | .activationStep => .transaction :: .response :: (closeParts ++ activationParts)
  | .updateSection _ => [.change] ++ sectionParts ++ errorParts
  | .updateGroup _ => [.change] ++ flushParts ++ errorParts
  | .updateChannel _ => [.change, .channels] ++ errorParts
  | .updateLine _ => lineParts ++ errorParts
  | .start => playParts
  | .stop => playParts
  | .continueChannel => playParts
  | .ack => lineParts
  | .quiesce => .change :: flushParts
  | .quiesceStop => .partState :: playParts
  | .resume => .partState :: .taking :: lineParts
  | .writeBackComplete _ => [.memory, .change] ++ errorParts
  | .headerFieldWriteComplete _ => .memory :: errorParts
  | .mirrorWriteComplete _ => [.memory, .memErrors]
  | .logRecordWriteComplete _ => [.memory, .logIndices, .classTags, .classCounts, .attn] ++ errorParts
  | .headerBurstComplete _ => [.memory, .memErrors, .logHeader]

/-- Memory is the same outside the addresses of some cells. -/
def SameOutside (cells : List (Nat × Byte)) (s t : State) : Prop :=
  ∀ a, a ∉ cells.map Prod.fst → Memory.read t.mem a = Memory.read s.mem a

/-- The cells of a burst are in memory. -/
def InMemory (cells : List (Nat × Byte)) (t : State) : Prop := ∀ c ∈ cells, Memory.read t.mem c.1 = c.2

/-- What a completed write does to memory (R28, R32): its bytes are there and no other byte has changed, or, after an error,
none has (log entry 5). -/
def Stored (err : Bool) (cells : List (Nat × Byte)) (s t : State) : Prop :=
  if err then SameOutside [] s t else InMemory cells t ∧ SameOutside cells s t

/-! ### What statements say of reports and bursts -/

/-- A log record that falls due at this moment (R179). -/
def State.record (s : State) (kind : LogKind) (subject : Nat) (d1 d2 : Word) : LogRec := ⟨kind, subject, ms32 s.now, d1, d2⟩

/-- The log queue and the lost count after one more record has fallen due (R179). -/
def fallsDue (r : Report) (q : List LogRec × Nat) (e : LogRec) : List LogRec × Nat :=
  if r.unconsumedNum + q.1.length + 1 < r.logLen then (q.1 ++ [e], q.2) else (q.1, bump q.2)

/-- The log queue and the lost count after records have fallen due in this state, in order; without a plan in force they are
discarded (R162, R179). -/
def State.logged (s : State) (es : List LogRec) : List LogRec × Nat :=
  if s.inForce then es.foldl (fallsDue s.report) (s.report.queue, s.report.lost) else (s.report.queue, s.report.lost)

/-- The log queue and the lost count. -/
def State.logNow (s : State) : List LogRec × Nat := (s.report.queue, s.report.lost)

/-- The record of a queued write that memory answered with an error (R29). -/
def State.lostRecords (s : State) (e : QEntry) (err : Bool) : List LogRec :=
  if err then [s.record .writeLost e.kind.code (wNat e.burst.addr) (w4 e.burst.words.length 0 0 0)] else []

/-- What a taken write leaves besides its watchers' effects: its bytes in memory, its slot free, an error counted and
logged. -/
def plainWriteParts : List Part := .memory :: .queue :: errorParts

/-- The record of a heard section that is not DISABLED (R4, R5, R6, R7). `report` carries the flags of a band report. -/
def SectionRec.hears (r : SectionRec) (now : Nat) (report : Option (Bool × Bool)) : SectionRec :=
  let flags := report.getD (r.feederFault, r.unitAlarm)
  let judged : SectionState := if flags.1 || flags.2 then .degraded else .online
  let state := if r.state = .unseen ∨ r.state = .lost ∨ report.isSome then judged else r.state
  { r with
    refresh := now, deadline := some (now + r.lossTimeout * 1000), feederFault := flags.1, unitAlarm := flags.2
    state := state, transitions := if state = r.state then r.transitions else min (r.transitions + 1) 65535 }

/-- The record of a heard section's move, if it has moved (R15); a DISABLED section is not heard (R5). -/
def State.heardRecords (s : State) (k : Fin 24) (report : Option (Bool × Bool)) : List LogRec :=
  let r := s.sec k
  let new := r.hears s.now report
  if r.state = .disabled ∨ new.state = r.state then []
  else [s.record .sectionState k.val
    (w4 r.state.code new.state.code (if r.state = .unseen ∨ r.state = .lost then 2 else 3) 0) (w2 new.transitions 0)]

/-- The record of a burst of the part, or of a passed read, that memory answered with an error (R32). -/
def State.errorRecords (s : State) (src : ErrSource) (addr : Nat) (d2 : Word) (err : Bool) : List LogRec :=
  if err then [s.record .memoryError src.code (wNat addr) d2] else []

/-- The memory errors count after a burst (R32). -/
def State.errorsAfter (s : State) (err : Bool) : Nat := if err then bump s.plan.memErrors else s.plan.memErrors

/-- Action slot `j` of a line holds a BREAKIN. -/
def LineRec.isBreakin (l : LineRec) (j : Fin 3) : Bool :=
  match l.actions.get j with
  | .breakin _ _ _ _ _ => true
  | .forceOpen _ _ _ => false
  | .focus _ _ _ => false
  | .unknown _ => false
  | .empty => false

/-- The slot of the first BREAKIN of a line (R150). -/
def LineRec.firstBreakin (l : LineRec) : Option (Fin 3) :=
  if l.isBreakin 0 then some 0 else if l.isBreakin 1 then some 1 else if l.isBreakin 2 then some 2 else none

/-- The record of an action that cannot have effect as its line becomes ACTIVE (R150, R160); a BREAKIN that the line requests is
answered by the playout unit (R151). -/
def State.refusedAction (s : State) (k : Fin 6) (j : Fin 3) : Option LogRec :=
  let a := (s.line k).actions.get j
  let refused (reason : Nat) : LogRec := s.record .actionRefused k.val (w4 j.val a.kind reason 0) a.detail2
  match a with
  | .forceOpen g _ _ => if s.groupIs g .rank then none else some (refused 1)
  | .focus g _ _ => if s.groupIs g .select then none else some (refused 1)
  | .unknown _ => some (refused 3)
  | .breakin c _ _ prio _ =>
    if (s.line k).firstBreakin = some j then none
    else some (s.record .actionRefused k.val (w4 j.val 1 2 0) (w4 c prio 0 0))
  | .empty => none

/-- The lines may request their BREAKINs: the part is RUNNING and no swap stands between its stop and its activation (R159,
R171). -/
def State.linesMayRequest (s : State) : Prop := s.plan.partState = .running ∧ ∀ n, s.stage ≠ some (.draining n)

/-- A burst of the PLAN requester is ready, or on the memory port. -/
def State.planHas (s : State) (b : PlanBurst) : Prop := b ∈ s.plan.out ∨ s.arb.port = some (.plan b)

/-- The change in progress stands in WRITING_BACK and its result is ready to be written, or being written (R167). -/
def State.answered (s : State) (r : ResultCode) (check entry : Nat) : Prop :=
  s.stage = some .writingBack ∧ s.planHas (.writeBack (resultWord r check entry))

/-- The change in progress stands in ACTING with this kind, to be carried out by the kind's own command (R165). -/
def State.carriesOut (s : State) (kind : Nat) : Prop :=
  s.inReset = false ∧ ∃ c, s.plan.change = some c ∧ c.kind = kind ∧ c.stage = .handover

/-- The memory port carries a line of the entry that an UPDATE names, at this offset of the plan area; `todo` lines are still to
come and the bytes `got` have been read (R173, log entry 23). -/
def State.readsEntry (s : State) (t : Fin 7) (idx off : Nat) (todo : List Nat) (got : List Byte) : Prop :=
  s.inReset = false ∧ s.arb.port = some (.plan (.entryLine off)) ∧
  ∃ c, s.plan.change = some c ∧ c.kind = 2 ∧ updateTable c.tableByte = some t ∧ c.indexByte = idx ∧
    c.stage = .entryFetch todo got

/-- The last line of the entry that an UPDATE names is on the memory port, and the entry's bytes, whole, are `b` (R173). -/
def State.entryComes (s : State) (t : Fin 7) (idx : Nat) (b : List Byte) : Prop :=
  ∃ off got, s.readsEntry t idx off [] got ∧
    b = ((got ++ Memory.bytes s.mem (s.anchorAddr + off) 64).drop (s.entryOff t idx % 64)).take (entrySize t)

/-- The record of the clamped fields of an UPDATE, if there are any (R173). -/
def State.clampedRecords (s : State) (n : Nat) : List LogRec := if n = 0 then [] else [s.record .planClamped n 0 0]

/-- The words `ys` are the words `xs` mixed with the words `ws` at gain `g` and announcement gain `a`, half by half: the
rounded quotient of R94 and R96, clamped. A missing word of `ws` counts as zero. -/
def MixedTo (g a : Nat) (xs ws ys : List Word) : Prop :=
  ys.length = xs.length ∧ ∀ i, i < xs.length →
    leftOf (ys.getD i 0) =
      max (-32768) (min 32767 ((leftOf (xs.getD i 0) * g + leftOf (ws.getD i 0) * a + 16384) / 32768)) ∧
    rightOf (ys.getD i 0) =
      max (-32768) (min 32767 ((rightOf (xs.getD i 0) * g + rightOf (ws.getD i 0) * a + 16384) / 32768))

/-- A passed read is on the memory port (R53). -/
def State.serves (s : State) (r : ReadTxn) : Prop :=
  s.inReset = false ∧ s.arb.port = some .read ∧ s.path.txn = some (.read r)

/-- The announcement index of a read at ring position `n` (R95). -/
def annIndexOf (n startPos ringLen : Nat) (i : Int) : Int :=
  if i + 23 < ((n : Int) - startPos) % ringLen then ((n : Int) - startPos) % ringLen - ringLen
  else ((n : Int) - startPos) % ringLen

/-- Every channel is stopped with every start dropped, every section CLEAR at full gain, every request status NONE, and the clip
fence DOWN (R80, R100, R159). -/
def State.allStopped (s : State) : Prop :=
  (∀ c, (s.chan c).st = .idle ∧ (s.chan c).owner = none ∧ (s.chan c).prio = 0 ∧ (s.chan c).mask = 0 ∧
    (s.chan c).waiting = none ∧ (s.chan c).queued = none ∧ (s.chan c).pending = [] ∧ s.armed c = false) ∧
  (∀ k, (s.brk k).active = none ∧ (s.brk k).suspended = none ∧ (s.brk k).gain = 32768 ∧ (s.brk k).st = .clear) ∧
  (∀ k, (s.line k).request = .none) ∧ s.playout.waitOrder = [] ∧ s.path.fence = .down

/-- Section `k`'s record after a release of channel `c` with ramps (R86). -/
def State.releasedRec (s : State) (c : Fin 4) (k : Fin 24) : BreakRec :=
  let b := s.brk k
  if b.active = some c then
    match b.suspended with
    | some e => { b with active := some e, suspended := none, st := .settling }
    | none => { b with active := none, st := .restoring, restore := rampStep (s.chan c).defaults.duck (s.chan c).use.ramp }
  else if b.suspended = some c then { b with suspended := none }
  else b

/-- A join of priority `prio` finds the suspended slot of a record empty or held by a lower priority (R84). -/
def State.mayWait (s : State) (b : BreakRec) (prio : Nat) : Bool := b.suspended.all fun e => decide ((s.chan e).prio < prio)

/-- A section's record after the join of channel `c`, its record before being `b` (R84). -/
def State.joinRec (s : State) (b : BreakRec) (c : Fin 4) (prio : Nat) : BreakRec :=
  match b.active with
  | none => { b with active := some c, st := .settling }
  | some a =>
    if (s.chan a).prio < prio then { b with active := some c, suspended := some a, st := .settling }
    else if prio < (s.chan a).prio ∧ s.mayWait b prio = true then { b with suspended := some c }
    else b

/-- What the join of channel `c` logs of section `k`, its record before being `b`: a channel dropped from the suspended slot, or
the refusal (R85). -/
def State.joinLog (s : State) (b : BreakRec) (c : Fin 4) (prio : Nat) (k : Fin 24) : List LogRec :=
  match b.active with
  | none => []
  | some a =>
    if (s.chan a).prio < prio ∨ (prio < (s.chan a).prio ∧ s.mayWait b prio = true) then
      b.suspended.toList.map fun e => s.record .sectionDropped k.val (w4 e.val (s.chan e).prio c.val prio) 0
    else [s.record .sectionRefused k.val (w4 c.val prio a.val (s.chan a).prio)
      (w4 (refCode b.suspended) (b.suspended.elim 0 fun e => (s.chan e).prio) 0 0)]

/-- The join of a start on channel `c`, the section records before it being `old`: every section of its mask that is not DISABLED
is decided, no other changes (R84). -/
def State.joinsAs (s t : State) (old : Fin 24 → BreakRec) (c : Fin 4) (st : Start) : Prop :=
  ∀ k, t.brk k = if has st.mask k && (s.sec k).state != .disabled then s.joinRec (old k) c st.prio else old k

/-- What the join of a start on channel `c` logs, in ascending order of section (R84, R85). -/
def State.joinRecords (s : State) (old : Fin 24 → BreakRec) (c : Fin 4) (st : Start) : List LogRec :=
  (List.finRange 24).flatMap fun k =>
    if has st.mask k && (s.sec k).state != .disabled then s.joinLog (old k) c st.prio k else []

/-- CHANNEL_STATE of a start that begins on channel `c`: from the state `old`, with its cause (R67, R79). -/
def State.beginRecord (s : State) (c : Fin 4) (st : Start) (old : ChanState) (cause : Nat) : LogRec :=
  s.record .channelState c.val (w4 old.code 1 cause (ownerCode (some st.owner) + 16 * st.prio))
    (wInt (-((s.chan c).defaults.ramp + 2 : Int)))

/-- Channel `c` is in no section's record. -/
def State.unjoined (s : State) (c : Fin 4) : Prop := ∀ k, (s.brk k).active ≠ some c ∧ (s.brk k).suspended ≠ some c

/-- No section's record names channel `c` in both of its slots (R84). -/
def State.joinedOnce (s : State) (c : Fin 4) : Prop := ∀ k, (s.brk k).active = some c → (s.brk k).suspended ≠ some c

/-- No other start waits for channel `c` (R74). -/
def Chan.noStarts (ch : Chan) : Prop := ch.queued = none ∧ ch.pending = []

/-- The live use of channel `c` has ended, and nothing begins on it (R73, R68, R151): its sections are released, its line is told,
its record is idle with walk, list buffer and window discarded, and with no channel live and no begin waiting the clip fence is
lowered. What step 3 of R73 does not name stands (log entry 38). -/
def State.ends (s t : State) (c : Fin 4) (status : ReqStatus) : Prop :=
  t.chan c = { s.chan c with
    st := .idle, owner := none, prio := 0, mask := 0, walk := ⟨0, 0, 0, .finished, false⟩, endIdx := none, headLine := none,
    curLine := none, nextLine := none, requested := [], window := Table.fill 32 ⟨none, .empty, none, 0, [], []⟩,
    useNo := (s.chan c).useNo + 1 } ∧
  (∀ d, d ≠ c → t.chan d = s.chan d) ∧ (∀ k, t.brk k = s.releasedRec c k) ∧
  (∀ k, t.line k = if (s.chan c).owner = some (.line k) then { s.line k with request := status } else s.line k) ∧
  t.path.fence = (if ∀ d, (t.chan d).st.live = false ∧ (t.chan d).waiting = none then .down else s.path.fence)

/-- What the markers of an index log as the play index passes it, in walk order (R71): `st` is the channel's state before them,
`i` the play index after the event. -/
def State.markRecords (s : State) (c : Fin 4) (i : Int) : ChanState → List Marker → List LogRec
  | _, [] => []
  | st, .mark tag entry :: ms => s.record .markPassed c.val (w2 tag entry) (wInt i) :: s.markRecords c i st ms
  | st, .hold :: ms =>
    s.record .channelState c.val (w4 st.code 3 4 (ownerCode (s.chan c).owner + 16 * (s.chan c).prio)) (wInt i) ::
      s.markRecords c i .held ms

/-- The use of channel `c` that a start begins, in the state before it begins (R67): the start's own fields, the defaults copied,
the play index and the alignment, the walk at entry 0, and a window without blocks. What waits for the channel, and which use of it
this is, stand aside; its counters and defaults stay. -/
def State.begins (s t : State) (c : Fin 4) (st : Start) : Prop :=
  (s.chan c).useNo < (t.chan c).useNo ∧
  (t.chan c).still = { s.chan c with
    st := .priming, owner := some st.owner, prio := st.prio, mask := st.mask, listAddr := st.listAddr, repeats := st.rep
    reqRep := st.rep, use := ⟨(s.chan c).defaults.ramp, (s.chan c).defaults.ann, (s.chan c).defaults.policy⟩
    i := -((s.chan c).defaults.ramp + 2 : Int)
    startPos := Table.ofFn fun p => ((s.prog p).head + (s.chan c).defaults.ramp + 2) % (s.prog p).ringLen
    walk := ⟨0, 0, 0, .running, false⟩, endIdx := none, headLine := none, curLine := none, nextLine := none, requested := []
    window := Table.ofFn fun j =>
      let low := -((s.chan c).defaults.ramp + 2 : Int) - 8
      let x := low + ((j.val : Int) - low) % 32
      ⟨some x, if x < 0 then .silent else .empty, none, 0, [], []⟩
    waiting := none, queued := (t.chan c).queued, pending := (t.chan c).pending, useNo := (t.chan c).useNo }

/-- Start `st` is the one to which channel `c` is handed out (R74): of the pending set and the queued start, the highest priority,
a line before the host, the lower line first. -/
def Chan.handsTo (ch : Chan) (st : Start) : Prop :=
  (st ∈ ch.pending ∨ ch.queued = some st) ∧
  ∀ x, x ∈ ch.pending ∨ ch.queued = some x → x = st ∨ x.prio < st.prio ∨ (x.prio = st.prio ∧
    ((∃ j, st.owner = .line j ∧ x.owner = .host) ∨ ∃ j k : Fin 6, st.owner = .line j ∧ x.owner = .line k ∧ j < k))

/-- Channel `c`, whose live use or begin waiting has come to its end with a cause, is handed out to `st` (R74): the start leaves
what waits, its line is told, and it begins under an UP fence, or takes the cancelled begin's place while the fence rises. -/
def State.handedOut (s t : State) (c : Fin 4) (st : Start) (cause : Nat) : Prop :=
  (st.owner = .host → (t.chan c).queued = none ∧ (t.chan c).pending = (s.chan c).pending) ∧
  (∀ k, st.owner = .line k → (t.chan c).queued = (s.chan c).queued ∧
    (t.chan c).pending = (s.chan c).pending.filter fun x => x.owner != .line k) ∧
  ((s.chan c).st.live = true → s.path.fence = .up → s.begins t c st ∧
    (∀ d, d ≠ c → (t.chan d).still = (s.chan d).still) ∧ t.path.fence = .up ∧
    (s.joinedOnce c → s.joinsAs t (s.releasedRec c) c st ∧
      t.logNow = s.logged (s.record .channelState c.val (w4 (s.chan c).st.code 0 cause 15) (wInt (s.chan c).i) ::
        (s.joinRecords (s.releasedRec c) c st ++ [s.beginRecord c st .idle 1])))) ∧
  (∀ w, (s.chan c).st.live = false → (s.chan c).waiting = some w → s.path.fence = .raising → c ∈ s.playout.waitOrder →
    (t.chan c).waiting = some st ∧ t.playout.waitOrder = s.playout.waitOrder ∧ t.path.fence = .raising ∧
    (∀ d, d ≠ c → (t.chan d).still = (s.chan d).still) ∧ t.mixer = s.mixer ∧ t.logNow = s.logNow)

/-- Mirror record `m` is to be written: it is dirty, or its write is on the memory port (R177). -/
def State.mirrorDue (s : State) (m : Nat) : Prop :=
  s.report.dirty.getLsbD m = true ∨ ∃ l, s.arb.port = some (.mirror (s.report.mirrorBase + 64 * m) l)

/-- No queued write covers the line of an address (R30, R31); a taken write that waits on the pool is in memory and no longer
counts (log entry 13). -/
def State.unqueued (s : State) (a : Nat) : Prop :=
  ∀ e ∈ (if s.gather.waiting.isSome then s.path.queue.tail else s.path.queue), e.burst.addr / 64 ≠ a / 64

/-- The walk of channel `c` may go on and waits for the list line of its current entry, which lies within the list's CLIP region
(R59, R60). -/
def State.awaitsLine (s : State) (c : Fin 4) : Prop :=
  (s.chan c).walk.st = .running ∧ (s.chan c).walk.next ≤ (s.chan c).i + 23 ∧ (s.chan c).walk.entry < 256 ∧
  (s.chan c).bufLine ((s.chan c).walk.entry / 4) = none ∧
  ∃ r, s.path.clipRegion (s.chan c).listAddr = some r ∧
    (s.chan c).listAddr + 64 * ((s.chan c).walk.entry / 4) + 64 ≤ r.base + r.size

/-- A burst of the use now on channel `c` is on the memory port and fetches `w`. -/
def State.fetching (s : State) (c : Fin 4) (w : ClipWhat) : Prop := ∃ a, s.arb.port = some (.clip ⟨c, (s.chan c).useNo, w, a⟩)

/-- A line of channel `c`'s list is on the memory port. -/
def State.fetchesList (s : State) (c : Fin 4) : Prop := ∃ k, s.fetching c (.list k)

/-- A line of the block that channel `c` plays at index `x` is on the memory port. -/
def State.fetchesBlock (s : State) (c : Fin 4) (x : Int) : Prop := ∃ l, s.fetching c (.block x l)

/-- Slot `j` of a channel's window is EMPTY, holds index `x` at or above the play index, and has the block at `a` to fetch (R64). -/
def Chan.mayFetch (ch : Chan) (j : Fin 32) (x : Int) (a : Nat) : Prop :=
  (ch.window.get j).st = .empty ∧ (ch.window.get j).idx = some x ∧ (ch.window.get j).src = some a ∧ ch.i ≤ x

/-- A swap's activation step is due (R33, R172): its plan is staged, the memory path drains for it, the queue is empty and no
classified read is in progress. -/
def State.installDue (s : State) : Prop :=
  (∃ n, s.stage = some (.draining n)) ∧ (∃ st, s.plan.staged = some st) ∧ s.path.queue = [] ∧
  ∀ r, s.path.txn ≠ some (.read r)

/-- RESET is high, no transaction is in progress at the system port and no activation step is due, so that the next transaction
presented is classified at once (R172). -/
def State.portIdle (s : State) : Prop := s.inReset = false ∧ s.path.txn = none ∧ ¬s.installDue

/-- RESET is high, and the queued write `e` at the head of the queue is on the memory port, no arrival waiting (R27). -/
def State.takes (s : State) (e : QEntry) (rest : List QEntry) : Prop :=
  s.inReset = false ∧ s.arb.port = some .queueHead ∧ s.path.queue = e :: rest ∧ s.gather.waiting = none

/-- A write to a line of this kind is refused in this state (R19, R23, R24). -/
def State.refused (s : State) (k : LineKind) : Prop :=
  match k with
  | .view _ => True | .output _ => True | .mirror => True | .log => True | .beyondMemory => True
  | .clip => s.path.fence ≠ .down
  | _ => False

/-- The queue has no slot for a write, or the memory path drains for an installation (R26, R33). -/
def State.noSlot (s : State) : Prop := 16 ≤ s.path.queue.length ∨ s.draining = true

/-- The gather `ga`, OPEN in `s`, has closed with a status: it has left the OPEN records and stands at the tail of the result
list with its result computed in `s`; its status is counted in its group; in a SELECT group its winner, if it has one, is the last
winner, and in a RANK group the gate state is the one computed; an abnormal close is logged (R110). -/
def ClosedAs (s t : State) (ga : Gather) (st : CloseStatus) : Prop :=
  t.gather.opens = (s.gather.opens.filter fun x => !(x.group = ga.group && x.pos = ga.pos)) ∧
  t.gather.results = s.gather.results ++ [{ ga with status := some st, deadline := none, result := s.resultLine ga st }] ∧
  t.grp ga.group = { s.grp ga.group with
    counts := (s.grp ga.group).counts.set st.idx (min ((s.grp ga.group).counts.get st.idx + 1) 65535)
    lastWinner := if (s.grp ga.group).kind = .select then ga.vote.best.or (s.grp ga.group).lastWinner
      else (s.grp ga.group).lastWinner
    gates := if (s.grp ga.group).kind = .rank then Table.ofFn (fun b => s.gateAfter ga b) else (s.grp ga.group).gates } ∧
  (∀ g, g ≠ ga.group → t.grp g = s.grp g) ∧
  t.logNow = s.logged (if st.abnormal then
    [s.record .gatherAbnormal ga.group.val (w2 ga.pos ga.seq)
      (w4 st.code (card ga.contributors) (card (s.expectedSet ga.group)) 0)] else [])

/-- Gather `a` closes before gather `b` where several close at one moment: ascending group, then position (R108, R115, R116). -/
abbrev closesBefore (a b : Gather) : Prop := a.group < b.group ∨ (a.group = b.group ∧ a.pos ≤ b.pos)

/-- The gathers of a list close one after another with a status, each with its result computed in the state that the closes
before it leave, and nothing else happens (R108, R110). -/
def ClosesInOrder (st : CloseStatus) : List Gather → State → State → Prop
  | [], s, t => Frame [] s t
  | ga :: rest, s, t => ∃ u, ClosedAs s u ga st ∧ Frame closeParts s u ∧ ClosesInOrder st rest u t

/-- The OPEN gathers that `f` picks out close with a status, in ascending order of group and position (R108, R115, R116). -/
def State.closesAll (s t : State) (f : Gather → Bool) (st : CloseStatus) : Prop :=
  ∃ l, l.Perm (s.gather.opens.filter f) ∧ l.Pairwise closesBefore ∧ ClosesInOrder st l s t

/-- The pool has been flushed (R116): no arrival is taken or waits, and the queue has moved past a waiting arrival's write; then
every gather that was OPEN closes as FLUSHED, in ascending order of group and position, behind the earlier results. -/
def State.flushedInto (s t : State) : Prop :=
  t.gather.taking = false ∧ t.gather.waiting = none ∧ t.gather.opens = [] ∧
  (∀ ga ∈ s.gather.opens, ∃ x ∈ t.gather.results, x.group = ga.group ∧ x.pos = ga.pos ∧ x.seq = ga.seq ∧
    x.contributors = ga.contributors ∧ x.status = some .flushed) ∧
  t.path.queue = (if s.gather.waiting.isSome then s.path.queue.tail else s.path.queue) ∧
  ∃ u, Frame [.change, .staged, .taking, .arrival, .queue] s u ∧ u.closesAll t (fun _ => true) .flushed

/-- An OPEN gather that expects section `k` and would be covered without it (R10, R108). -/
def State.leftCovered (s : State) (k : Fin 24) (ga : Gather) : Bool :=
  has (s.grp ga.group).set k && (List.finRange 24).all fun j =>
    j = k || !has (s.grp ga.group).set j || !(s.sec j).state.eligible || has ga.contributors j

/-- Section `k` has left the expected sets and its gates are cleared (R10, R11): the gathers covered without it close as COMPLETE
in ascending order of group and position, the section's new record already standing; then its gate is closed with hold 0 in every
band of every RANK group, as the closes have left them. -/
def State.completedWithout (s t : State) (k : Fin 24) : Prop :=
  ∃ u v, Frame [.sections, .change, .logQueue, .lostCount] s u ∧ u.sections = t.sections ∧
    u.closesAll v (s.leftCovered k) .complete ∧ t.gather.opens = v.gather.opens ∧ t.gather.results = v.gather.results ∧
    ∀ g, t.grp g = if (v.grp g).kind = .rank then
        { v.grp g with gates := Table.ofFn fun b =>
            ⟨((v.grp g).gates.get b).isOpen &&& ~~~(single k), ((v.grp g).gates.get b).hold.set k 0⟩ }
      else v.grp g

/-- Wanter `j` stands before wanter `k` (R138): healthy before degraded, then the higher power, then the lower section. -/
abbrev outranks (degraded : SecSet) (power : Fin 24 → Nat) (j k : Fin 24) : Prop :=
  (has degraded j = false ∧ has degraded k = true) ∨
    (has degraded j = has degraded k ∧ (power k < power j ∨ (power j = power k ∧ j < k)))

/-- The extents of two regions, by base and size, share a line (R169). -/
def extentsMeet (b1 n1 b2 n2 : Nat) : Prop := b1 / 64 * 64 < b2 + n2 ∧ b2 / 64 * 64 < b1 + n1

/-- A staged plan fails a check of R169. PLAN_AREA is decided on the header, before the tables are read (R168). -/
def PlanFails (s : State) (pt : PlanTables) : PlanCheck → Prop
  | .planArea => False
  | .alignment => (∃ x ∈ pt.used, x.2.base % 64 ≠ 0) ∨ pt.d.mirrorBase % 64 ≠ 0 ∨ pt.d.logBase % 64 ≠ 0
  | .regionEntry => ∃ x ∈ pt.used, 6 < x.2.kind ∨ ((x.2.kind = 2 ∨ x.2.kind = 3) ∧ 5 < x.2.num) ∨
      ((x.2.kind = 4 ∨ x.2.kind = 5) ∧ 11 < x.2.num) ∨ ((x.2.kind = 1 ∨ x.2.kind = 6) ∧ x.2.lines = 0)
  | .groupKind => ∃ g, g < 12 ∧ (pt.group g).1.present = true ∧ (pt.group g).1.kind ≠ 1 ∧ (pt.group g).1.kind ≠ 2
  | .ringLength =>
      (∃ p, p < 6 ∧ (∃ x ∈ pt.used, x.2.kind = 2 ∧ x.2.num = p) ∧ (pt.progLen p < 64 ∨ 4096 < pt.progLen p)) ∨
      (∃ g, g < 12 ∧ (pt.group g).1.present = true ∧ ((pt.group g).1.ringLen < 16 ∨ 1024 < (pt.group g).1.ringLen))
  | .logLength => ∀ n, 6 ≤ n → n ≤ 13 → pt.d.logLen ≠ 2 ^ n
  | .logMoved => s.inForce = true ∧ ∃ d, s.plan.descr = some d ∧ (pt.d.logBase ≠ d.logBase ∨ pt.d.logLen ≠ d.logLen)
  | .duplicateRegion => ∃ x ∈ pt.used, ∃ y ∈ pt.used, x.1 ≠ y.1 ∧ x.2.kind = y.2.kind ∧ x.2.num = y.2.num ∧
      2 ≤ x.2.kind ∧ x.2.kind ≤ 5
  | .missingPair =>
      (∃ x ∈ pt.used, x.2.kind = 3 ∧ ∀ y ∈ pt.used, y.2.kind = 2 → y.2.num ≠ x.2.num) ∨
      (∃ g, g < 12 ∧ (pt.group g).1.present = true ∧
        ((∀ y ∈ pt.used, y.2.kind = 4 → y.2.num ≠ g) ∨ (∀ y ∈ pt.used, y.2.kind = 5 → y.2.num ≠ g))) ∨
      (∃ x ∈ pt.used, (x.2.kind = 4 ∨ x.2.kind = 5) ∧ (pt.group x.2.num).1.present = false)
  | .beyondMemory => (∃ x ∈ pt.used, s.path.memSize < x.2.base + pt.sizeOf x.2) ∨
      s.path.memSize < pt.d.mirrorBase + 47 * 64 ∨ s.path.memSize < pt.d.logBase + pt.d.logLen * 16
  | .overlap =>
      (∃ x ∈ pt.used, ∃ y ∈ pt.used, x.1 ≠ y.1 ∧ extentsMeet x.2.base (pt.sizeOf x.2) y.2.base (pt.sizeOf y.2)) ∨
      (∃ x ∈ pt.used, extentsMeet x.2.base (pt.sizeOf x.2) s.anchorAddr pt.d.areaLen ∨
        extentsMeet x.2.base (pt.sizeOf x.2) pt.d.mirrorBase (47 * 64) ∨
        extentsMeet x.2.base (pt.sizeOf x.2) pt.d.logBase (pt.d.logLen * 16)) ∨
      extentsMeet s.anchorAddr pt.d.areaLen pt.d.mirrorBase (47 * 64) ∨
      extentsMeet s.anchorAddr pt.d.areaLen pt.d.logBase (pt.d.logLen * 16) ∨
      extentsMeet pt.d.mirrorBase (47 * 64) pt.d.logBase (pt.d.logLen * 16)
  | .reference => (pt.d.reference = 255 ∧ ∃ x ∈ pt.used, x.2.kind = 3) ∨
      (pt.d.reference ≠ 255 ∧ ∀ x ∈ pt.used, x.2.kind = 2 → x.2.num ≠ pt.d.reference)

/-- The checks of R169 after PLAN_AREA, in order. -/
def laterChecks : List PlanCheck :=
  [.alignment, .regionEntry, .groupKind, .ringLength, .logLength, .logMoved, .duplicateRegion, .missingPair, .beyondMemory,
   .overlap, .reference]

/-- 1 for a value outside a range, which is clamped, 0 within it (R170). -/
def outside (lo hi v : Nat) : Nat := if v < lo ∨ hi < v then 1 else 0

/-- What line `k` logs at the activation step when no line's request stands, its new entry being `e` (R158): LINE_STATE as it is
withdrawn, and LINE_STATE as its input is evaluated afresh to another state. -/
def State.reloadRecords (s : State) (k : Fin 6) (e : LineEntry) : List LogRec :=
  let l := s.line k
  let new : LineState := if e.enabled = true ∧ l.high ≠ e.activeLow then .debounce else .quiet
  let mid : LineState := if l.state.inForce then .quiet else l.state
  (if l.state.inForce then [s.record .lineState k.val (w4 l.state.code 0 5 0) 0] else []) ++
  (if mid = new then [] else [s.record .lineState k.val (w4 mid.code new.code 5 0) 0])

/-- A queued write covers no watched word (R25). -/
def QEntry.unwatched (e : QEntry) : Prop := e.watchChange = false ∧ e.watchConsumer = false

/-- A kind of line whose taken writes no block watches (R23). -/
def LineKind.plainLike : LineKind → Prop
  | .programme _ => False
  | .uplink _ => False
  | _ => True

/-! ### Conditions that every reachable state meets -/

/-- Memory has its canonical form, the posted-write queue holds at most 16 writes (R26), each queued or held write and
each read that waits for the activation step is a burst (R17), and the run count is at most 8 (R38). -/
def MemoryInv (s : State) : Prop :=
  Memory.wf s.mem = true ∧ s.path.queue.length ≤ 16 ∧ (∀ e ∈ s.path.queue, (Instr.hostWrite e.burst).wf = true) ∧
  (∀ b, s.path.txn = some (.write b) → (Instr.hostWrite b).wf = true) ∧
  (∀ b, s.path.txn = some (.unclassified b) → (Instr.hostRead b).wf = true) ∧ s.arb.runCount ≤ 8

/-- The relation of R81 within a break-in record, with its ranges. -/
def BreakRec.ok (b : BreakRec) : Prop :=
  b.gain ≤ 32768 ∧ b.restore ≤ 32768 ∧
  (b.st = .clear → b.active = none ∧ b.suspended = none ∧ b.gain = 32768) ∧
  (b.st = .settling ∨ b.st = .announcing → b.active.isSome = true) ∧
  (b.st = .restoring → b.active = none ∧ b.suspended = none)

/-- Every break-in record stands in the relation of R81; every channel's duck gain is in range (R57). -/
def BreakInv (s : State) : Prop := (∀ k, (s.brk k).ok) ∧ ∀ c, (s.chan c).defaults.duck ≤ 32768

/-- The clip fence and the channels (R23, R24, R67, R68): it is UP while a channel is live, it is not DOWN while a begin waits,
and no CLIP write is queued while it is UP. -/
def FenceInv (s : State) : Prop :=
  (∀ c, (s.chan c).st.live = true → s.path.fence = .up) ∧
  (∀ c, (s.chan c).waiting.isSome = true → s.path.fence ≠ .down) ∧
  (s.path.fence = .up → ∀ e ∈ s.path.queue, e.kind ≠ .clip)

/-- A section record's loss timer and state (R1, R2, R4): DISABLED exactly where it is not enabled; the deadline is the refresh
time plus the loss timeout in an enabled section that is not LOST, and absent otherwise. -/
def SectionRec.ok (r : SectionRec) : Prop :=
  (r.state = .disabled ↔ r.enabled = false) ∧
  r.deadline = (if r.enabled && r.state != .lost then some (r.refresh + r.lossTimeout * 1000) else none) ∧
  r.transitions ≤ 65535 ∧ 5 ≤ r.lossTimeout ∧ r.lossTimeout ≤ 500

def SectionInv (s : State) : Prop := ∀ k, (s.sec k).ok

/-- The timing record (R43, R44, R47 to R50): a watchdog deadline exactly in LOCKED, a next free-run time exactly in FREE_RUN,
and LOCKED only with a reference. -/
def TimingInv (s : State) : Prop :=
  (s.tracker.watchdog.isSome = true ↔ s.tracker.timing = .locked) ∧
  (s.tracker.nextFree.isSome = true ↔ s.tracker.timing = .freeRun) ∧
  (s.tracker.timing = .locked → s.tracker.reference.isSome = true) ∧
  s.tracker.freeCount ≤ 65535

/-- A line record (R146 to R149, R154): a disabled line is QUIET, the debounce deadline is present exactly in DEBOUNCE, and
only an ACTIVE line is acknowledged. -/
def LineRec.ok (l : LineRec) : Prop :=
  (l.enabled = false → l.state = .quiet) ∧ (l.deadline.isSome = true ↔ l.state = .debounce) ∧
  (l.acked = true → l.state = .active)

def LineInv (s : State) : Prop := ∀ k, (s.line k).ok

/-- The gather pool (R102, R107): at most 32 records, at most one OPEN for a key; while an arrival waits on the pool none is
OPEN for its key and the queue head is not on the memory port. -/
def PoolInv (s : State) : Prop :=
  s.poolUsed ≤ 32 ∧
  s.gather.opens.Pairwise (fun a b => ¬(a.group = b.group ∧ a.pos = b.pos)) ∧
  ∀ a, s.gather.waiting = some a → s.openAt a.group a.pos = none ∧ s.arb.port ≠ some .queueHead

end Sys2Proof.Machine
end

