-- ==== Sys2Proof/Certificates/Slice0/Obligations.lean ====
section
/-! DEFINITION. The statements for the provers. `s` is the state before a command, `t` the state after it. A frame lists the
pieces of state that may differ; every other piece is the same (Sys2Proof/Safety.lean). -/

open Sys2Proof Sys2Proof.Machine

/-! ### The whole machine -/

/-- With a command at the front of the queue, a step carries it out on the state with the queue's rest. With no command waiting, it
takes the first of the part's own steps that is due; with none due, a microsecond of the timebase passes, or nothing while RESET is
low: the model's choice, log entry 2. -/
def Obligations.StepTakesFrontCommand : Prop :=
  (∀ (c : Instr) (s : State) (rest : List Instr),
    step { s with pending := c :: rest } = exec c { s with pending := rest }) ∧
  ∀ s : State, s.pending = [] →
    (∀ c, s.dueCommand = some c → step s = exec c s) ∧
    (s.dueCommand = none → s.inReset = false → step s = .next { s with now := s.now + 1 }) ∧
    (s.inReset = true → step s = .next s)

/-- Every well-formed command answers a next state in every state, and a transaction that is no burst faults. That a command which
cannot occur in the state it meets answers that state unchanged (log entry 1), and the fault (log entry 25), are the model's
choices. -/
def Obligations.CommandsAnswer : Prop :=
  ∀ (c : Instr) (s : State),
    (c.wf = true → ∃ t, exec c s = .next t) ∧ (c.wf = false → exec c s = .fault .malformedBurst)

/-- Each command changes only the pieces of state that `changedBy` lists for it, in every form and whatever state it meets. -/
def Obligations.CommandFrames : Prop :=
  ∀ (c : Instr) (s t : State), exec c s = .next t → Frame (changedBy c) s t

/-- The conditions below hold in the state RESET leaves. -/
def Obligations.ResetMeetsConditions : Prop :=
  MemoryInv State.reset ∧ BreakInv State.reset ∧ FenceInv State.reset ∧ SectionInv State.reset ∧ TimingInv State.reset ∧
    LineInv State.reset ∧ PoolInv State.reset

/-- Every step keeps memory's canonical form, at most 16 writes in the posted-write queue, each queued or held write and each read that
waits for the activation step a burst, and the run count at most 8. -/
def Obligations.StepKeepsMemoryPath : Prop := ∀ s t : State, MemoryInv s → step s = .next t → MemoryInv t

/-- Every step keeps the relation of a break-in record's state to its channels and gain. -/
def Obligations.StepKeepsBreakIns : Prop := ∀ s t : State, BreakInv s → step s = .next t → BreakInv t

/-- Every step keeps the clip fence UP while a channel is live, not DOWN while a begin waits, and free of queued CLIP writes while
UP. -/
def Obligations.StepKeepsClipFence : Prop := ∀ s t : State, FenceInv s → step s = .next t → FenceInv t

/-- Every step keeps each block's deadlines with its states: a section's loss deadline at its refresh time plus its loss timeout
exactly while its timer runs; the timing record's deadlines, and the line records' deadlines, exactly in the states that have
them. -/
def Obligations.StepKeepsDeadlines : Prop :=
  (∀ s t : State, SectionInv s → step s = .next t → SectionInv t) ∧
  ∀ s t : State, TimingInv s ∧ LineInv s → step s = .next t → TimingInv t ∧ LineInv t

/-- Every step keeps at most 32 gather records, at most one OPEN for a key, and none OPEN for the key of an arrival that waits on
the pool. -/
def Obligations.StepKeepsGatherPool : Prop := ∀ s t : State, PoolInv s → step s = .next t → PoolInv t

/-! ### Board -/

/-- RESET sets every block to its reset values and leaves the waiting commands; no byte of memory changes but those of a write
that was on the memory port. The model's choices in it: M and the raw levels stay as last sampled until RESET is released, a
cleared walk is FINISHED, arrivals are not taken, and the report bases are 0 (log entry 3); memory outlives RESET (log entry 4);
the timebase is 0 while RESET is low (log entry 24); the last response and the other fields that are the model's own are none,
empty or 0 (log entry 27). RESET_RELEASE samples M from the straps and the raw levels from the inputs, and starts the timebase. -/
def Obligations.ResetSetsEveryBlock : Prop :=
  (∀ s : State, Memory.wf s.mem = true → ∃ t, exec .reset s = .next t ∧ t.inReset = true ∧ t.now = 0 ∧
    t.pending = s.pending ∧ SameOutside s.portCells s t ∧
    t.path = { memSize := s.path.memSize, regions := Table.fill 40 none, implicit := [], queue := [], fence := .down,
               txn := none, response := none } ∧
    t.arb = { port := none, clip := none, waits := ⟨none, none, none, none, none, none⟩, runCount := 0, passRead := false } ∧
    t.plan = { anchor := none, partState := .awaitAnchor, generation := 0, memErrors := 0, lastError := .none, descr := none,
               change := none, staged := none, out := [] } ∧
    (∀ k, t.sec k = ⟨false, 5, .disabled, 0, none, false, false, 0⟩) ∧
    (∀ p, t.prog p = ⟨false, 0, 64, 0, 0, 0⟩) ∧ t.tracker.reference = none ∧ t.tracker.timing = .stopped ∧
    t.tracker.watchdog = none ∧ t.tracker.nextFree = none ∧ t.tracker.freeCount = 0 ∧
    (∀ c, t.chan c = {
        st := .idle, defaults := ⟨32768, 0, 1, .silence⟩, owner := none, prio := 0, mask := 0, listAddr := 0, repeats := 0
        reqRep := 0, use := ⟨1, 0, .silence⟩, i := 0, startPos := Table.fill 6 0, walk := ⟨0, 0, 0, .finished, false⟩
        endIdx := none, headLine := none, curLine := none, nextLine := none, requested := []
        window := Table.fill 32 ⟨none, .empty, none, 0, [], []⟩, queued := none, pending := [], waiting := none
        underruns := 0, lateReads := 0, saturations := 0, marksPassed := 0, useNo := 0 } ∧ t.armed c = false) ∧
    t.playout.waitOrder = [] ∧ (∀ k, t.brk k = ⟨none, none, 32768, .clear, 0⟩) ∧
    (∀ g, t.grp g = {
        present := false, kind := .select, set := 0, ringLen := 16, uplinkBase := 0, outputBase := 0, closeDelay := 200
        policy := .wait, retryLimit := 1, vote := ⟨0, 0, 0, 0⟩, bands := Table.fill 8 ⟨0, 0, 0, 0⟩, lastWinner := none
        gates := Table.fill 8 ⟨0, Table.fill 24 0⟩, counts := Table.fill 7 0, duplicates := 0, lates := 0 }) ∧
    t.gather.opens = [] ∧ t.gather.results = [] ∧ t.gather.waiting = none ∧ t.gather.taking = false ∧
    (∀ k, t.line k = {
        high := (s.line k).high, enabled := false, activeLow := false, debounce := 1, actions := Table.fill 3 .empty
        state := .quiet, deadline := none, acked := false, request := .none, reqChannel := none }) ∧
    t.report = {
        dirty := 0, lastWritten := 46, mirrorBase := 0, logBase := 0, logLen := 0, attnMask := 0, producer := 0, consumer := 0
        lost := 0, queue := [], tags := [], unconsumed := Table.fill 6 0, header := none, req := .idle, attn := false }) ∧
  ∀ (m : BitVec 2) (levels : BitVec 6) (s : State), s.inReset = true →
    ∃ t, exec (.resetRelease m levels) s = .next t ∧ t.inReset = false ∧ t.now = 0 ∧
      t.path.memSize = 128 * 1024 * 1024 * 2 ^ m.toNat ∧
      (∀ k, t.line k = { s.line k with high := levels.getLsbD k.val }) ∧
      Frame [.resetLine, .timebase, .memorySize, .lines] s t

/-- INPUT_EVENT records the raw level. On a disabled line nothing else changes; on an enabled one, by the line's state: an
activation starts the debounce; a bounce is logged; an unacknowledged line latches; an acknowledged one is withdrawn; a latched
one is ACTIVE again, its BREAKIN requested anew where its request stands at NONE, STOPPED or REFUSED and lines may request. What a
withdrawal and a request do: LineRequestWithdrawn, LineRequestAnswered. The model's choices: a bounce's time counts from the moment
from which the debounce time counts (log entry 43); LINE_BOUNCE, and the records of a repeated request, fall due before LINE_STATE
(log entry 21), and so does the CHANNEL_STATE of a withdrawal (log entry 9). -/
def Obligations.InputChangesLine : Prop :=
  ∀ (k : Fin 6) (high : Bool) (s : State), s.inReset = false → (s.line k).high ≠ high →
    ∃ t, exec (.inputEvent k high) s = .next t ∧ (t.line k).high = high ∧
    (∀ j, j ≠ k → (t.line j).still = (s.line j).still) ∧
    ((s.line k).enabled = false → t.line k = { s.line k with high := high } ∧ (∀ j, j ≠ k → t.line j = s.line j) ∧
      Frame [.lines] s t) ∧
    ((s.line k).enabled = true → (s.line k).state = .quiet → high ≠ (s.line k).activeLow →
      t.line k = { s.line k with high := high, state := .debounce,
                                 deadline := some (s.now + (s.line k).debounce * 1000), acked := false } ∧
      (∀ j, j ≠ k → t.line j = s.line j) ∧
      t.logNow = s.logged [s.record .lineState k.val (w4 0 1 1 (16 * (s.line k).request.code)) 0] ∧
      (s.inForce = true → t.mirrorDue (k.val + 41)) ∧ Frame [.lines, .logQueue, .lostCount] s t) ∧
    (∀ d, (s.line k).enabled = true → (s.line k).state = .debounce → (s.line k).deadline = some d → high = (s.line k).activeLow →
      t.line k = { s.line k with high := high, state := .quiet, deadline := none } ∧
      (∀ j, j ≠ k → t.line j = s.line j) ∧
      t.logNow = s.logged [s.record .lineBounce k.val (wNat (s.now - (d - (s.line k).debounce * 1000))) (wNat (s.line k).debounce),
        s.record .lineState k.val (w4 1 0 1 ((if (s.line k).acked then 1 else 0) + 16 * (s.line k).request.code)) 0] ∧
      Frame [.lines, .logQueue, .lostCount] s t) ∧
    ((s.line k).enabled = true → (s.line k).state = .active → high = (s.line k).activeLow → (s.line k).acked = false →
      t.line k = { s.line k with high := high, state := .latched } ∧ (∀ j, j ≠ k → t.line j = s.line j) ∧
      t.logNow = s.logged [s.record .lineState k.val (w4 2 3 1 (16 * (s.line k).request.code)) 0] ∧
      Frame [.lines, .logQueue, .lostCount] s t) ∧
    ((s.line k).enabled = true → (s.line k).state = .active → high = (s.line k).activeLow → (s.line k).acked = true →
      (t.line k).state = .quiet ∧ (t.line k).acked = false ∧ (t.line k).request = .none ∧ Frame lineParts s t ∧
      ∃ u, u = (s.setLine k { s.line k with high := high }).withdrawLine k ∧ (∀ j, t.line j = u.line j) ∧
        t.logNow = u.logged [s.record .lineState k.val (w4 2 0 1 0) 0] ∧ Frame [.logQueue, .lostCount] u t) ∧
    ((s.line k).enabled = true → (s.line k).state = .latched → high ≠ (s.line k).activeLow →
      (t.line k).state = .active ∧ (t.line k).acked = (s.line k).acked ∧ Frame lineParts s t ∧
      ((s.line k).request = .running ∨ (s.line k).request = .pending ∨ (s.line k).firstBreakin = none ∨ ¬s.linesMayRequest →
        t.line k = { s.line k with high := high, state := .active } ∧ (∀ j, j ≠ k → t.line j = s.line j) ∧
        t.logNow = s.logged [s.record .lineState k.val
          (w4 3 2 1 ((if (s.line k).acked then 1 else 0) + 16 * (s.line k).request.code)) 0] ∧
        Frame [.lines, .logQueue, .lostCount] s t) ∧
      (∀ j, (s.line k).request = .none ∨ (s.line k).request = .stopped ∨ (s.line k).request = .refused →
        (s.line k).firstBreakin = some j → s.linesMayRequest →
        ∃ a u, a.line k = { s.line k with high := high, state := .active } ∧ (∀ i, i ≠ k → a.line i = s.line i) ∧
          Frame [.lines] s a ∧ u = a.requestBreakin k j ∧ (∀ i, t.line i = u.line i) ∧
          t.logNow = u.logged [s.record .lineState k.val
            (w4 3 2 1 ((if (s.line k).acked then 1 else 0) + 16 * (u.line k).request.code)) 0] ∧
          Frame [.logQueue, .lostCount] u t))

/-- DEBOUNCE_EXPIRY makes the line ACTIVE and its actions take effect in entry order: one ACTION_REFUSED for each FORCE_OPEN, FOCUS,
unknown action or further BREAKIN that cannot have effect, and the first BREAKIN requested, where lines may request (what a request
does: LineRequestAnswered). LINE_STATE is the last of the records logged, the model's choice (log entries 9, 21). Where no BREAKIN
is requested the request status stays. -/
def Obligations.DebounceExpiryActivates : Prop :=
  ∀ (k : Fin 6) (d : Nat) (s : State), s.inReset = false → (s.line k).state = .debounce →
    (s.line k).deadline = some d → d ≤ s.now →
    ∃ t, exec (.debounceExpiry k) s = .next t ∧ (t.line k).state = .active ∧ (t.line k).deadline = none ∧
      (t.line k).acked = (s.line k).acked ∧ (∀ i, i ≠ k → (t.line i).still = (s.line i).still) ∧ Frame lineParts s t ∧
      ((s.line k).firstBreakin = none ∨ ¬s.linesMayRequest →
        t.line k = { s.line k with state := .active, deadline := none } ∧ (∀ i, i ≠ k → t.line i = s.line i) ∧
        t.logNow = s.logged (((List.finRange 3).filterMap fun j => s.refusedAction k j) ++
          [s.record .lineState k.val (w4 1 2 2 ((if (s.line k).acked then 1 else 0) + 16 * (s.line k).request.code)) 0]) ∧
        Frame [.lines, .logQueue, .lostCount] s t) ∧
      (∀ j, (s.line k).firstBreakin = some j → s.linesMayRequest →
        ∃ a u, a.line k = { s.line k with state := .active, deadline := none } ∧ (∀ i, i ≠ k → a.line i = s.line i) ∧
          a.logNow = s.logged (((List.finRange 3).filter fun i => decide (i < j)).filterMap fun i => s.refusedAction k i) ∧
          Frame [.lines, .logQueue, .lostCount] s a ∧ u = a.requestBreakin k j ∧ (∀ i, t.line i = u.line i) ∧
          t.logNow = u.logged ((((List.finRange 3).filter fun i => decide (j < i)).filterMap fun i => s.refusedAction k i) ++
            [s.record .lineState k.val (w4 1 2 2 ((if (s.line k).acked then 1 else 0) + 16 * (u.line k).request.code)) 0]) ∧
          Frame [.logQueue, .lostCount] u t)

/-- A line's request for its BREAKIN, and the playout unit's answer. With an argument that is not usable it is REFUSED and
ACTION_REFUSED logged, and nothing else happens; a channel outside 0 to 3 records no request channel (log entry 20). On an idle
channel the use begins, or a begin waits for the clip fence. A current start of lower priority is taken over, or its begin waiting
replaced in its place; a line displaced by it has its request back in the pending set, and a displaced host start whose change
still waits has it answered DONE (the model's choice: log entry 12). Against a current start of equal or higher priority the request
is PENDING. In the other cases it is RUNNING. -/
def Obligations.LineRequestAnswered : Prop :=
  ∀ (k : Fin 6) (j : Fin 3) (ch la prio rep : Nat) (mask : SecSet) (s t : State),
    (s.line k).actions.get j = .breakin ch la mask prio rep → t = s.requestBreakin k j →
    Frame lineParts s t ∧ (∀ i, i ≠ k → (t.line i).still = (s.line i).still) ∧
    (t.line k).still = { (s.line k).still with reqChannel := if h : ch < 4 then some ⟨ch, h⟩ else none } ∧
    (4 ≤ ch ∨ prio = 0 ∨ 7 < prio ∨ la % 64 ≠ 0 ∨ s.path.clipRegion la = none →
      (t.line k).request = .refused ∧ (∀ i, i ≠ k → t.line i = s.line i) ∧
      t.logNow = s.logged [s.record .actionRefused k.val (w4 j.val 1 4 0) (w4 ch prio 0 0)] ∧
      Frame [.lines, .requests, .logQueue, .lostCount] s t) ∧
    ∀ (c : Fin 4) (r : Region) (st : Start), ch = c.val → 1 ≤ prio → prio ≤ 7 → la % 64 = 0 → s.path.clipRegion la = some r →
      st = ⟨.line k, la, mask, prio, rep, false⟩ →
      ((s.chan c).st = .idle → (s.chan c).waiting = none → (t.line k).request = .running ∧
        (∀ i, i ≠ k → t.line i = s.line i) ∧
        (s.path.fence = .up ∨ (s.path.fence = .down ∧ ∀ e ∈ s.path.queue, e.kind ≠ .clip) →
          t.path.fence = .up ∧ s.begins t c st ∧ (t.chan c).queued = (s.chan c).queued ∧
          (t.chan c).pending = (s.chan c).pending ∧
          (s.path.fence = .up ∨ s.playout.waitOrder = [] → (∀ d, d ≠ c → t.chan d = s.chan d) ∧
            (s.unjoined c → s.joinsAs t s.brk c st ∧
              t.logNow = s.logged (s.joinRecords s.brk c st ++ [s.beginRecord c st .idle 1])))) ∧
        (s.path.fence = .raising ∨ (s.path.fence = .down ∧ ∃ e ∈ s.path.queue, e.kind = .clip) →
          t.path.fence = .raising ∧ t.chan c = { s.chan c with waiting := some st } ∧ (∀ d, d ≠ c → t.chan d = s.chan d) ∧
          t.playout.waitOrder = (if c ∈ s.playout.waitOrder then s.playout.waitOrder else s.playout.waitOrder ++ [c]) ∧
          Frame [.lines, .requests, .channels, .startOrder, .fence] s t)) ∧
      ((s.chan c).st.live = true → (s.chan c).prio < prio → (t.line k).request = .running ∧
        s.begins t c st ∧ (t.chan c).queued = (s.chan c).queued ∧ (∀ d, d ≠ c → t.chan d = s.chan d) ∧
        (∀ i, i ≠ k → t.line i =
          if (s.chan c).owner = some (.line i) then { s.line i with request := .pending } else s.line i) ∧
        (∀ i, (s.chan c).owner = some (.line i) → (t.chan c).pending = (s.chan c).pending ++
          [⟨.line i, (s.chan c).listAddr, (s.chan c).mask, (s.chan c).prio, (s.chan c).reqRep, false⟩]) ∧
        ((s.chan c).owner = some .host → (t.chan c).pending = (s.chan c).pending) ∧
        (s.joinedOnce c → s.joinsAs t (s.releasedRec c) c st ∧
          t.logNow = s.logged (s.joinRecords (s.releasedRec c) c st ++ [s.beginRecord c st (s.chan c).st 2]))) ∧
      (∀ w, (s.chan c).st.live = false → (s.chan c).waiting = some w → w.prio < prio → (t.line k).request = .running ∧
        (∀ d, d ≠ c → t.chan d = s.chan d) ∧
        (∀ i, w.owner = .line i → t.chan c = { s.chan c with waiting := some st, pending := (s.chan c).pending ++ [w] } ∧
          (i ≠ k → t.line i = { s.line i with request := .pending }) ∧
          ∀ l, l ≠ k → l ≠ i → t.line l = s.line l) ∧
        (w.owner = .host → t.chan c = { s.chan c with waiting := some st } ∧ (∀ i, i ≠ k → t.line i = s.line i) ∧
          (w.reply = false → Same .change s t) ∧
          (w.reply = true → s.plan.change.isSome = true → t.answered .done 0 0)) ∧
        Frame [.lines, .requests, .channels, .change] s t) ∧
      ((s.chan c).st.live = true ∧ prio ≤ (s.chan c).prio ∨
          (s.chan c).st.live = false ∧ (∃ w, (s.chan c).waiting = some w ∧ prio ≤ w.prio) →
        (t.line k).request = .pending ∧ (∀ i, i ≠ k → t.line i = s.line i) ∧
        t.chan c = { s.chan c with pending := (s.chan c).pending ++ [st] } ∧ (∀ d, d ≠ c → t.chan d = s.chan d) ∧
        Frame [.lines, .requests, .channels] s t)

/-- A line withdrawn: it is QUIET, not acknowledged, its deadline absent, its request NONE. A request that is RUNNING or PENDING is
withdrawn at the playout unit: its live use ends with WITHDRAW, its begin waiting is cancelled without a record, or its start
leaves the pending set. A channel whose use or begin waiting has so come to its end is handed out. Any other request leaves the
channels alone. What a record gone IDLE keeps is the model's choice: log entry 38. -/
def Obligations.LineRequestWithdrawn : Prop :=
  ∀ (k : Fin 6) (s t : State), t = s.withdrawLine k →
    t.line k = { s.line k with state := .quiet, deadline := none, request := .none, acked := false } ∧
    (∀ i, i ≠ k → (t.line i).still = (s.line i).still) ∧ Frame lineParts s t ∧
    ((s.line k).reqChannel = none ∨ ((s.line k).request ≠ .running ∧ (s.line k).request ≠ .pending) →
      (∀ i, i ≠ k → t.line i = s.line i) ∧ Frame [.lines, .requests] s t) ∧
    ∀ c, (s.line k).reqChannel = some c → (s.line k).request = .running ∨ (s.line k).request = .pending →
      ((s.chan c).st.live = true → (s.chan c).owner = some (.line k) →
        ((s.chan c).noStarts → ∃ u, s.ends u c .none ∧ Frame playParts s u ∧
          t.logNow = s.logged [s.record .channelState c.val (w4 (s.chan c).st.code 0 8 15) (wInt (s.chan c).i)] ∧
          (∀ i, i ≠ k → t.line i = u.line i) ∧ (∀ d, t.chan d = u.chan d) ∧
          Frame [.lines, .requests, .logQueue, .lostCount] u t) ∧
        (∀ st, (s.chan c).handsTo st → s.handedOut t c st 8 ∧
          ∀ i, i ≠ k → (t.line i).request = if st.owner = .line i then .running else (s.line i).request)) ∧
      (∀ w, (s.chan c).st.live = false → (s.chan c).waiting = some w → w.owner = .line k →
        ((s.chan c).noStarts → t.chan c = { s.chan c with waiting := none } ∧ (∀ d, d ≠ c → t.chan d = s.chan d) ∧
          t.playout.waitOrder = (s.playout.waitOrder.filter fun d => d != c) ∧ (∀ i, i ≠ k → t.line i = s.line i) ∧
          t.path.fence = (if ∀ d, (t.chan d).st.live = false ∧ (t.chan d).waiting = none then .down else s.path.fence) ∧
          Frame [.lines, .requests, .channels, .startOrder, .fence] s t) ∧
        (∀ st, (s.chan c).handsTo st → s.handedOut t c st 8 ∧
          ∀ i, i ≠ k → (t.line i).request = if st.owner = .line i then .running else (s.line i).request)) ∧
      (((s.chan c).st.live = true → (s.chan c).owner ≠ some (.line k)) →
        (∀ w, (s.chan c).waiting = some w → w.owner ≠ .line k) →
        t.chan c = { s.chan c with pending := (s.chan c).pending.filter fun x => x.owner != .line k } ∧
        (∀ d, d ≠ c → t.chan d = s.chan d) ∧ (∀ i, i ≠ k → t.line i = s.line i) ∧
        Frame [.lines, .requests, .channels] s t)

/-! ### The memory path -/

/-- The classification of an address: beyond memory in every part state; PLAIN without a plan in force; otherwise the kind of the
one region that covers its line, and PLAIN where none does. That PLAN covers the whole of its last line, where the area length ends
within it, is inferred (log entry 16). -/
def Obligations.RegionClassification : Prop :=
  ∀ (s : State) (a : Nat),
    (s.path.memSize ≤ a → s.classify a = .beyondMemory) ∧
    (a < s.path.memSize → s.inForce = false → s.classify a = .plain) ∧
    (a < s.path.memSize → s.inForce = true → (∀ r ∈ s.path.allRegions, a < r.base ∨ r.base + r.size ≤ a / 64 * 64) →
      s.classify a = .plain) ∧
    (∀ r ∈ s.path.allRegions, a < s.path.memSize → s.inForce = true → r.base ≤ a → a / 64 * 64 < r.base + r.size →
      (∀ q ∈ s.path.allRegions, q.base ≤ a → a / 64 * 64 < q.base + q.size → q = r) → s.classify a = r.kind)

/-- HOST_WRITE to a line whose writes are refused is answered ERROR and logged; no byte and no queue slot changes. Any other write
is held while the queue has no slot for it, and otherwise enters at the tail with ACCEPT; in AWAIT_ANCHOR it captures the anchor.
Once the queue has a slot, HELD_WRITE_ACCEPTED classifies a held write again, and refuses or accepts it as a write presented at
that moment would be. While a swap's activation step is due a write is held unclassified, whatever its line: inferred, log entry
44. -/
def Obligations.HostWriteAnswered : Prop :=
  (∀ (b : WriteBurst) (s : State), (Instr.hostWrite b).wf = true → s.portIdle →
    ∃ t, exec (.hostWrite b) s = .next t ∧
    (s.refused (s.classify b.addr) →
      t.path.txn = none ∧ t.path.response = some .error ∧
      t.logNow = s.logged [s.record .writeRefused (s.classify b.addr).code (wNat b.addr)
        (w4 b.words.length (s.classify b.addr).code 0 0)] ∧
      Frame [.response, .logQueue, .lostCount] s t) ∧
    (¬s.refused (s.classify b.addr) → s.noSlot →
      t.path.txn = some (.write b) ∧ t.path.response = none ∧ Frame [.transaction, .response] s t) ∧
    (¬s.refused (s.classify b.addr) → ¬s.noSlot →
      t.path.txn = none ∧ t.path.response = some .accept ∧
      (∃ e, t.path.queue = s.path.queue ++ [e] ∧ e.burst = b ∧ e.kind = s.classify b.addr ∧
        (e.watchChange = true ↔ s.plan.partState ≠ .awaitAnchor ∧ (b.fullWordAt s.anchorAddr).isSome = true) ∧
        (e.watchConsumer = true ↔ s.inForce = true ∧ (b.fullWordAt (s.anchorAddr + 64)).isSome = true)) ∧
      (s.plan.partState = .awaitAnchor → t.plan.anchor = some (b.addr / 4096 * 4096) ∧ t.plan.partState = .anchored) ∧
      (s.plan.partState ≠ .awaitAnchor → t.plan.anchor = s.plan.anchor ∧ t.plan.partState = s.plan.partState) ∧
      Frame [.response, .queue, .anchor, .partState] s t)) ∧
  (∀ (b : WriteBurst) (s : State), (Instr.hostWrite b).wf = true → s.inReset = false → s.path.txn = none → s.installDue →
    ∃ t, exec (.hostWrite b) s = .next t ∧ t.path.txn = some (.write b) ∧ t.path.response = none ∧
      Frame [.transaction, .response] s t) ∧
  ∀ (b : WriteBurst) (s : State), (Instr.hostWrite b).wf = true → s.inReset = false → s.path.txn = some (.write b) →
    ¬s.noSlot →
    ∃ t, exec .heldWriteAccepted s = .next t ∧ exec (.hostWrite b) { s with path := { s.path with txn := none } } = .next t ∧
      t.path.txn = none ∧
      (s.refused (s.classify b.addr) → t.path.response = some .error) ∧
      (¬s.refused (s.classify b.addr) → t.path.response = some .accept) ∧
      Frame [.transaction, .response, .queue, .anchor, .partState, .logQueue, .lostCount] s t

/-- HOST_READ beyond memory is answered ERROR without a burst. A read of a kind that is passed waits for the memory port with its
own address; so does an OUTPUT read outside RUNNING. While a swap's activation step is due a read waits unclassified, whatever its
line: inferred, log entry 44. -/
def Obligations.HostReadPassed : Prop :=
  (∀ (b : ReadBurst) (s : State), (Instr.hostRead b).wf = true → s.inReset = false → s.path.txn = none → s.installDue →
    ∃ t, exec (.hostRead b) s = .next t ∧ t.path.txn = some (.unclassified b) ∧ t.path.response = none ∧
      Frame [.transaction, .response] s t) ∧
  ∀ (b : ReadBurst) (s : State), (Instr.hostRead b).wf = true → s.portIdle →
    ∃ t, exec (.hostRead b) s = .next t ∧
    (s.classify b.addr = .beyondMemory → t.path.txn = none ∧ t.path.response = some .error ∧ Frame [.response] s t) ∧
    (s.classify b.addr ≠ .beyondMemory → (∀ p, s.classify b.addr ≠ .view p) →
      (∀ g, s.classify b.addr = .output g → s.plan.partState ≠ .running) →
      t.path.txn.map Txn.still =
        some (.read ⟨b, s.classify b.addr, b.addr, none, decide (s.plan.partState = .running), .waiting⟩) ∧
      t.path.response = none ∧ Frame [.transaction, .response] s t)

/-- HOST_READ of a VIEW line: the section, position, line, frames and remapped address of the view formula, for every offset
within the region. The remapped burst keeps its word offset and lies in the same line of the ring block. -/
def Obligations.ViewReadTranslated : Prop :=
  ∀ (b : ReadBurst) (p : Fin 6) (s : State), (Instr.hostRead b).wf = true → s.portIdle →
    s.classify b.addr = .view p → s.path.baseOf (.view p) ≤ b.addr →
    b.addr < s.path.baseOf (.view p) + 24 * (s.prog p).ringLen * 192 →
    s.path.baseOf (.view p) % 64 = 0 → (s.prog p).base % 64 = 0 →
    ∃ (t : State) (o blk n r : Nat) (k : Fin 24) (a : Nat), exec (.hostRead b) s = .next t ∧
      o = b.addr - s.path.baseOf (.view p) ∧ blk = o / 192 ∧ k.val = blk / (s.prog p).ringLen ∧
      n = blk % (s.prog p).ringLen ∧ n < (s.prog p).ringLen ∧ r = o % 192 ∧ a = (s.prog p).base + n * 192 + r ∧
      r % 64 / 4 = b.addr / 4 % 16 ∧ a / 4 % 16 = b.addr / 4 % 16 ∧ (a - (s.prog p).base) / 192 = n ∧
      (a - (s.prog p).base) % 192 / 64 = r / 64 ∧
      t.path.txn.map Txn.still = some (.read ⟨b, .view p, a,
        some ⟨k, p, n, r / 64, (List.range b.len).map fun i => 16 * (r / 64) + (b.addr / 4 + i) % 16⟩,
        decide (s.plan.partState = .running), .waiting⟩) ∧
      t.path.response = none ∧ Frame [.transaction, .response] s t

/-- HOST_READ of an OUTPUT position whose gather is OPEN, in RUNNING: under WAIT it is answered RETRY until the retry limit, where
the gather closes as RETRY_LIMIT and the read is held; under ON_READ the gather closes as ON_READ and the read is held. A held
read awaits every result of its key that is still to be written. -/
def Obligations.OutputReadOfOpenGather : Prop :=
  ∀ (b : ReadBurst) (g : Fin 12) (ga : Gather) (s : State), (Instr.hostRead b).wf = true → s.portIdle →
    s.plan.partState = .running → s.classify b.addr = .output g →
    s.openAt g ((b.addr - (s.grp g).outputBase) / 64) = some ga →
    ∃ t, exec (.hostRead b) s = .next t ∧
    ((s.grp g).policy = .wait → ga.retries + 1 ≠ (s.grp g).retryLimit →
      t.path.txn = none ∧ t.path.response = some .retry ∧
      t.openAt g ga.pos = some { ga with retries := ga.retries + 1 } ∧
      (∀ x ∈ s.gather.opens, x.hasKey g ga.pos = false → x ∈ t.gather.opens) ∧ Frame [.response, .opens] s t) ∧
    ((s.grp g).policy = .wait → ga.retries + 1 = (s.grp g).retryLimit →
      ClosedAs s t { ga with retries := ga.retries + 1 } .retryLimit ∧
      t.path.txn.map Txn.still = some (.read ⟨b, .output g, b.addr, none, true, .held g ga.pos (t.closingCount g ga.pos)⟩) ∧
      t.path.response = none ∧
      Frame [.transaction, .response, .opens, .results, .groups, .logQueue, .lostCount] s t) ∧
    ((s.grp g).policy = .onRead →
      ClosedAs s t ga .onRead ∧
      t.path.txn.map Txn.still = some (.read ⟨b, .output g, b.addr, none, true, .held g ga.pos (t.closingCount g ga.pos)⟩) ∧
      t.path.response = none ∧ Frame [.transaction, .response, .opens, .results, .groups] s t)

/-- HOST_READ of an OUTPUT position with no OPEN gather, in RUNNING: held while results of its key are still to be written,
otherwise passed. OUTPUT_READ_RELEASED lets a held read that awaits no more wait for the memory port. -/
def Obligations.OutputReadHeldOrPassed : Prop :=
  (∀ (b : ReadBurst) (g : Fin 12) (s : State), (Instr.hostRead b).wf = true → s.portIdle →
    s.plan.partState = .running → s.classify b.addr = .output g →
    s.openAt g ((b.addr - (s.grp g).outputBase) / 64) = none →
    ∃ t, exec (.hostRead b) s = .next t ∧ t.path.response = none ∧ Frame [.transaction, .response] s t ∧
      t.path.txn.map Txn.still = some (.read ⟨b, .output g, b.addr, none, true,
        if s.closingCount g ((b.addr - (s.grp g).outputBase) / 64) = 0 then .waiting
        else .held g ((b.addr - (s.grp g).outputBase) / 64)
          (s.closingCount g ((b.addr - (s.grp g).outputBase) / 64))⟩)) ∧
  (∀ (r : ReadTxn) (g : Fin 12) (n : Nat) (s : State), s.inReset = false → s.path.txn = some (.read r) →
    r.phase = .held g n 0 →
    ∃ t, exec .outputReadReleased s = .next t ∧ t.path.txn.map Txn.still = some (.read { r with phase := .waiting }) ∧
      Frame [.transaction] s t)

/-! ### Taken writes -/

/-- WRITE_TAKEN, whatever the kind: the burst's enabled bytes are in memory and no other byte has changed, or none has after an
error, which is counted; the slot frees, unless the write's own arrival waits on the pool. That an error leaves memory as it was
is the model's choice: log entry 5. After a write of a kind that no block watches, covering no watched word, nothing follows but
the slot and the record of an error. -/
def Obligations.WriteTakenReachesMemory : Prop :=
  (∀ (err : Bool) (e : QEntry) (rest : List QEntry) (s : State), s.takes e rest → Memory.wf s.mem = true →
    (Instr.hostWrite e.burst).wf = true →
    ∃ t, exec (.writeTaken err) s = .next t ∧ Stored err e.burst.cells s t ∧ t.plan.memErrors = s.errorsAfter err ∧
      (t.gather.waiting = none → t.path.queue = rest) ∧
      (∀ a, t.gather.waiting = some a → t.path.queue = e :: rest ∧ e.kind = .uplink a.group) ∧
      Frame (changedBy (.writeTaken err)) s t) ∧
  ∀ (err : Bool) (e : QEntry) (rest : List QEntry) (s : State), s.takes e rest → e.kind.plainLike → e.unwatched →
    ∃ t, exec (.writeTaken err) s = .next t ∧ t.path.queue = rest ∧ t.logNow = s.logged (s.lostRecords e err) ∧
      Frame plainWriteParts s t

/-- WRITE_TAKEN of a PROGRAMME write: one that covers the last word of its block is a head advance, whatever its byte enables; any
other changes nothing in the tracker. The head advance of a programme that is not the reference changes its own record only. -/
def Obligations.ProgrammeWriteAdvancesHead : Prop :=
  ∀ (err : Bool) (e : QEntry) (rest : List QEntry) (p : Fin 6) (s : State), s.takes e rest → e.kind = .programme p →
    e.unwatched →
    ∃ t, exec (.writeTaken err) s = .next t ∧ t.path.queue = rest ∧
    (¬((e.burst.addr - (s.prog p).base) % 192 / 64 = 2 ∧ (31 - e.burst.addr / 4 % 16) % 16 < e.burst.words.length) →
      t.logNow = s.logged (s.lostRecords e err) ∧ Frame plainWriteParts s t) ∧
    ((e.burst.addr - (s.prog p).base) % 192 / 64 = 2 → (31 - e.burst.addr / 4 % 16) % 16 < e.burst.words.length →
      t.prog p = { s.prog p with head := (e.burst.addr - (s.prog p).base) / 192, gen := ((s.prog p).gen + 1) % 65536,
                                 lastAdvance := s.now } ∧
      (∀ q, q ≠ p → t.prog q = s.prog q) ∧
      (s.tracker.reference ≠ some p →
        t.logNow = s.logged (s.lostRecords e err) ∧ Frame (.programmes :: plainWriteParts) s t))

/-- In LOCKED, a head advance of the reference produces a block-time event at the moment its write is taken, and moves the
watchdog deadline 4000 µs on; head advances of other programmes leave the timing record alone; no next free-run time is set, and
FREE_RUN_TIME does nothing. -/
def Obligations.LockedAdvanceDrivesBlockTime : Prop :=
  (∀ (err : Bool) (e : QEntry) (rest : List QEntry) (p : Fin 6) (s : State), s.takes e rest → e.kind = .programme p →
    (e.burst.addr - (s.prog p).base) % 192 / 64 = 2 → (31 - e.burst.addr / 4 % 16) % 16 < e.burst.words.length →
    s.tracker.timing = .locked →
    ∃ t, exec (.writeTaken err) s = .next t ∧
      (s.tracker.reference = some p →
        t.tracker.timing = .locked ∧ t.tracker.watchdog = some (s.now + 4000) ∧
        t.tracker.nextFree = s.tracker.nextFree ∧ t.tracker.freeCount = s.tracker.freeCount ∧
        ∃ u, Frame [.memory, .memErrors, .logQueue, .lostCount, .programmes] s u ∧ u.tracker.progs = t.tracker.progs ∧
          (e.unwatched → Frame [.timing, .queue] u.blockTime t) ∧
          Frame [.timing, .queue, .change, .logQueue, .lostCount, .draws, .logIndices, .classCounts, .attn] u.blockTime t) ∧
      (s.tracker.reference ≠ some p → Same .timing s t)) ∧
  ∀ s : State, TimingInv s → s.tracker.timing = .locked → s.tracker.nextFree = none ∧ exec .freeRunTime s = .next s

/-- WRITE_TAKEN of an UPLINK write for section k, at the section supervisor: a DISABLED section's record stays; any other is
refreshed, its flags follow a band report, it is revived or moved, and a move is counted. Other sections stay. -/
def Obligations.UplinkWriteHeard : Prop :=
  ∀ (err : Bool) (e : QEntry) (rest : List QEntry) (g : Fin 12) (k : Fin 24) (s : State), s.takes e rest →
    e.kind = .uplink g → (e.burst.addr - (s.grp g).uplinkBase) / 64 / (s.grp g).ringLen = k.val →
    ∃ t, exec (.writeTaken err) s = .next t ∧ (∀ j, j ≠ k → t.sec j = s.sec j) ∧
      ((s.sec k).state = .disabled → t.sec k = s.sec k) ∧
      ((s.sec k).state ≠ .disabled →
        t.sec k = (s.sec k).hears s.now
          (if e.burst.fullLine = true ∧ (s.grp g).kind = .rank then
            some (uplinkFlag e.burst.lineBytes 0, uplinkFlag e.burst.lineBytes 1) else none))

/-- WRITE_TAKEN of an UPLINK write at the gather engine: no arrival while arrivals are not taken, none of a partial line, which is
logged, and none of a full line from a section outside the group or DISABLED; any other is decided with its section already heard.
The order WRITE_LOST, SECTION_STATE, PARTIAL_UPLINK of the records is the model's choice (log entry 9). -/
def Obligations.UplinkWriteArrives : Prop :=
  ∀ (err : Bool) (e : QEntry) (rest : List QEntry) (g : Fin 12) (k : Fin 24) (n : Nat) (s : State), s.takes e rest →
    e.kind = .uplink g → e.unwatched → (e.burst.addr - (s.grp g).uplinkBase) / 64 / (s.grp g).ringLen = k.val →
    (e.burst.addr - (s.grp g).uplinkBase) / 64 % (s.grp g).ringLen = n →
    ∃ t report, exec (.writeTaken err) s = .next t ∧
      report = (if e.burst.fullLine = true ∧ (s.grp g).kind = .rank then
        some (uplinkFlag e.burst.lineBytes 0, uplinkFlag e.burst.lineBytes 1) else none) ∧
      (s.gather.taking = false ∨ (e.burst.fullLine = true ∧ (has (s.grp g).set k = false ∨ (s.sec k).state = .disabled)) →
        t.logNow = s.logged (s.lostRecords e err ++ s.heardRecords k report) ∧
        Frame (.sections :: plainWriteParts) s t) ∧
      (s.gather.taking = true → e.burst.fullLine = false →
        t.logNow = s.logged (s.lostRecords e err ++ s.heardRecords k report ++ [s.record .partialUplink g.val
          (w4 k.val e.burst.words.length (n % 256) (n / 256)) (wNat e.burst.addr)]) ∧
        Frame (.sections :: plainWriteParts) s t) ∧
      (s.gather.taking = true → e.burst.fullLine = true → has (s.grp g).set k = true → (s.sec k).state ≠ .disabled →
        ∃ u, Frame [.memory, .memErrors, .logQueue, .lostCount, .sections] s u ∧
          u.sec k = (s.sec k).hears s.now report ∧
          u.logNow = s.logged (s.lostRecords e err ++ s.heardRecords k report) ∧
          Frame [.queue] (u.arrive ⟨k, g, n, field e.burst.lineBytes 0 2, e.burst.lineBytes⟩) t)

/-- WRITE_TAKEN of a write that covers change word 0 with all enables: kind NONE is no request; with no change in progress one is
created in ARGUMENTS and the read of the change record is made ready; otherwise CHANGE_COLLISION is logged and the change in
progress stays. The order WRITE_LOST, CHANGE_COLLISION of the records is the model's choice (log entry 9). -/
def Obligations.ChangeWordTaken : Prop :=
  ∀ (err : Bool) (e : QEntry) (rest : List QEntry) (w : Word) (s : State), s.takes e rest → e.kind.plainLike →
    e.watchChange = true → e.watchConsumer = false → e.burst.fullWordAt s.anchorAddr = some w →
    ∃ t, exec (.writeTaken err) s = .next t ∧ t.path.queue = rest ∧
      (w.toNat % 256 = 0 → t.logNow = s.logged (s.lostRecords e err) ∧ Frame plainWriteParts s t) ∧
      (w.toNat % 256 ≠ 0 → s.plan.change = none →
        (∃ c, t.plan.change = some c ∧ c.kind = w.toNat % 256 ∧ c.word0 = w ∧ c.stage = .arguments) ∧
        t.planHas .argRead ∧ t.logNow = s.logged (s.lostRecords e err) ∧ Frame (.change :: plainWriteParts) s t) ∧
      (∀ c, w.toNat % 256 ≠ 0 → s.plan.change = some c →
        t.logNow = s.logged (s.lostRecords e err ++
          [s.record .changeCollision c.kind (w4 (w.toNat % 256) c.stage.code 0 0) 0]) ∧ Frame plainWriteParts s t)

/-- WRITE_TAKEN of a write that covers the log consumer index with all enables: the index is taken modulo the log length, each
class's unconsumed count falls by the slots of that class that the index passes, and ATTN follows the counts. For a count that
would fall below 0 the manual gives no value (log entry 8), and the statement none. -/
def Obligations.ConsumerIndexTaken : Prop :=
  ∀ (err : Bool) (e : QEntry) (rest : List QEntry) (w : Word) (s : State), s.takes e rest → e.kind.plainLike →
    e.watchChange = false → e.watchConsumer = true → e.burst.fullWordAt (s.anchorAddr + 64) = some w →
    (∀ c : AttnClass, ((slotsPassed s.report.logLen s.report.consumer (w.toNat % s.report.logLen)).filter
      fun j => tagAt s.report.tags j = some c).length ≤ s.report.unconsumed.get c.bit) →
    ∃ t, exec (.writeTaken err) s = .next t ∧ t.path.queue = rest ∧
      t.report.consumer = w.toNat % s.report.logLen ∧ t.report.producer = s.report.producer ∧
      (∀ c : AttnClass, t.report.unconsumed.get c.bit = s.report.unconsumed.get c.bit -
        ((slotsPassed s.report.logLen s.report.consumer (w.toNat % s.report.logLen)).filter
          fun j => tagAt s.report.tags j = some c).length) ∧
      (t.report.attn = true ↔ ∃ c : Fin 6, s.report.attnMask.getLsbD c.val = true ∧ 0 < t.report.unconsumed.get c) ∧
      t.logNow = s.logged (s.lostRecords e err) ∧
      Frame (.logIndices :: .classCounts :: .attn :: plainWriteParts) s t

/-! ### The gather engine -/

/-- An arrival whose key has an OPEN record, or a CLOSING record with its sequence: DUPLICATE and LATE are counted and change no
gather; a new contributor joins, and the gather closes as COMPLETE when its contributors cover the expected set; another sequence
closes the OPEN gather as SUPERSEDED before a new one is to open; with no OPEN record and no CLOSING record of its sequence it is
to open one. -/
def Obligations.ArrivalMeetsItsKey : Prop :=
  ∀ (a : Arrival) (s : State),
    (∀ ga, s.openAt a.group a.pos = some ga → ga.seq = a.seq → has ga.contributors a.sec = true →
      (s.arrive a).grp a.group = { s.grp a.group with duplicates := min ((s.grp a.group).duplicates + 1) 65535 } ∧
      (∀ g, g ≠ a.group → (s.arrive a).grp g = s.grp g) ∧ Frame [.groups] s (s.arrive a)) ∧
    (s.openAt a.group a.pos = none → (∃ ga ∈ s.gather.results, ga.group = a.group ∧ ga.pos = a.pos ∧ ga.seq = a.seq) →
      (s.arrive a).grp a.group = { s.grp a.group with lates := min ((s.grp a.group).lates + 1) 65535 } ∧
      (∀ g, g ≠ a.group → (s.arrive a).grp g = s.grp g) ∧ Frame [.groups] s (s.arrive a)) ∧
    (∀ ga, s.openAt a.group a.pos = some ga → ga.seq = a.seq → has ga.contributors a.sec = false →
      (s.joinedRecord ga a.sec a.line).contributors = ga.contributors ||| single a.sec ∧
      ((∀ k, has (s.grp a.group).set k = true → (s.sec k).state.eligible = true → k = a.sec ∨ has ga.contributors k = true) →
        ClosedAs s (s.arrive a) (s.joinedRecord ga a.sec a.line) .complete ∧ Frame closeParts s (s.arrive a)) ∧
      (∀ k, has (s.grp a.group).set k = true → (s.sec k).state.eligible = true → k ≠ a.sec → has ga.contributors k = false →
        (s.arrive a).openAt a.group a.pos = some (s.joinedRecord ga a.sec a.line) ∧ Frame [.opens] s (s.arrive a))) ∧
    (∀ ga, s.openAt a.group a.pos = some ga → ga.seq ≠ a.seq →
      ∃ u, ClosedAs s u ga .superseded ∧ Frame closeParts s u ∧ s.arrive a = u.openOrWait a) ∧
    (s.openAt a.group a.pos = none → (∀ ga ∈ s.gather.results, ga.group = a.group → ga.pos = a.pos → ga.seq ≠ a.seq) →
      s.arrive a = s.openOrWait a)

/-- An arrival that must open a gather. In a free record it opens with its first arrival now and its deadline a close delay on,
and its section joins it; where no other section is expected it closes as COMPLETE at once. With all 32 records in use it waits on
the pool, and the OPEN gather with the earliest first arrival, then the lower group, then the lower position, closes as EVICTED.
-/
def Obligations.ArrivalOpensOrWaits : Prop :=
  ∀ (a : Arrival) (s : State) (new : Gather), s.openAt a.group a.pos = none →
    new = s.joinedRecord ⟨a.group, a.pos, a.seq, s.now, some (s.now + (s.grp a.group).closeDelay), 0, 0, none, [],
      ⟨none, 0, 0, zeros 48, 0, 0⟩, []⟩ a.sec a.line →
    (s.poolUsed < 32 →
      (∀ k, has (s.grp a.group).set k = true → (s.sec k).state.eligible = true → k ≠ a.sec →
        (s.openOrWait a).gather.opens = s.gather.opens ++ [new] ∧ Frame [.opens] s (s.openOrWait a)) ∧
      ((∀ k, has (s.grp a.group).set k = true → (s.sec k).state.eligible = true → k = a.sec) →
        ClosedAs s (s.openOrWait a) new .complete ∧ Frame closeParts s (s.openOrWait a))) ∧
    (32 ≤ s.poolUsed →
      (s.openOrWait a).gather.waiting = some a ∧ Frame gatherParts s (s.openOrWait a) ∧
      (s.gather.opens = [] → Frame [.arrival] s (s.openOrWait a)) ∧
      (s.gather.opens ≠ [] → ∃ ga ∈ s.gather.opens, ClosedAs s (s.openOrWait a) ga .evicted ∧
        ∀ x ∈ s.gather.opens, ga.firstArrival < x.firstArrival ∨ (ga.firstArrival = x.firstArrival ∧
          (ga.group < x.group ∨ (ga.group = x.group ∧ ga.pos ≤ x.pos)))))

/-- POOL_RECORD_GIVEN: the wait ends and the queue moves on; the gather opens if the section is still in the group's set and not
DISABLED, and otherwise nothing more happens. GATHER_DEADLINE closes the OPEN gather of its key as DEADLINE. -/
def Obligations.PoolRecordAndDeadline : Prop :=
  (∀ (a : Arrival) (s : State), s.inReset = false → s.gather.waiting = some a → s.poolUsed < 32 →
    ∃ t u, exec .poolRecordGiven s = .next t ∧ Frame [.arrival, .queue] s u ∧ u.gather.waiting = none ∧
      u.path.queue = s.path.queue.tail ∧
      (has (s.grp a.group).set a.sec = true → (s.sec a.sec).state ≠ .disabled → Frame [] (u.openOrWait a) t) ∧
      (has (s.grp a.group).set a.sec = false ∨ (s.sec a.sec).state = .disabled → Frame [] u t)) ∧
  (∀ (g : Fin 12) (n d : Nat) (ga : Gather) (s : State), s.inReset = false → s.openAt g n = some ga →
    ga.deadline = some d → d ≤ s.now →
    ∃ t, exec (.gatherDeadline g n) s = .next t ∧ ClosedAs s t ga .deadline ∧
      (s.inForce = true → t.mirrorDue (g.val + 29)) ∧ Frame [.groups, .opens, .results] s t)

/-- RESULT_WRITE_COMPLETE: the result line is in its slot, the record leaves the pool, and a held read of its key awaits one write
less, any other transaction stays; an error is counted and logged. That an error leaves memory as it was is the model's choice:
log entry 5. -/
def Obligations.ResultWriteFreesRecord : Prop :=
  ∀ (err : Bool) (ga : Gather) (rest : List Gather) (s : State), s.inReset = false → s.arb.port = some .result →
    s.gather.results = ga :: rest → Memory.wf s.mem = true →
    ∃ t, exec (.resultWriteComplete err) s = .next t ∧
      Stored err (cellsFrom ((s.grp ga.group).outputBase + ga.pos * 64) ga.result) s t ∧ t.gather.results = rest ∧
      t.plan.memErrors = s.errorsAfter err ∧
      t.logNow = s.logged (s.errorRecords .result ((s.grp ga.group).outputBase + ga.pos * 64) (w2 ga.group.val ga.pos) err) ∧
      (∀ r c, s.path.txn = some (.read r) → r.phase = .held ga.group ga.pos c →
        t.path.txn.map Txn.still = some (.read { r with phase := .held ga.group ga.pos (c - 1) })) ∧
      ((∀ r c, s.path.txn = some (.read r) → r.phase ≠ .held ga.group ga.pos c) → Same .transaction s t) ∧
      Frame (.memory :: .results :: .transaction :: errorParts) s t

/-! ### Voting and gating -/

/-- A block that joins a SELECT gather: its metric is the sum of the terms of the voting chapter clamped to 0 to 1593, the focus
bonus being the largest of the FOCUS actions in force that name the group and the section, 0 where none does; it is counted, and as
an eligible block it becomes the best candidate when its metric is larger, or equal from a lower section. A band report that joins
a RANK gather is stored with its eight band codes and its two flags. Either join adds the section to the contributors and changes
nothing else of the gather. -/
def Obligations.BlockScoredAtJoin : Prop :=
  (∀ (ga : Gather) (k : Fin 24) (line : List Byte) (s : State) (m focus : Nat), (s.grp ga.group).kind = .select →
    (∀ (l : Fin 6) (j : Fin 3) (mask : SecSet) (bonus : Nat), (s.line l).state = .active ∨ (s.line l).state = .latched →
      (s.line l).actions.get j = .focus ga.group.val mask bonus → has mask k = true → bonus ≤ focus) →
    (focus = 0 ∨ ∃ (l : Fin 6) (j : Fin 3) (mask : SecSet), ((s.line l).state = .active ∨ (s.line l).state = .latched) ∧
      (s.line l).actions.get j = .focus ga.group.val mask focus ∧ has mask k = true) →
    (m : Int) = max 0 (min 1593 (4 * (field line 4 1 : Int)
      - (s.grp ga.group).vote.errorWeight * field line 5 1
      + (if (field line 3 1).testBit 1 then ((s.grp ga.group).vote.crcBonus : Int) else 0)
      + (if (s.grp ga.group).lastWinner = some k then ((s.grp ga.group).vote.hysteresis : Int) else 0)
      + focus
      - (if (s.sec k).state = .degraded then ((s.grp ga.group).vote.penalty : Int) else 0))) →
    ∃ v, s.joinedRecord ga k line = { ga with contributors := ga.contributors ||| single k, vote := v } ∧
      v.candidates = ga.vote.candidates + 1 ∧
      ((field line 3 1).testBit 0 = false → v = { ga.vote with candidates := ga.vote.candidates + 1 }) ∧
      ((field line 3 1).testBit 0 = true → v.eligible = ga.vote.eligible + 1 ∧
        (ga.vote.best = none ∨ (∃ b, ga.vote.best = some b ∧ (ga.vote.metric < m ∨ (ga.vote.metric = m ∧ k < b))) →
          v.best = some k ∧ v.metric = m ∧ v.timeslot = field line 2 1 % 4 ∧ v.payload = (line.drop 16).take 48) ∧
        (∀ b, ga.vote.best = some b → m < ga.vote.metric ∨ (ga.vote.metric = m ∧ b ≤ k) →
          v.best = some b ∧ v.metric = ga.vote.metric ∧ v.timeslot = ga.vote.timeslot ∧ v.payload = ga.vote.payload))) ∧
  ∀ (ga : Gather) (k : Fin 24) (line : List Byte) (s : State), (s.grp ga.group).kind = .rank →
    s.joinedRecord ga k line = { ga with
      contributors := ga.contributors ||| single k
      reports := ga.reports ++
        [⟨k, (line.drop 8).take 8, (field line 3 1).testBit 0, (field line 3 1).testBit 1⟩] }

/-- A close of a RANK gather in one band: the want and hold of each candidate by the table of the gating chapter. A section is
forced when an action in force names it and it is neither LOST nor DISABLED; a wanter is a candidate that wants its gate and is
not forced. A section is opened exactly when it is forced, or is a wanter with fewer wanters before it than the budget the forced
ones leave; a wanter is denied exactly when it is not opened. Wanters stand healthy first, then by power, then the lower section.
The gate state becomes the opened sections and the holds of the table. -/
def Obligations.GatesFollowTheTable : Prop :=
  ∀ (ga : Gather) (b : Fin 8) (s : State) (p : BandParams) (hold : Table Nat 24), (s.grp ga.group).bands.get b = p →
    ((s.grp ga.group).gates.get b).hold = hold →
    (∀ k, ga.power b k = (match ga.reportOf k with | some r => (r.codes.getD b.val 0).toNat | none => 0)) ∧
    (∀ k, s.isCandidate ga.group k = (has (s.grp ga.group).set k && (s.sec k).state.eligible)) ∧
    (∀ k, s.isCandidate ga.group k = false → s.want ga b k = (false, 0)) ∧
    (∀ k, s.isCandidate ga.group k = true → has ga.contributors k = true → p.tOpen ≤ ga.power b k →
      s.want ga b k = (true, p.hold)) ∧
    (∀ k, s.isCandidate ga.group k = true → has ga.contributors k = true → ga.power b k < p.tOpen →
      has ((s.grp ga.group).gates.get b).isOpen k = true → p.tClose ≤ ga.power b k → s.want ga b k = (true, p.hold)) ∧
    (∀ k, s.isCandidate ga.group k = true →
      (has ga.contributors k = false ∨ (ga.power b k < p.tOpen ∧
        (has ((s.grp ga.group).gates.get b).isOpen k = false ∨ ga.power b k < p.tClose))) →
      s.want ga b k = (decide (0 < hold.get k), hold.get k - 1)) ∧
    (∀ k, has (s.gateMap ga b).forced k = true ↔ (s.sec k).state.eligible = true ∧
      ∃ (l : Fin 6) (j : Fin 3) (bands : BandSet) (mask : SecSet), ((s.line l).state = .active ∨ (s.line l).state = .latched) ∧
        (s.line l).actions.get j = .forceOpen ga.group.val bands mask ∧ bands.getLsbD b.val = true ∧ has mask k = true) ∧
    (∃ wanters degraded : SecSet,
      (∀ k, has wanters k = true ↔ (s.want ga b k).1 = true ∧ has (s.gateMap ga b).forced k = false) ∧
      (∀ k, has degraded k = true ↔ (s.sec k).state = .degraded ∨
        ∃ r, ga.reportOf k = some r ∧ (r.feederFault = true ∨ r.unitAlarm = true)) ∧
      (∀ k, has (s.gateMap ga b).opened k = true ↔ has (s.gateMap ga b).forced k = true ∨ (has wanters k = true ∧
        ((List.finRange 24).filter fun j => has wanters j && decide (outranks degraded (ga.power b) j k)).length <
          p.budget - card (s.gateMap ga b).forced)) ∧
      (∀ k, has (s.gateMap ga b).denied k = true ↔ has wanters k = true ∧ has (s.gateMap ga b).opened k = false)) ∧
    card (s.gateMap ga b).opened ≤ max p.budget (card (s.gateMap ga b).forced) ∧
    (s.gateAfter ga b).isOpen = (s.gateMap ga b).opened ∧ ∀ k, (s.gateAfter ga b).hold.get k = (s.want ga b k).2

/-- What the part writes (chapter 12). A result line: sequence, close status, contributor count and mask, expected count; in a
SELECT group the winner, 255 for none, the eligible count, the winner's timeslot, metric and payload; in a RANK group the gate code
of each section in each band: 2 FORCED, 1 OPEN, 3 DENIED, 0 CLOSED. A mirror record, in the order part, sections, channels, groups,
lines: its owner's fields, and the capture time in milliseconds at offset 60. A log record: kind, subject, time and two words of
detail. Reserved bytes are zero. That the error bytes of the part's mirror record are zero without a plan error is inferred (log
entry 28). -/
def Obligations.WrittenLinesHold : Prop :=
  (∀ (ga : Gather) (st : CloseStatus) (s : State) (l : List Byte), l = s.resultLine ga st →
    l.length = 64 ∧ field l 0 2 = ga.seq % 65536 ∧
    field l 2 1 = (match st with
      | .complete => 1 | .deadline => 2 | .superseded => 3 | .evicted => 4 | .retryLimit => 5 | .onRead => 6 | .flushed => 7) ∧
    field l 3 1 = ((List.finRange 24).filter fun k => has ga.contributors k).length ∧
    field l 4 3 = ga.contributors.toNat ∧
    field l 7 1 = ((List.finRange 24).filter fun k => has (s.grp ga.group).set k &&
      ((s.sec k).state = .unseen || (s.sec k).state = .online || (s.sec k).state = .degraded)).length ∧
    ((s.grp ga.group).kind = .select →
      field l 8 1 = (match ga.vote.best with | some k => k.val | none => 255) ∧ field l 9 1 = ga.vote.eligible % 256 ∧
      field l 10 1 = ga.vote.timeslot % 256 ∧ field l 11 1 = 0 ∧ field l 12 2 = ga.vote.metric % 65536 ∧ field l 14 2 = 0 ∧
      (ga.vote.payload.length = 48 → l.drop 16 = ga.vote.payload)) ∧
    ((s.grp ga.group).kind = .rank → field l 8 8 = 0 ∧
      ∀ (b : Fin 8) (k : Fin 24), field l (16 + 6 * b.val) 6 / 4 ^ k.val % 4 =
        if has (s.gateMap ga b).forced k then 2 else if has (s.gateMap ga b).opened k then 1
        else if has (s.gateMap ga b).denied k then 3 else 0)) ∧
  (∀ (m : Nat) (s : State) (l : List Byte), l = s.mirrorBytes m → m < 47 →
    l.length = 64 ∧ field l 60 4 = s.now / 1000 % 4294967296 ∧
    (m = 0 → field l 0 1 = s.plan.partState.code ∧ field l 1 1 = 0 ∧ field l 2 2 = s.plan.generation % 65536 ∧
      field l 6 2 = s.plan.memErrors % 65536 ∧ (l.drop 12).take 48 = List.replicate 48 0 ∧
      (s.plan.lastError = .none → field l 4 1 = 0 ∧ field l 5 1 = 0 ∧ field l 8 4 = 0) ∧
      (∀ c e, s.plan.lastError = .check c e → field l 4 1 = c.code ∧ field l 5 1 = e % 256 ∧ field l 8 4 = 0) ∧
      (∀ off, s.plan.lastError = .fetch off → field l 4 1 = 13 ∧ field l 5 1 = 255 ∧ field l 8 4 = off % 4294967296)) ∧
    (∀ k : Fin 24, m = 1 + k.val → field l 0 1 = (s.sec k).state.code ∧
      field l 1 1 = (if (s.sec k).feederFault then 1 else 0) + (if (s.sec k).unitAlarm then 2 else 0) ∧
      field l 2 2 = (s.sec k).transitions % 65536 ∧
      field l 4 1 = (match (s.brk k).active with | some c => c.val | none => 255) ∧
      field l 5 1 = (match (s.brk k).suspended with | some c => c.val | none => 255) ∧ field l 6 1 = (s.brk k).st.code ∧
      field l 7 1 = 0 ∧ field l 8 2 = (s.brk k).gain % 65536 ∧ (l.drop 10).take 50 = List.replicate 50 0) ∧
    (∀ c : Fin 4, m = 25 + c.val → field l 0 1 = (s.chan c).st.code ∧
      field l 1 1 = (match (s.chan c).owner with | some (.line k) => k.val | some .host => 6 | none => 15) ∧
      field l 2 1 = (s.chan c).prio % 256 ∧ field l 3 1 = (s.chan c).repeats % 256 ∧
      field l 4 2 = (s.chan c).walk.entry % 65536 ∧ field l 6 2 = 0 ∧ field l 8 4 = ((s.chan c).i % 4294967296).toNat ∧
      field l 12 2 = (s.chan c).underruns % 65536 ∧ field l 14 2 = (s.chan c).lateReads % 65536 ∧
      field l 16 2 = (s.chan c).saturations % 65536 ∧ field l 18 2 = (s.chan c).marksPassed % 65536 ∧
      (l.drop 20).take 40 = List.replicate 40 0) ∧
    (∀ g : Fin 12, m = 29 + g.val → field l 0 1 = (s.gather.opens.filter fun x => x.group = g).length % 256 ∧
      field l 1 1 = (match (s.grp g).lastWinner with | some k => k.val | none => 255) ∧
      (∀ x : Fin 7, field l (2 * (x.val + 1)) 2 = (s.grp g).counts.get x % 65536) ∧
      field l 16 2 = (s.grp g).duplicates % 65536 ∧ field l 18 2 = (s.grp g).lates % 65536 ∧
      (l.drop 20).take 40 = List.replicate 40 0) ∧
    (∀ k : Fin 6, m = 41 + k.val → field l 0 1 = (s.line k).state.code ∧
      field l 1 1 = (if (s.line k).acked then 1 else 0) ∧ field l 2 1 = (s.line k).request.code ∧
      (l.drop 3).take 57 = List.replicate 57 0)) ∧
  (∀ e : LogRec, e.bytes.length = 16 ∧ field e.bytes 0 1 = e.kind.code ∧ field e.bytes 1 1 = 0 ∧
    field e.bytes 2 2 = e.subject % 65536 ∧ field e.bytes 4 4 = e.time % 4294967296 ∧ field e.bytes 8 4 = e.d1.toNat ∧
    field e.bytes 12 4 = e.d2.toNat) ∧
  [PartState.awaitAnchor, .anchored, .running, .halted].map PartState.code = [0, 1, 2, 3] ∧
  [SectionState.unseen, .online, .degraded, .lost, .disabled].map SectionState.code = [0, 1, 2, 3, 4] ∧
  [BreakState.clear, .settling, .announcing, .restoring].map BreakState.code = [0, 1, 2, 3] ∧
  [ChanState.idle, .priming, .playing, .held].map ChanState.code = [0, 1, 2, 3] ∧
  [LineState.quiet, .debounce, .active, .latched].map LineState.code = [0, 1, 2, 3] ∧
  [ReqStatus.none, .running, .pending, .stopped, .refused].map ReqStatus.code = [0, 1, 2, 3, 4]

/-! ### Served reads -/

/-- READ_SERVED: after an error the read is answered ERROR, counted and logged with the address issued. A read that no mixing
concerns returns the words of memory unchanged: no VIEW, a DISABLED section, a section it sees in CLEAR, or a VIEW read that was
not both classified and served in RUNNING (log entry 15, read from R41). What a view read sees is the state at its service; at the
moment of a block-time event of the timebase it is that state, or the event taken at the playout unit with the joins and releases
of its channels' begins and ends, or every section's gain step taken, or the whole event, which is left open (log entry 40). -/
def Obligations.ReadServedUnmixed : Prop :=
  (∀ s : State,
    (s.eventDue = true ↔ (s.tracker.timing = .locked ∧ ∃ d, s.tracker.watchdog = some d ∧ d ≤ s.now) ∨
      (s.tracker.timing = .freeRun ∧ ∃ d, s.tracker.nextFree = some d ∧ d ≤ s.now)) ∧
    (s.eventDue = false → s.sight = s) ∧
    (s.eventDue = true → ∃ z, s.sight = { s with playout := z.playout, mixer := z.mixer } ∧
      (z = s ∨ z = (List.finRange 4).foldl advanceChan s ∨
        (Frame [.breakIns] s z ∧ ∀ k, z.brk k = (stepSection s k).brk k) ∨ z = { s with free := s.free + 1 }.blockTime))) ∧
  ∀ (r : ReadTxn) (s : State), s.serves r →
    (∃ t, exec (.readServed true) s = .next t ∧ t.path.txn = none ∧ t.path.response = some .error ∧
      t.plan.memErrors = s.errorsAfter true ∧ t.logNow = s.logged (s.errorRecords .pass r.memAddr 0 true) ∧
      Frame (.transaction :: .response :: errorParts) s t) ∧
    ((∀ v, r.view = some v → r.mixed = false ∨ s.plan.partState ≠ .running ∨ (s.sec v.sec).state = .disabled ∨
        (s.sight.brk v.sec).st = .clear) →
      ∃ t, exec (.readServed false) s = .next t ∧ t.path.txn = none ∧
        t.path.response = some (.data (Memory.burst s.mem r.memAddr r.burst.len)) ∧
        (s.eventDue = false → t.free = s.free) ∧ Frame [.draws, .transaction, .response] s t)

/-- For a section that the read sees in SETTLING or RESTORING (what it sees: log entry 40) each half-sample x becomes
floor((x × g + 16384) / 32768), in burst order; the result stays in range without a clamp, and no channel's slot, counter or miss
state is consulted or changed. -/
def Obligations.GainOnlyRead : Prop :=
  ∀ (r : ReadTxn) (v : ViewRead) (b : BreakRec) (s : State), s.serves r → r.view = some v → r.mixed = true → s.plan.partState = .running →
    (s.sec v.sec).state ≠ .disabled → s.sight.brk v.sec = b → b.st = .settling ∨ b.st = .restoring →
    b.gain ≤ 32768 →
    ∃ t ys, exec (.readServed false) s = .next t ∧ t.path.txn = none ∧ t.path.response = some (.data ys) ∧
      ys.length = r.burst.len ∧
      (∀ i x, i < r.burst.len → x = (Memory.burst s.mem r.memAddr r.burst.len).getD i 0 →
        leftOf (ys.getD i 0) = (leftOf x * b.gain + 16384) / 32768 ∧
        rightOf (ys.getD i 0) = (rightOf x * b.gain + 16384) / 32768 ∧
        -32768 ≤ (leftOf x * b.gain + 16384) / 32768 ∧ (leftOf x * b.gain + 16384) / 32768 ≤ 32767 ∧
        -32768 ≤ (rightOf x * b.gain + 16384) / 32768 ∧
        (rightOf x * b.gain + 16384) / 32768 ≤ 32767) ∧
      (s.eventDue = false → t.free = s.free) ∧ Frame [.draws, .transaction, .response] s t

/-- READ_SERVED for a section that the read sees in ANNOUNCING, from the one state it sees (log entry 40): silence below index 0
and in a SILENT slot; the READY slot's frames at the announcement gain, a clamp counted once and the miss state ARMED; a miss,
late or unready, counted, served by the underrun policy, and logged where the miss state was ARMED. Nothing else of the channel
changes, and nothing of another channel. -/
def Obligations.AnnouncedRead : Prop :=
  ∀ (r : ReadTxn) (v : ViewRead) (c : Fin 4) (ch : Chan) (sl : Slot) (u : Int) (g : Nat) (xs : List Word) (s z : State),
    z = s.sight → s.serves r → r.view = some v → r.mixed = true → s.plan.partState = .running → (s.sec v.sec).state ≠ .disabled →
    (z.brk v.sec).st = .announcing → (z.brk v.sec).active = some c → (z.brk v.sec).gain = g → z.chan c = ch →
    u = annIndexOf v.pos (ch.startPos.get v.prog) (s.prog v.prog).ringLen ch.i →
    ch.window.get ⟨(u % 32).toNat, by omega⟩ = sl → xs = Memory.burst s.mem r.memAddr r.burst.len →
    v.frames.length = r.burst.len →
    ∃ t ys, exec (.readServed false) s = .next t ∧ t.path.txn = none ∧ t.path.response = some (.data ys) ∧
      (s.eventDue = false → t.free = s.free) ∧
      (∀ d, d ≠ c → (t.chan d).still = (s.chan d).still ∧ t.armed d = s.armed d) ∧
      (u < 0 ∨ (ch.i - 8 ≤ u ∧ sl.st = .silent) → MixedTo g 0 xs [] ys ∧ Frame [.draws, .transaction, .response] s t) ∧
      (0 ≤ u → ch.i - 8 ≤ u → sl.st = .ready →
        MixedTo g ch.use.ann xs (v.frames.map sl.frame) ys ∧ t.armed c = true ∧
        (t.chan c).still = { (s.chan c).still with
          saturations := (if anyClipped g ch.use.ann xs (v.frames.map sl.frame) then min ((s.chan c).saturations + 1) 65535
            else (s.chan c).saturations) } ∧
        Frame [.draws, .transaction, .response, .channels, .missStates] s t) ∧
      (0 ≤ u → u < ch.i - 8 →
        (ch.use.policy = .silence → MixedTo g 0 xs [] ys) ∧ (ch.use.policy = .pass → ys = xs) ∧
        (t.chan c).still = { (s.chan c).still with lateReads := min ((s.chan c).lateReads + 1) 65535 } ∧ t.armed c = false ∧
        (z.armed c = false → t.logNow = s.logNow) ∧
        (z.armed c = true → ∃ d, t.logNow = s.logged [s.record .underrun c.val d (wInt ch.i)] ∧
          d.toNat = ((u - ch.i) % 65536).toNat + 65536 * v.sec.val + 16777216) ∧
        Frame [.draws, .transaction, .response, .channels, .missStates, .logQueue, .lostCount] s t) ∧
      (0 ≤ u → ch.i - 8 ≤ u → sl.st = .empty ∨ sl.st = .fetching ∨ sl.st = .bad →
        (ch.use.policy = .silence → MixedTo g 0 xs [] ys) ∧ (ch.use.policy = .pass → ys = xs) ∧
        (t.chan c).still = { (s.chan c).still with underruns := min ((s.chan c).underruns + 1) 65535 } ∧ t.armed c = false ∧
        (z.armed c = false → t.logNow = s.logNow) ∧
        (z.armed c = true → ∃ d, t.logNow = s.logged [s.record .underrun c.val d (wInt ch.i)] ∧
          d.toNat = ((u - ch.i) % 65536).toNat + 65536 * v.sec.val + 16777216 * (2 + 16 * sl.st.code)) ∧
        Frame [.draws, .transaction, .response, .channels, .missStates, .logQueue, .lostCount] s t)

/-! ### Joins, and block time at the sections and the channels -/

/-- A join of a channel with its priority (R84, R85): the sections of the mask that are not DISABLED are decided, each on its own
record, and no other changes; a section without an active channel, or with one of lower priority, takes the channel as active, the
lower one suspended; beneath a higher active channel it is suspended where the slot is empty or held lower; in any other case
nothing changes. A channel dropped from a suspended slot and a refusal are logged, in ascending order of section. -/
def Obligations.JoinTakesSections : Prop :=
  ∀ (c : Fin 4) (mask : SecSet) (prio : Nat) (s t : State), t = s.join c mask prio →
    (∀ k, has mask k = false ∨ (s.sec k).state = .disabled → t.brk k = s.brk k) ∧
    (∀ k, has mask k = true → (s.sec k).state ≠ .disabled →
      ((s.brk k).active = none → t.brk k = { s.brk k with active := some c, st := .settling }) ∧
      (∀ a, (s.brk k).active = some a → (s.chan a).prio < prio →
        t.brk k = { s.brk k with active := some c, suspended := some a, st := .settling }) ∧
      (∀ a, (s.brk k).active = some a → prio < (s.chan a).prio →
        (∀ e, (s.brk k).suspended = some e → (s.chan e).prio < prio) → t.brk k = { s.brk k with suspended := some c }) ∧
      (∀ a, (s.brk k).active = some a → prio = (s.chan a).prio ∨
        (prio < (s.chan a).prio ∧ ∃ e, (s.brk k).suspended = some e ∧ prio ≤ (s.chan e).prio) → t.brk k = s.brk k) ∧
      (s.inForce = true → t.brk k ≠ s.brk k → t.mirrorDue (k.val + 1))) ∧
    t.armed c = false ∧ (∀ d, d ≠ c → t.armed d = s.armed d) ∧
    (∃ logs : Fin 24 → List LogRec,
      t.logNow = s.logged ((List.finRange 24).flatMap logs) ∧
      (∀ k, has mask k = false ∨ (s.sec k).state = .disabled ∨ (s.brk k).active = none → logs k = []) ∧
      (∀ k a, has mask k = true → (s.sec k).state ≠ .disabled → (s.brk k).active = some a →
        ((s.chan a).prio < prio ∨ (prio < (s.chan a).prio ∧ ∀ e, (s.brk k).suspended = some e → (s.chan e).prio < prio) →
          ((s.brk k).suspended = none → logs k = []) ∧
          (∀ e, (s.brk k).suspended = some e →
            logs k = [s.record .sectionDropped k.val (w4 e.val (s.chan e).prio c.val prio) 0])) ∧
        (prio = (s.chan a).prio ∨ (prio < (s.chan a).prio ∧ ∃ e, (s.brk k).suspended = some e ∧ prio ≤ (s.chan e).prio) →
          logs k = [s.record .sectionRefused k.val (w4 c.val prio a.val (s.chan a).prio)
            (match (s.brk k).suspended with | some e => w4 e.val (s.chan e).prio 0 0 | none => w4 255 0 0 0)]))) ∧
    Frame mixParts s t

/-- A block-time event at the sections. Where no channel's use ends at the event, every section takes exactly one step; where one
channel's use ends and nothing begins on it, every section takes its step before or after the release, and either is correct (R91,
log entry 7). The step: ANNOUNCING compares its gain with the target and, where they differ, becomes SETTLING with the gain
unmoved; RESTORING adds its restore step up to 32768, where it becomes CLEAR; CLEAR is not changed; SETTLING moves toward the
active channel's duck gain by the channel's step without passing it, and at the target becomes ANNOUNCING. The step is ceil((32768
- d) / R), 1 for a duck gain of 32768; a ramp down and a restore take at most R events. -/
def Obligations.BlockTimeStepsSections : Prop :=
  (∀ s : State, (∀ c, (s.blockTime.chan c).useNo = (s.chan c).useNo) → ∀ k, s.blockTime.brk k = (stepSection s k).brk k) ∧
  (∀ (s : State) (c : Fin 4), (s.chan c).noStarts → (s.blockTime.chan c).useNo ≠ (s.chan c).useNo →
    (∀ d, d ≠ c → (s.blockTime.chan d).useNo = (s.chan d).useNo) →
    ∀ k, s.blockTime.brk k = (stepSection s k).releasedRec c k ∨ s.blockTime.brk k = (stepSection (s.release c) k).brk k) ∧
  (∀ (s : State) (c : Fin 4), (∀ k, (s.release c).brk k = s.releasedRec c k) ∧ Frame [.breakIns] s (s.release c)) ∧
  (∀ (k : Fin 24) (s : State),
    (∀ c, (s.brk k).st = .announcing → (s.brk k).active = some c →
      (stepSection s k).brk k =
        (if (s.brk k).gain = (s.chan c).defaults.duck then s.brk k else { s.brk k with st := .settling })) ∧
    ((s.brk k).st = .restoring →
      (stepSection s k).brk k = { s.brk k with
        gain := min 32768 ((s.brk k).gain + (s.brk k).restore)
        st := if min 32768 ((s.brk k).gain + (s.brk k).restore) = 32768 then .clear else .restoring }) ∧
    ((s.brk k).st = .clear → (stepSection s k).brk k = s.brk k) ∧
    (∀ (c : Fin 4) (d step g : Nat), (s.brk k).st = .settling → (s.brk k).active = some c →
      d = (s.chan c).defaults.duck → d ≤ 32768 → 1 ≤ (s.chan c).use.ramp →
      step = (if d = 32768 then 1 else (32768 - d + (s.chan c).use.ramp - 1) / (s.chan c).use.ramp) → g = (s.brk k).gain →
      (stepSection s k).brk k =
        (let g' := if d < g then max d (g - step) else min d (g + step)
         { s.brk k with gain := g', st := if g' = d then .announcing else .settling })) ∧
    (∀ j, j ≠ k → (stepSection s k).brk j = s.brk j) ∧ Frame [.breakIns] s (stepSection s k)) ∧
  ∀ d ramp : Nat, d ≤ 32768 → 1 ≤ ramp →
    (∃ n, n ≤ ramp ∧ (fun g => max d (g - rampStep d ramp))^[n] 32768 = d) ∧
    ∃ n, n ≤ ramp ∧ (fun g => min 32768 (g + rampStep d ramp))^[n] d = 32768

/-- A block-time event at a channel (R71). A channel that is not live is not advanced. A live one ends with cause END where its
play index cannot go on. Otherwise the play index goes on by one, the slot of the index that leaves the window takes the one that
enters, the markers of the index passed act in walk order, and then the channel ends at its end index, or is PLAYING at index 0
after PRIMING, and its walk goes on. State.blockTime does this to every channel whose use, if it ends, is followed by no other
start. The values that a record gone IDLE keeps are the model's choice (log entry 38), and so is that the waiting walk goes on
last, after the markers and the end check (log entry 42). -/
def Obligations.BlockTimeAdvancesChannels : Prop :=
  ∀ (c : Fin 4) (s a : State), a = advanceChan s c →
    ((s.chan c).waiting = none → (s.chan c).noStarts ∨ (a.chan c).useNo = (s.chan c).useNo →
      s.blockTime.chan c = a.chan c) ∧
    ((s.chan c).st.live = false → a = s) ∧
    ((s.chan c).st.live = true → 2147483647 ≤ (s.chan c).i → (s.chan c).noStarts →
      s.ends a c .stopped ∧ Frame playParts s a ∧
      a.logNow = s.logged [s.record .channelState c.val (w4 (s.chan c).st.code 0 6 15) (wInt (s.chan c).i)]) ∧
    ((s.chan c).st.live = true → (s.chan c).i < 2147483647 →
      ∃ u ms, ms = ((s.chan c).slot (s.chan c).i).marks ∧
        u.chan c = { s.chan c with
          i := (s.chan c).i + 1
          window := (s.chan c).window.set ⟨(((s.chan c).i + 24) % 32).toNat, by omega⟩
            ⟨some ((s.chan c).i + 24),
             if (s.chan c).i + 24 < 0 ∨
                ((s.chan c).walk.st = .finished ∧ ∃ e, (s.chan c).endIdx = some e ∧ e ≤ (s.chan c).i + 24) ∨
                ((s.chan c).walk.st = .stopped ∧ (s.chan c).walk.next ≤ (s.chan c).i + 24) then .silent else .empty,
             none, 0, [], []⟩
          marksPassed := (fun n => min (n + 1) 65535)^[(ms.filter fun m => m != .hold).length] (s.chan c).marksPassed
          st := if .hold ∈ ms then .held else (s.chan c).st } ∧
        (∀ d, d ≠ c → u.chan d = s.chan d) ∧ Frame [.channels, .logQueue, .lostCount] s u ∧
        u.logNow = s.logged (s.markRecords c ((s.chan c).i + 1) (s.chan c).st ms) ∧
        ((s.chan c).endIdx = some ((s.chan c).i + 1) → (s.chan c).noStarts →
          u.ends a c .stopped ∧ Frame playParts u a ∧
          a.logNow = u.logged [s.record .channelState c.val (w4 (u.chan c).st.code 0 6 15) (wInt ((s.chan c).i + 1))]) ∧
        ((s.chan c).endIdx ≠ some ((s.chan c).i + 1) → (u.chan c).st = .priming → (s.chan c).i + 1 = 0 →
          ∃ v, v.chan c = { u.chan c with st := .playing } ∧ (∀ d, d ≠ c → v.chan d = s.chan d) ∧
            Frame [.channels, .logQueue, .lostCount] u v ∧
            v.logNow = u.logged [s.record .channelState c.val
              (w4 1 2 3 (ownerCode (s.chan c).owner + 16 * (s.chan c).prio)) (wInt 0)] ∧ a = v.walk c) ∧
        ((s.chan c).endIdx ≠ some ((s.chan c).i + 1) → ¬((u.chan c).st = .priming ∧ (s.chan c).i + 1 = 0) → a = u.walk c))

/-! ### The timebase -/

/-- LOSS_TIMER_EXPIRY: the section is LOST with its deadline absent and its flags kept; the move is counted and logged; every OPEN
gather that expected it and is now covered closes as COMPLETE, in ascending order of group and position, and no other does; then
its gates are closed with hold 0 in every RANK group, and nothing else of the groups changes. -/
def Obligations.LossTimerExpiry : Prop :=
  ∀ (k : Fin 24) (d : Nat) (s : State), s.inReset = false → (s.sec k).deadline = some d → d ≤ s.now → PoolInv s →
    ∃ t, exec (.lossTimerExpiry k) s = .next t ∧
      t.sec k = { s.sec k with state := .lost, deadline := none, transitions := min ((s.sec k).transitions + 1) 65535 } ∧
      (∀ j, j ≠ k → t.sec j = s.sec j) ∧
      t.logNow = s.logged [s.record .sectionState k.val (w4 (s.sec k).state.code 3 1 0)
        (w2 (min ((s.sec k).transitions + 1) 65535) 0)] ∧
      (∀ ga, ga ∈ t.gather.opens ↔ ga ∈ s.gather.opens ∧
        ¬(has (s.grp ga.group).set k = true ∧
          ∀ j, j ≠ k → has (s.grp ga.group).set j = true → (s.sec j).state.eligible = true → has ga.contributors j = true)) ∧
      s.completedWithout t k ∧
      (∀ g b, (s.grp g).kind = .rank →
        has ((t.grp g).gates.get b).isOpen k = false ∧ ((t.grp g).gates.get b).hold.get k = 0) ∧
      (s.inForce = true → (s.sec k).state ≠ .lost → t.mirrorDue (k.val + 1)) ∧ Frame (.sections :: closeParts) s t

/-- WATCHDOG_EXPIRY loses the reference: FREE_RUN, REFERENCE_LOST, one block-time event, free-run count 1 and the next free-run
time 1000 µs on. FREE_RUN_TIME: one block-time event, the count one more, the next time 1000 µs on. In FREE_RUN, a head advance of
the reference regains it: REFERENCE_REGAINED with the head after the advance and the free-run count, LOCKED with no next free-run
time, one block-time event, and the watchdog deadline 4000 µs on. How REFERENCE_LOST rounds the last advance time (log entry 36),
and that WRITE_LOST falls due before REFERENCE_REGAINED (log entry 9), are the model's choices. -/
def Obligations.FreeRunTiming : Prop :=
  (∀ (p : Fin 6) (d : Nat) (s : State), s.inReset = false → s.tracker.timing = .locked → s.tracker.watchdog = some d →
    d ≤ s.now → s.tracker.reference = some p →
    ∃ t u, exec .watchdogExpiry s = .next t ∧ Frame [.timing, .logQueue, .lostCount] s u ∧ Frame [.timing] u.blockTime t ∧
      u.logNow = s.logged [s.record .referenceLost p.val (w2 (s.prog p).head (s.prog p).gen)
        (wNat ((s.prog p).lastAdvance / 1000))] ∧
      t.tracker.timing = .freeRun ∧ t.tracker.watchdog = none ∧ t.tracker.freeCount = 1 ∧
      t.tracker.nextFree = some (s.now + 1000) ∧ t.tracker.reference = some p) ∧
  (∀ (d : Nat) (s : State), s.inReset = false → s.tracker.timing = .freeRun → s.tracker.nextFree = some d → d ≤ s.now →
    ∃ t, exec .freeRunTime s = .next t ∧ Frame [.timing] s.blockTime t ∧ t.tracker.timing = .freeRun ∧
      t.tracker.freeCount = min (s.tracker.freeCount + 1) 65535 ∧ t.tracker.nextFree = some (d + 1000) ∧
      t.tracker.reference = s.tracker.reference ∧ t.tracker.watchdog = s.tracker.watchdog) ∧
  (∀ (err : Bool) (e : QEntry) (rest : List QEntry) (p : Fin 6) (s : State), s.takes e rest → e.kind = .programme p →
      e.unwatched →
      (e.burst.addr - (s.prog p).base) % 192 / 64 = 2 → (31 - e.burst.addr / 4 % 16) % 16 < e.burst.words.length →
      s.tracker.timing = .freeRun → s.tracker.reference = some p →
      ∃ t u, exec (.writeTaken err) s = .next t ∧
        Frame [.memory, .memErrors, .logQueue, .lostCount, .programmes, .timing] s u ∧ Frame [.timing, .queue] u.blockTime t ∧
        u.prog p = { s.prog p with head := (e.burst.addr - (s.prog p).base) / 192, gen := ((s.prog p).gen + 1) % 65536,
                                   lastAdvance := s.now } ∧
        u.logNow = s.logged (s.lostRecords e err ++ [s.record .referenceRegained p.val
          (w2 ((e.burst.addr - (s.prog p).base) / 192) (((s.prog p).gen + 1) % 65536)) (w2 s.tracker.freeCount 0)]) ∧
        t.tracker.reference = some p ∧ t.tracker.timing = .locked ∧ t.tracker.nextFree = none ∧
        t.tracker.watchdog = some (s.now + 4000) ∧ t.tracker.freeCount = s.tracker.freeCount)

/-! ### Playout -/

/-- CLIP_FENCE_UP: with no CLIP write queued the fence is UP, every begin waiting begins with its channel's defaults copied and
aligned to the heads of this moment, and channels with none stay. A section that only one of the starts names is joined by it; a
single start's join records and CHANNEL_STATE are logged. -/
def Obligations.FenceUpBeginsWaiting : Prop :=
  ∀ s : State, s.inReset = false → s.path.fence = .raising → (∀ e ∈ s.path.queue, e.kind ≠ .clip) →
    ∃ t, exec .clipFenceUp s = .next t ∧ t.path.fence = .up ∧ t.playout.waitOrder = [] ∧
      (∀ c st, c ∈ s.playout.waitOrder → (s.chan c).waiting = some st →
        s.begins t c st ∧ (st.reply = true → s.plan.change.isSome = true → t.stage = some .writingBack) ∧
        (∀ k, (∀ d ∈ s.playout.waitOrder, (s.chan d).waiting.isSome = true →
            (s.brk k).active ≠ some d ∧ (s.brk k).suspended ≠ some d) →
          (∀ d ∈ s.playout.waitOrder, ∀ x, d ≠ c → (s.chan d).waiting = some x → has x.mask k = false) →
          t.brk k = if has st.mask k && (s.sec k).state != .disabled then s.joinRec (s.brk k) c st.prio else s.brk k) ∧
        (s.playout.waitOrder = [c] → s.unjoined c →
          t.logNow = s.logged (s.joinRecords s.brk c st ++ [s.beginRecord c st .idle 1]))) ∧
      (∀ c, c ∉ s.playout.waitOrder ∨ (s.chan c).waiting = none → (t.chan c).still = (s.chan c).still) ∧
      Frame playParts s t

/-- CLIP_BLOCK_LINE_COMPLETE and LIST_LINE_READ_COMPLETE. An error is counted and logged. A line for a use that is over changes no
channel. A block line goes to the slot that fetches its index, READY at the third line and BAD on an error; a list line goes to
the list buffer, and the walk goes on from there. -/
def Obligations.ClipLinesComplete : Prop :=
  ∀ (err : Bool) (f : ClipFetch) (s : State), s.inReset = false → s.arb.port = some (.clip f) →
    (∀ x j, f.what = .block x j →
      ∃ t, exec (.clipBlockLineComplete err) s = .next t ∧ t.plan.memErrors = s.errorsAfter err ∧
        t.logNow = s.logged (s.errorRecords .clip f.addr (w2 (f.ch.val + 256) (x % 65536).toNat) err) ∧
        ((s.chan f.ch).st.live = false ∨ (s.chan f.ch).useNo ≠ f.useNo ∨
            ((s.chan f.ch).slot x).idx ≠ some x ∨ ((s.chan f.ch).slot x).st ≠ .fetching → Frame errorParts s t) ∧
        ((s.chan f.ch).st.live = true → (s.chan f.ch).useNo = f.useNo → ((s.chan f.ch).slot x).idx = some x →
          ((s.chan f.ch).slot x).st = .fetching →
          (err = true → ((t.chan f.ch).slot x).st = .bad) ∧
          (err = false → ((t.chan f.ch).slot x).lines =
            ((s.chan f.ch).slot x).lines ++ [Memory.bytes s.mem f.addr 64]) ∧
          (err = false → ((s.chan f.ch).slot x).lines.length = 2 → ((t.chan f.ch).slot x).st = .ready) ∧
          (∀ sl, (s.chan f.ch).slot x = sl → (t.chan f.ch).still = { s.chan f.ch with
            window := (s.chan f.ch).window.set ⟨(x % 32).toNat, by omega⟩
              (if err then { sl with st := .bad, lines := [] }
               else { sl with lines := sl.lines ++ [Memory.bytes s.mem f.addr 64]
                              st := if sl.lines.length = 2 then .ready else .fetching }) }.still) ∧
          (∀ c, c ≠ f.ch → (t.chan c).still = (s.chan c).still) ∧
          Frame (.channels :: errorParts) s t)) ∧
    (∀ k, f.what = .list k →
      ∃ t, exec (.listLineReadComplete err) s = .next t ∧
        ((s.chan f.ch).st.live = false ∨ (s.chan f.ch).useNo ≠ f.useNo →
          t.plan.memErrors = s.errorsAfter err ∧ t.logNow = s.logged (s.errorRecords .clip f.addr (w4 f.ch.val 0 0 0) err) ∧
          Frame errorParts s t) ∧
        ((s.chan f.ch).st.live = true → (s.chan f.ch).useNo = f.useNo →
          ∃ u, Frame (.channels :: errorParts) s u ∧ u.plan.memErrors = s.errorsAfter err ∧
            u.logNow = s.logged (s.errorRecords .clip f.addr (w4 f.ch.val 0 0 0) err) ∧
            (∀ c, c ≠ f.ch → u.chan c = s.chan c) ∧
            u.chan f.ch = (let line := some (⟨k, if err then none else some (Memory.bytes s.mem f.addr 64)⟩ : ListLine)
              if k = 0 then { s.chan f.ch with headLine := line }
              else if (s.chan f.ch).walk.entry / 4 = k then { s.chan f.ch with curLine := line }
              else { s.chan f.ch with nextLine := line }) ∧
            Frame [] (u.walk f.ch) t))

/-- The list walk (R59 to R62), from the entry under the current entry, `e`. It stands still while the channel is not live, the
walk not RUNNING or the window full, and while the line it needs is still to come. A missing entry is a list error, and past entry
255 is NO_END before any other (log entry 19). CLIP assigns one block to the next index, its source in the index's slot, and goes
to the next entry after its last block; MARK attaches to the index below the next, or acts at once where that index is passed;
HOLD attaches likewise and stops the walk, the slots beyond it that play has not passed and that have no block SILENT (log entry
10); END restarts the list while repeats are left and something was assigned, and otherwise is final. An entry of the next line makes that line current and
requests the one after it (log entry 11); past entry 255 the current entry is 256 (log entry 39). A list error is logged and ends
the channel (in this order: log entry 21), whose record keeps some last values (log entry 38). -/
def Obligations.ListWalk : Prop :=
  ∀ (c : Fin 4) (s : State) (ch : Chan) (k e : Nat) (n : Int), s.chan c = ch → ch.walk.entry = e → ch.walk.next = n → k = e / 4 →
    (ch.st.live = false ∨ ch.walk.st ≠ .running ∨ ch.i + 23 < n → s.walk c = s) ∧
    (ch.noStarts → ∀ r, s.ends (s.listError c r) c .stopped ∧ Frame playParts s (s.listError c r) ∧
      (s.listError c r).logNow = s.logged [s.record .listError c.val (w2 (r.code + 256 * ch.repeats) e) 0,
        s.record .channelState c.val (w4 ch.st.code 0 9 15) (wInt ch.i)]) ∧
    (e = 255 ∨ (e < 256 ∧ e % 4 ≠ 3) →
      (s.nextEntry c).chan c = { ch with walk := { ch.walk with entry := e + 1, block := 0 } }) ∧
    (e < 252 → e % 4 = 3 → ∃ want : Bool,
      (want = true ↔ k < 62 ∧ s.listLineInside ch.listAddr (k + 2) = true ∧ k + 2 ∉ ch.requested) ∧
      (s.nextEntry c).chan c = { ch with
        walk := { ch.walk with entry := e + 1, block := 0 }
        curLine := ch.bufLine (k + 1)
        nextLine := if ch.nextLine.map ListLine.k = some (k + 1) then none else ch.nextLine
        requested := if want then ch.requested ++ [k + 2] else ch.requested }) ∧
    (∀ d, d ≠ c → (s.nextEntry c).chan d = s.chan d) ∧ Frame [.channels] s (s.nextEntry c) ∧
    (ch.st.live = true → ch.walk.st = .running → n ≤ ch.i + 23 →
      (256 ≤ e → s.walk c = s.listError c .noEnd) ∧
      (e < 256 → s.listLineInside ch.listAddr k = false → s.walk c = s.listError c .listOutside) ∧
      (e < 256 → s.listLineInside ch.listAddr k = true → ch.bufLine k = none → s.walk c = s) ∧
      (e < 256 → s.listLineInside ch.listAddr k = true → (∃ l, ch.bufLine k = some l ∧ l.bytes = none) →
        s.walk c = s.listError c .listRead) ∧
      (∀ l b x, e < 256 → s.listLineInside ch.listAddr k = true → ch.bufLine k = some l → l.bytes = some b →
        x = parseListEntry (b.drop (16 * (e % 4))) →
        (x = .bad → s.walk c = s.listError c .badEntry) ∧
        (∀ addr, x = .clip addr 0 → s.walk c = (s.nextEntry c).walk c) ∧
        (∀ addr len, x = .clip addr len → 0 < len → addr % 64 ≠ 0 ∨ s.path.clipRegion addr = none ∨
          (∃ r, s.path.clipRegion addr = some r ∧ r.base + r.size < addr + 192 * len) → s.walk c = s.listError c .clipOutside) ∧
        (∀ addr len r, x = .clip addr len → 0 < len → addr % 64 = 0 → s.path.clipRegion addr = some r →
          addr + 192 * len ≤ r.base + r.size →
          ∃ u, u.chan c = { ch with
              window := if (ch.slot n).idx = some n ∧ (ch.slot n).st = .empty then
                  ch.window.set ⟨(n % 32).toNat, by omega⟩ { ch.slot n with src := some (addr + 192 * ch.walk.block) }
                else ch.window
              walk := { ch.walk with next := n + 1, pass := true, block := ch.walk.block + 1 } } ∧
            (∀ d, d ≠ c → u.chan d = s.chan d) ∧ Frame [.channels] s u ∧
            (ch.walk.block + 1 < len → s.walk c = u.walk c) ∧ (len ≤ ch.walk.block + 1 → s.walk c = (u.nextEntry c).walk c)) ∧
        (∀ m, (∃ tag, x = .mark tag ∧ m = .mark tag e) ∨ (x = .hold ∧ m = .hold) →
          ∃ u, (∀ d, d ≠ c → u.chan d = s.chan d) ∧ Frame [.channels, .logQueue, .lostCount] s u ∧
            (ch.i ≤ n - 1 → u.logNow = s.logNow ∧ u.chan c = { ch with
              window := ch.window.set ⟨((n - 1) % 32).toNat, by omega⟩
                { ch.slot (n - 1) with marks := (ch.slot (n - 1)).marks ++ [m] } }) ∧
            (n - 1 < ch.i → u.logNow = s.logged (s.markRecords c ch.i ch.st [m]) ∧
              u.chan c = (if m = .hold then { ch with st := .held }
                else { ch with marksPassed := min (ch.marksPassed + 1) 65535 })) ∧
            (x ≠ .hold → s.walk c = (u.nextEntry c).walk c) ∧
            (x = .hold → ∃ v, v = u.nextEntry c ∧ Frame [.channels] v (s.walk c) ∧ (∀ d, d ≠ c → (s.walk c).chan d = s.chan d) ∧
              (s.walk c).chan c = { v.chan c with
                walk := { (v.chan c).walk with st := .stopped }
                window := Table.ofFn fun j =>
                  let sl := (v.chan c).window.get j
                  if (∃ y, sl.idx = some y ∧ n ≤ y ∧ ch.i ≤ y) ∧ sl.st = .empty ∧ sl.src = none then
                    { sl with st := .silent, presented := 0, lines := [] } else sl })) ∧
        (x = .finish →
          (ch.walk.pass = true → 1 ≤ ch.repeats → ch.repeats ≤ 15 →
            ∃ u, u.chan c = { ch with
                repeats := if ch.repeats = 15 then 15 else ch.repeats - 1
                walk := { ch.walk with entry := 0, block := 0, pass := false } } ∧
              (∀ d, d ≠ c → u.chan d = s.chan d) ∧ Frame [.channels] s u ∧ s.walk c = u.walk c) ∧
          (ch.walk.pass = false ∨ ch.repeats = 0 →
            ∃ u, u.chan c = { ch with
                endIdx := some n
                walk := { ch.walk with st := .finished }
                window := Table.ofFn fun j =>
                  let sl := ch.window.get j
                  if ∃ y, sl.idx = some y ∧ n ≤ y then
                    { sl with st := .silent, src := none, presented := 0, lines := [] } else sl } ∧
              (∀ d, d ≠ c → u.chan d = s.chan d) ∧ Frame [.channels] s u ∧
              (ch.i < n → s.walk c = u) ∧
              (n ≤ ch.i → ch.noStarts → u.ends (s.walk c) c .stopped ∧ Frame playParts u (s.walk c) ∧
                (s.walk c).logNow = s.logged [s.record .channelState c.val (w4 ch.st.code 0 6 15) (wInt ch.i)])))))

/-! ### The part's own writes -/

/-- MIRROR_WRITE_COMPLETE, HEADER_FIELD_WRITE_COMPLETE, HEADER_BURST_COMPLETE and WRITE_BACK_COMPLETE: the bytes are in memory, or
after an error none has changed (the model's choice but for the mirror: log entry 5) and it is counted; a failed header field or
write-back is logged; the header in memory is known only after a header burst without error; the change in progress ends with its
write-back either way. -/
def Obligations.PartWritesComplete : Prop :=
  ∀ (err : Bool) (s : State), s.inReset = false → Memory.wf s.mem = true →
    (∀ a l, s.arb.port = some (.mirror a l) →
      ∃ t, exec (.mirrorWriteComplete err) s = .next t ∧ Stored err (cellsFrom a l) s t ∧
        t.plan.memErrors = s.errorsAfter err ∧
        (err = true → s.inForce = true → s.plan.memErrors < 65535 → t.mirrorDue 0) ∧
        Frame [.memory, .memErrors] s t) ∧
    (∀ a v, (∃ ps : PartState, s.arb.port = some (.plan (.stateField ps)) ∧ a = s.anchorAddr + 80 ∧ v = ps.code) ∨
        (s.arb.port = some (.plan (.genField v)) ∧ a = s.anchorAddr + 76) →
      ∃ t, exec (.headerFieldWriteComplete err) s = .next t ∧ Stored err (cellsFrom a (le 4 v)) s t ∧
        t.plan.memErrors = s.errorsAfter err ∧ t.logNow = s.logged (s.errorRecords .plan a 0 err) ∧
        Frame (.memory :: errorParts) s t) ∧
    (∀ p l, s.arb.port = some (.logHeader p l) →
      ∃ t, exec (.headerBurstComplete err) s = .next t ∧ Stored err (cellsFrom (s.anchorAddr + 68) (le 4 p ++ le 4 l)) s t ∧
        t.plan.memErrors = s.errorsAfter err ∧ t.report.header = (if err then s.report.header else some (p, l)) ∧
        Frame [.memory, .memErrors, .logHeader] s t) ∧
    (∀ w, s.arb.port = some (.plan (.writeBack w)) →
      ∃ t, exec (.writeBackComplete err) s = .next t ∧ Stored err (cellsFrom s.anchorAddr (le 4 w.toNat)) s t ∧
        t.plan.change = none ∧ t.plan.memErrors = s.errorsAfter err ∧
        t.logNow = s.logged (s.errorRecords .plan s.anchorAddr 0 err) ∧ Frame (.memory :: .change :: errorParts) s t)

/-- LOG_RECORD_WRITE_COMPLETE: the record is in the producer's slot, which takes its class; the class's unconsumed count and the
producer index move on and ATTN follows. After an error the record is lost, counted, and the producer index stays; that the slot's
bytes stay too is the model's choice: log entry 5. -/
def Obligations.LogRecordWritten : Prop :=
  ∀ (err : Bool) (e : LogRec) (rest : List LogRec) (s : State), s.inReset = false → s.arb.port = some .logRecord →
    s.report.queue = e :: rest → Memory.wf s.mem = true →
    ∃ t, exec (.logRecordWriteComplete err) s = .next t ∧
      Stored err (cellsFrom (s.report.logBase + 16 * s.report.producer) e.bytes) s t ∧ t.report.queue = rest ∧
      t.report.consumer = s.report.consumer ∧ t.plan.memErrors = s.errorsAfter err ∧
      (err = false → t.report.producer = (s.report.producer + 1) % s.report.logLen ∧ t.report.lost = s.report.lost ∧
        tagAt t.report.tags s.report.producer = some e.kind.cls ∧
        (∀ j, j ≠ s.report.producer → s.report.tags.Pairwise (fun x y => x.1 < y.1) →
          tagAt t.report.tags j = tagAt s.report.tags j) ∧
        t.report.unconsumed.get e.kind.cls.bit = s.report.unconsumed.get e.kind.cls.bit + 1 ∧
        (∀ c, c ≠ e.kind.cls.bit → t.report.unconsumed.get c = s.report.unconsumed.get c) ∧
        (t.report.attn = true ↔ ∃ c : Fin 6, s.report.attnMask.getLsbD c.val = true ∧ 0 < t.report.unconsumed.get c)) ∧
      (err = true → t.report.producer = s.report.producer ∧ t.report.lost = min (s.report.lost + 1) 65535 ∧
        t.report.tags = s.report.tags ∧ t.report.unconsumed = s.report.unconsumed ∧ t.report.attn = s.report.attn) ∧
      Frame ([.memory, .logIndices, .classTags, .classCounts, .attn] ++ errorParts) s t

/-! ### The change protocol -/

/-- ARGUMENT_READ_COMPLETE: an error ends the change with MEMORY_ERROR; otherwise words 1 to 3 are its arguments and it is decided
by its kind and the part state: answered at once where the kind is not taken, with nothing else changed and nothing logged; an
UPDATE of a table or index that does not exist answered BAD_ARGUMENT, of any other its first read made ready; every other kind
left to its own command. That the hand-over is a command of its own (log entry 26), and that an entry is read line by line (log
entry 23), is inferred. -/
def Obligations.ArgumentsDecideChange : Prop :=
  ∀ (c : Change) (s : State), s.inReset = false → s.arb.port = some (.plan .argRead) → s.plan.change = some c →
    c.stage = .arguments → s.inForce = true ∨ s.plan.partState = .anchored →
    (∃ t, exec (.argumentReadComplete true) s = .next t ∧ t.answered .memoryError 0 0 ∧ t.plan.memErrors = s.errorsAfter true ∧
      t.logNow = s.logged (s.errorRecords .plan s.anchorAddr 0 true) ∧ Frame (.change :: errorParts) s t) ∧
    (∃ t c', exec (.argumentReadComplete false) s = .next t ∧ t.plan.change = some c' ∧ c'.kind = c.kind ∧
      c'.arg1 = Memory.word s.mem (s.anchorAddr + 4) ∧ c'.arg2 = Memory.word s.mem (s.anchorAddr + 8) ∧
      c'.arg3 = Memory.word s.mem (s.anchorAddr + 12) ∧ Frame [.change] s t ∧
      (8 < c.kind → t.answered .badKind 0 0) ∧
      (c.kind ≤ 8 → c.kind ≠ 1 → s.plan.partState = .anchored → t.answered .notInPlan 0 0) ∧
      (c.kind = 8 → s.plan.partState = .running → t.answered .refusedState 0 0) ∧
      (c.kind ≤ 7 → c.kind ≠ 1 → s.plan.partState = .halted → t.answered .refusedState 0 0) ∧
      (c.kind = 1 ∨ (3 ≤ c.kind ∧ c.kind ≤ 7 ∧ s.plan.partState = .running) ∨ (c.kind = 8 ∧ s.plan.partState = .halted) →
        c'.stage = .handover) ∧
      (c.kind = 2 → s.plan.partState = .running →
        (updateTable c'.tableByte = none → t.answered .badArgument 0 0) ∧
        (∀ tbl, updateTable c'.tableByte = some tbl → updateCount tbl ≤ c'.indexByte → t.answered .badArgument 0 0) ∧
        (∀ tbl, updateTable c'.tableByte = some tbl → c'.indexByte < updateCount tbl →
          ∃ off rest, lineOffs (s.entryOff tbl c'.indexByte) (entrySize tbl) = off :: rest ∧
            c'.stage = .entryFetch rest [] ∧ t.planHas (.entryLine off))))

/-- RELOAD and PLAN_FETCH_COMPLETE up to the checks: the load begins with the header lines; each line read is staged and the next
made ready; an error ends the load with the line's offset and MEMORY_ERROR; a header whose area does not hold it and the six
tables, or does not lie below M, ends it as PLAN_AREA, and any other is followed by the lines that hold the tables, in their
order, each ascending. That an area may end exactly at M is inferred (log entry 18). -/
def Obligations.LoadReadsPlan : Prop :=
  (∀ s : State, s.carriesOut 1 →
    ∃ t, exec .reload s = .next t ∧ t.stage = some .loading ∧ t.plan.staged = some ⟨[⟨0, 0⟩, ⟨0, 64⟩], []⟩ ∧
      t.planHas (.loadLine 0) ∧ Frame [.change, .staged] s t) ∧
  (∀ (o : Nat) (st : Staged) (l : StagedLine) (more : List StagedLine) (s : State), s.inReset = false →
    s.arb.port = some (.plan (.loadLine o)) → s.plan.staged = some st → st.todo = l :: more → s.plan.change.isSome = true →
    (∃ t, exec (.planFetchComplete true) s = .next t ∧ t.plan.staged = none ∧ t.plan.lastError = .fetch l.off ∧
      t.answered .memoryError 0 0 ∧ t.plan.memErrors = s.errorsAfter true ∧
      t.logNow = s.logged (s.errorRecords .plan (s.anchorAddr + l.off) 0 true) ∧
      Frame (.change :: .staged :: .lastError :: errorParts) s t) ∧
    (∃ t got, exec (.planFetchComplete false) s = .next t ∧
      got = st.got ++ [(l, Memory.bytes s.mem (s.anchorAddr + l.off) 64)] ∧
      (∀ next rest, more = next :: rest →
        t.plan.staged = some ⟨more, got⟩ ∧ t.planHas (.loadLine next.off) ∧ Frame [.staged] s t) ∧
      (∀ d h, more = [] → l.part = 0 → h = (got.filter fun x => x.1.part = 0).flatMap Prod.snd →
        d = Staged.header ⟨[], got⟩ →
        d.areaLen = field h 16 4 ∧ d.regionOff = field h 20 4 / 16 * 16 ∧ d.progOff = field h 24 4 / 16 * 16 ∧
        d.secOff = field h 28 4 / 16 * 16 ∧ d.groupOff = field h 32 4 / 16 * 16 ∧ d.chanOff = field h 36 4 / 16 * 16 ∧
        d.lineOff = field h 40 4 / 16 * 16 ∧ d.reference = field h 44 1 ∧ d.attnMask = BitVec.ofNat 6 (field h 45 1) ∧
        d.mirrorBase = field h 48 4 ∧ d.logBase = field h 52 4 ∧ d.logLen = field h 56 4 ∧
        ∀ holds : Prop, (holds ↔ 128 ≤ d.areaLen ∧ d.regionOff + 640 ≤ d.areaLen ∧ d.progOff + 96 ≤ d.areaLen ∧
            d.secOff + 192 ≤ d.areaLen ∧ d.groupOff + 1536 ≤ d.areaLen ∧ d.chanOff + 64 ≤ d.areaLen ∧
            d.lineOff + 384 ≤ d.areaLen ∧ s.anchorAddr + d.areaLen ≤ s.path.memSize) →
          (holds →
            t.plan.staged = some ⟨([(1, d.regionOff, 640), (2, d.progOff, 96), (3, d.secOff, 192), (4, d.groupOff, 1536),
                (5, d.chanOff, 64), (6, d.lineOff, 384)] : List (Fin 7 × Nat × Nat)).flatMap fun x =>
                  (List.range ((x.2.1 + x.2.2 + 63) / 64 - x.2.1 / 64)).map fun j => ⟨x.1, (x.2.1 / 64 + j) * 64⟩, got⟩ ∧
            t.planHas (.loadLine (d.regionOff / 64 * 64)) ∧ Frame [.staged] s t) ∧
          (¬holds →
            t.plan.staged = none ∧ t.plan.lastError = .check .planArea 255 ∧ t.answered .planInvalid 1 255 ∧
            t.logNow = s.logged [s.record .planRejected 1 (w4 1 255 0 0) 0] ∧
            Frame [.change, .staged, .lastError, .logQueue, .lostCount] s t))))

/-- PLAN_FETCH_COMPLETE of the last line: a plan that fails a check is discarded with the first failing check's code and the entry
index; one that passes all is clamped, and begins its swap with the flush of the pool, in which arrivals are no longer taken, a
wait ends and every OPEN gather closes as FLUSHED in ascending order of group and position. QUIESCE begins with the same flush.
What fails a check is PlanFails, in which two points are inferred: an extent reaches M when it ends above M (log entry 18), and
PLAN extends over the whole last line of its area (log entry 16). The entry index is stated where the table's check concerns no
entry (log entry 17 gives the others). Each value out of range is set to the nearer end and counted; which entries are counted is
inferred (log entry 31). -/
def Obligations.LoadCheckedAndFlushed : Prop :=
  (∀ (o : Nat) (st : Staged) (l : StagedLine) (s : State) (pt : PlanTables), s.inReset = false →
    s.arb.port = some (.plan (.loadLine o)) → s.plan.staged = some st → st.todo = [l] → l.part ≠ 0 →
    s.plan.change.isSome = true →
    pt = Staged.tables ⟨[], st.got ++ [(l, Memory.bytes s.mem (s.anchorAddr + l.off) 64)]⟩ →
    ∃ t, exec (.planFetchComplete false) s = .next t ∧
      (∀ chk entry, s.planChecks pt = some (chk, entry) →
        t.plan.staged = none ∧ t.plan.lastError = .check chk entry ∧ t.answered .planInvalid chk.code entry ∧
        t.logNow = s.logged [s.record .planRejected chk.code (w4 chk.code entry 0 0) 0] ∧
        Frame [.change, .staged, .lastError, .logQueue, .lostCount] s t) ∧
      (s.planChecks pt = none → t.stage = some (.flushing pt.clampCount) ∧ s.flushedInto t ∧
        Frame (.change :: .staged :: flushParts) s t)) ∧
  (∀ (s : State) (pt : PlanTables),
    (∀ chk entry, s.planChecks pt = some (chk, entry) → PlanFails s pt chk ∧
      (∀ before after, laterChecks = before ++ chk :: after → ∀ x ∈ before, ¬PlanFails s pt x) ∧
      (chk = .logLength ∨ chk = .logMoved → entry = 255)) ∧
    (s.planChecks pt = none → ∀ x ∈ laterChecks, ¬PlanFails s pt x)) ∧
  (∀ pt : PlanTables, pt.clampCount =
    ((List.range 24).map fun i => outside 5 500 (field (entryOf 3 pt.secs i) 2 2)).sum +
    ((List.range 12).map fun g => if (pt.group g).1.present then (parseGroup (entryOf 4 pt.groups g)).2 else 0).sum +
    ((List.range 4).map fun i => outside 0 32768 (field (entryOf 5 pt.chans i) 0 2) +
      outside 0 32768 (field (entryOf 5 pt.chans i) 2 2) + outside 1 64 (field (entryOf 5 pt.chans i) 4 1)).sum +
    ((List.range 6).map fun i => outside 1 255 (field (entryOf 6 pt.lines i) 1 1)).sum) ∧
  (∀ b : List Byte,
    (parseSection b).1.2 = max 5 (min 500 (field b 2 2)) ∧ (parseLine b).1.debounce = max 1 (field b 1 1) ∧
    (parseChannel b).1.duck = min 32768 (field b 0 2) ∧ (parseChannel b).1.ann = min 32768 (field b 2 2) ∧
    (parseChannel b).1.ramp = max 1 (min 64 (field b 4 1)) ∧
    (parseGroup b).1.closeDelay = max 200 (min 20000 (field b 8 2)) ∧ (parseGroup b).1.retryLimit = max 1 (field b 10 1) ∧
    (field b 1 1 = 1 → (parseGroup b).1.vote.errorWeight = min 15 (field b 12 1) ∧
      (parseGroup b).1.vote.hysteresis = min 63 (field b 14 1) ∧
      (parseGroup b).2 = outside 200 20000 (field b 8 2) + outside 1 255 (field b 10 1) + outside 0 15 (field b 12 1) +
        outside 0 63 (field b 14 1)) ∧
    (field b 1 1 = 2 → (∀ j : Fin 8, ∃ o, o = 64 + 8 * j.val ∧ (parseGroup b).1.bands.get j =
        ⟨field b o 1, min (field b o 1) (field b (o + 1) 1), min 255 (field b (o + 4) 2), min 24 (field b (o + 2) 1)⟩) ∧
      (parseGroup b).2 = outside 200 20000 (field b 8 2) + outside 1 255 (field b 10 1) +
        ((List.finRange 8).map fun j => outside 0 (field b (64 + 8 * j.val) 1) (field b (64 + 8 * j.val + 1) 1) +
          outside 0 24 (field b (64 + 8 * j.val + 2) 1) + outside 0 255 (field b (64 + 8 * j.val + 4) 2)).sum)) ∧
  (∀ s : State, s.carriesOut 7 →
    ∃ t, exec .quiesce s = .next t ∧ t.stage = some .quiescing ∧ s.flushedInto t ∧ Frame (.change :: flushParts) s t)

/-- SWAP_CHANNEL_STOP and QUIESCE_STOP, once the flushed results are written: every channel is stopped and every section CLEAR at
once. The swap goes on with the drain of the memory path; a QUIESCE halts the part, writes the part state and is answered. -/
def Obligations.FlushedThenStopped : Prop :=
  ∀ s : State, s.inReset = false → s.gather.results = [] →
    (∀ n, s.stage = some (.flushing n) →
      ∃ t, exec .swapChannelStop s = .next t ∧ t.allStopped ∧ t.stage = some (.draining n) ∧ Frame playParts s t) ∧
    (s.stage = some .quiescing →
      ∃ t, exec .quiesceStop s = .next t ∧ t.allStopped ∧ t.plan.partState = .halted ∧ t.answered .done 0 0 ∧
        t.planHas (.stateField .halted) ∧ Frame (.partState :: playParts) s t)

/-- ACTIVATION_STEP: the staged plan is in force. The region table, descriptors, sections, programmes, timing, groups, channel
defaults and report bases are the new plan's, and the channels' counters are zero; a group the plan does not hold stands at its
reset values (the model's choice: log entry 22); every line is withdrawn, loaded, not acknowledged and evaluated afresh, its raw
level kept; the part is RUNNING with its generation one on and no plan error; arrivals are taken; every mirror record is to be
written; PLAN_LOADED, and PLAN_CLAMPED after it where fields were clamped, are logged under the new plan; the header fields and
the answer are ready to be written. All this holds of the state `t`. Where no read waited for the step, `t` is the
state after the command; a read that waited is then classified as HOST_READ would be in `t`: inferred, log entry 44. -/
def Obligations.ActivationInstallsPlan : Prop :=
  ∀ (n : Nat) (st : Staged) (s : State) (pt : PlanTables), s.inReset = false → s.stage = some (.draining n) →
    s.plan.staged = some st → s.path.queue = [] → s.readInProgress = false → pt = st.tables →
    ∃ r t u, exec .activationStep s = .next r ∧
      ((∀ x, s.path.txn ≠ some (.unclassified x)) → t = r) ∧
      (∀ x w, s.path.txn = some (.unclassified x) → (Instr.hostRead x).wf = true → w = { t with path := { t.path with txn := none } } →
        w.portIdle ∧ exec (.hostRead x) w = .next r) ∧
      (∀ e : Fin 40, t.path.regions.get e = if (pt.region e.val).kind = 0 then none else
        some ⟨(pt.region e.val).lineKind, (pt.region e.val).base, pt.sizeOf (pt.region e.val)⟩) ∧
      t.path.implicit = [⟨.plan, s.anchorAddr, pt.d.areaLen⟩, ⟨.mirror, pt.d.mirrorBase, 47 * 64⟩,
        ⟨.log, pt.d.logBase, pt.d.logLen * 16⟩] ∧
      t.plan.descr = some pt.d ∧ t.plan.staged = none ∧ t.plan.partState = .running ∧
      t.plan.generation = (s.plan.generation + 1) % 65536 ∧ t.plan.lastError = .none ∧ t.answered .done 0 0 ∧
      t.planHas (.genField t.plan.generation) ∧ (s.plan.partState ≠ .running → t.planHas (.stateField .running)) ∧
      (∀ k, (t.sec k).transitions = 0 ∧ (t.sec k).feederFault = false ∧ (t.sec k).unitAlarm = false ∧
        (t.sec k).enabled = (parseSection (entryOf 3 pt.secs k.val)).1.1 ∧
        (t.sec k).lossTimeout = (parseSection (entryOf 3 pt.secs k.val)).1.2 ∧
        ((t.sec k).enabled = true → (t.sec k).state = .unseen ∧ (t.sec k).refresh = s.now ∧
          (t.sec k).deadline = some (s.now + (t.sec k).lossTimeout * 1000)) ∧
        ((t.sec k).enabled = false → (t.sec k).state = .disabled ∧ (t.sec k).deadline = none)) ∧
      (∀ p, (t.prog p).head = 0 ∧ (t.prog p).gen = 0 ∧ (t.prog p).lastAdvance = s.now ∧
        (∀ r, pt.find 2 p.val = some r → (t.prog p).present = true ∧ (t.prog p).base = r.base ∧
          (t.prog p).ringLen = pt.progLen p.val) ∧
        (pt.find 2 p.val = none → (t.prog p).present = false ∧ (t.prog p).base = 0 ∧ (t.prog p).ringLen = 64)) ∧
      t.tracker.freeCount = 0 ∧
      (∀ p : Fin 6, pt.d.reference = p.val → t.tracker.reference = some p ∧ t.tracker.timing = .locked ∧
        t.tracker.watchdog = some (s.now + 4000) ∧ t.tracker.nextFree = none) ∧
      (6 ≤ pt.d.reference → t.tracker.reference = none ∧ t.tracker.timing = .freeRun ∧ t.tracker.watchdog = none ∧
        t.tracker.nextFree = some (s.now + 1000)) ∧
      t.gather.taking = true ∧
      (∀ g e kind up out, (pt.group g.val).1 = e → e.present = true → groupKindOf e.kind = some kind →
        pt.find 4 g.val = some up → pt.find 5 g.val = some out →
        t.grp g = { present := true, kind := kind, set := e.set, ringLen := e.ringLen, uplinkBase := up.base,
                    outputBase := out.base, closeDelay := e.closeDelay, policy := e.policy, retryLimit := e.retryLimit,
                    vote := e.vote, bands := e.bands, lastWinner := none, gates := Table.fill 8 ⟨0, Table.fill 24 0⟩,
                    counts := Table.fill 7 0, duplicates := 0, lates := 0 }) ∧
      (∀ g, (pt.group g.val).1.present = false → t.grp g = Group.atReset) ∧
      (∀ k e, (parseLine (entryOf 6 pt.lines k.val)).1 = e →
        (t.line k).enabled = e.enabled ∧ (t.line k).activeLow = e.activeLow ∧ (t.line k).debounce = e.debounce ∧
        (t.line k).actions = e.actions ∧ (t.line k).high = (s.line k).high ∧ (t.line k).acked = false ∧
        (t.line k).reqChannel = none ∧
        (e.enabled = true → (s.line k).high ≠ e.activeLow →
          (t.line k).state = .debounce ∧ (t.line k).deadline = some (s.now + e.debounce * 1000)) ∧
        (e.enabled = false ∨ (s.line k).high = e.activeLow → (t.line k).state = .quiet ∧ (t.line k).deadline = none)) ∧
      ((∀ k, (s.line k).request = .none) → (∀ k, (t.line k).request = .none) ∧
        u.logNow = { s with report := { s.report with logLen := pt.d.logLen } }.logged
          ((List.finRange 6).flatMap fun k => s.reloadRecords k (parseLine (entryOf 6 pt.lines k.val)).1)) ∧
      (∀ c, (t.chan c).defaults = (parseChannel (entryOf 5 pt.chans c.val)).1 ∧ (t.chan c).underruns = 0 ∧
        (t.chan c).lateReads = 0 ∧ (t.chan c).saturations = 0 ∧ (t.chan c).marksPassed = 0) ∧
      t.report.mirrorBase = pt.d.mirrorBase ∧ t.report.logBase = pt.d.logBase ∧ t.report.logLen = pt.d.logLen ∧
      t.report.attnMask = pt.d.attnMask ∧ t.report.producer = s.report.producer ∧
      (∀ m, m < 47 → t.mirrorDue m) ∧ Frame [.change, .logQueue, .lostCount] u t ∧
      t.logNow = u.logged (u.record .planLoaded t.plan.generation (w2 s.plan.partState.code n) 0 :: u.clampedRecords n) ∧
      Frame activationParts s t

/-- The commands of an UPDATE's entry reads, one for each line of the entry (inferred: log entry 23), for the four tables alike:
an error ends the change with MEMORY_ERROR; a line that is not the entry's last is kept and the next one made ready; a group entry
that its group does not accept is answered BAD_ARGUMENT and nothing else changes. -/
def Obligations.UpdateReadsEntry : Prop :=
  (∀ (cmd : Bool → Instr) (tbl : Fin 7) (idx off : Nat) (todo : List Nat) (got : List Byte) (s : State),
    (cmd, tbl) ∈ [(Instr.updateSection, (3 : Fin 7)), (Instr.updateGroup, 4), (Instr.updateChannel, 5), (Instr.updateLine, 6)] →
    s.readsEntry tbl idx off todo got →
    (∃ t, exec (cmd true) s = .next t ∧ t.answered .memoryError 0 0 ∧ t.plan.memErrors = s.errorsAfter true ∧
      t.logNow = s.logged (s.errorRecords .plan (s.anchorAddr + off) 0 true) ∧ Frame (.change :: errorParts) s t) ∧
    (∀ next rest, todo = next :: rest →
      ∃ t, exec (cmd false) s = .next t ∧ t.planHas (.entryLine next) ∧
        t.stage = some (.entryFetch rest (got ++ Memory.bytes s.mem (s.anchorAddr + off) 64)) ∧ Frame [.change] s t)) ∧
  (∀ (g : Fin 12) (b : List Byte) (s : State), s.entryComes 4 g.val b →
    (s.grp g).present = false ∨ (parseGroup b).1.present = false ∨ (parseGroup b).1.ringLen ≠ (s.grp g).ringLen ∨
      groupKindOf (parseGroup b).1.kind ≠ some (s.grp g).kind →
    ∃ t, exec (.updateGroup false) s = .next t ∧ t.answered .badArgument 0 0 ∧ Frame [.change] s t)

/-- UPDATE_SECTION applied, by the section's enabled flag before and in the entry: a new timeout moves a running deadline, and a
moment already passed is a loss (a moment equal to the present counts as passed: log entry 30); a disabled section loses its
deadline, flags and break-in channels; an enabled one is UNSEEN with its timer started. With a loss or a move to DISABLED the OPEN
gathers now covered close as COMPLETE, in ascending order of group and position, and then the section's gates are cleared. -/
def Obligations.UpdateSectionApplied : Prop :=
  ∀ (k : Fin 24) (b : List Byte) (en : Bool) (ms clamped : Nat) (s : State), s.entryComes 3 k.val b →
    parseSection b = ((en, ms), clamped) →
    ∃ t, exec (.updateSection false) s = .next t ∧ t.answered .done 0 0 ∧ (∀ j, j ≠ k → t.sec j = s.sec j) ∧
      Frame (.change :: (sectionParts ++ errorParts)) s t ∧
      ((s.sec k).enabled = true → en = true →
        ((s.sec k).deadline = none →
          t.sec k = { s.sec k with lossTimeout := ms } ∧ t.logNow = s.logged (s.clampedRecords clamped) ∧
          Frame [.change, .sections, .logQueue, .lostCount] s t) ∧
        ((s.sec k).deadline.isSome = true → s.now < (s.sec k).refresh + ms * 1000 →
          t.sec k = { s.sec k with lossTimeout := ms, deadline := some ((s.sec k).refresh + ms * 1000) } ∧
          t.logNow = s.logged (s.clampedRecords clamped) ∧ Frame [.change, .sections, .logQueue, .lostCount] s t) ∧
        ((s.sec k).deadline.isSome = true → (s.sec k).refresh + ms * 1000 ≤ s.now →
          t.sec k = { s.sec k with lossTimeout := ms, deadline := none, state := .lost,
                                   transitions := min ((s.sec k).transitions + 1) 65535 } ∧
          t.logNow = s.logged (s.record .sectionState k.val (w4 (s.sec k).state.code 3 1 0)
            (w2 (min ((s.sec k).transitions + 1) 65535) 0) :: s.clampedRecords clamped) ∧
          s.completedWithout t k ∧ Same .breakIns s t)) ∧
      ((s.sec k).enabled = true → en = false →
        t.sec k = { s.sec k with enabled := false, lossTimeout := ms, deadline := none, feederFault := false,
                                 unitAlarm := false, state := .disabled,
                                 transitions := min ((s.sec k).transitions + 1) 65535 } ∧
        t.brk k = { s.brk k with active := none, suspended := none, gain := 32768, st := .clear } ∧
        (∀ j, j ≠ k → t.brk j = s.brk j) ∧
        (∀ g x, (s.grp g).kind = .rank →
          has ((t.grp g).gates.get x).isOpen k = false ∧ ((t.grp g).gates.get x).hold.get k = 0) ∧
        t.logNow = s.logged (s.record .sectionState k.val (w4 (s.sec k).state.code 4 4 0)
          (w2 (min ((s.sec k).transitions + 1) 65535) 0) :: s.clampedRecords clamped) ∧
        s.completedWithout t k) ∧
      ((s.sec k).enabled = false → en = true →
        t.sec k = { s.sec k with enabled := true, lossTimeout := ms, refresh := s.now, deadline := some (s.now + ms * 1000),
                                 feederFault := false, unitAlarm := false, state := .unseen,
                                 transitions := min ((s.sec k).transitions + 1) 65535 } ∧
        t.logNow = s.logged (s.record .sectionState k.val (w4 (s.sec k).state.code 0 4 0)
          (w2 (min ((s.sec k).transitions + 1) 65535) 0) :: s.clampedRecords clamped) ∧
        Frame [.change, .sections, .logQueue, .lostCount] s t) ∧
      ((s.sec k).enabled = false → en = false →
        t.sec k = { s.sec k with lossTimeout := ms } ∧ t.logNow = s.logged (s.clampedRecords clamped) ∧
        Frame [.change, .sections, .logQueue, .lostCount] s t)

/-- UPDATE_GROUP, UPDATE_CHANNEL and UPDATE_LINE applied and answered DONE. The group's OPEN gathers close as FLUSHED, in
ascending order of position, behind the earlier results, and its parameters are the entry's; then a last winner outside the new set
is none and a section that left the set has its gates closed, what else the closes have left staying. The channel's defaults are the
entry's, its use copies and play index stay. The line, withdrawn where it was in force (LineRequestWithdrawn), has the entry's
fields and its input is evaluated afresh; other lines' records stay. That the CHANNEL_STATE of a withdrawal falls due before
LINE_STATE is the model's choice: log entry 9. -/
def Obligations.UpdateAppliesEntry : Prop :=
  (∀ (g : Fin 12) (b : List Byte) (e : GroupEntry) (clamped : Nat) (s : State), s.entryComes 4 g.val b →
    parseGroup b = (e, clamped) → (s.grp g).present = true → e.present = true → groupKindOf e.kind = some (s.grp g).kind →
    e.ringLen = (s.grp g).ringLen →
    ∃ t, exec (.updateGroup false) s = .next t ∧ t.answered .done 0 0 ∧
      (∀ x, x ∈ t.gather.opens ↔ x ∈ s.gather.opens ∧ x.group ≠ g) ∧
      (∃ u, s.closesAll u (fun x => x.group = g) .flushed ∧ t.gather.results = u.gather.results ∧
        (t.grp g).counts = (u.grp g).counts ∧ (t.grp g).duplicates = (u.grp g).duplicates ∧
        (t.grp g).lates = (u.grp g).lates ∧
        (∀ k, (u.grp g).lastWinner = some k → (t.grp g).lastWinner = if has e.set k then some k else none) ∧
        ((u.grp g).lastWinner = none → (t.grp g).lastWinner = none) ∧
        (∀ k x, has (s.grp g).set k = false ∨ has e.set k = true →
          has ((t.grp g).gates.get x).isOpen k = has ((u.grp g).gates.get x).isOpen k ∧
          ((t.grp g).gates.get x).hold.get k = ((u.grp g).gates.get x).hold.get k)) ∧
      (s.gather.waiting = none → t.gather.waiting = none ∧ t.path.queue = s.path.queue) ∧
      (∀ a, s.gather.waiting = some a → a.group = g → t.gather.waiting = none ∧ t.path.queue = s.path.queue.tail) ∧
      (∀ a, s.gather.waiting = some a → a.group ≠ g → t.gather.waiting = some a ∧ t.path.queue = s.path.queue) ∧
      (t.grp g).set = e.set ∧ (t.grp g).closeDelay = e.closeDelay ∧ (t.grp g).policy = e.policy ∧
      (t.grp g).retryLimit = e.retryLimit ∧ (t.grp g).vote = e.vote ∧ (t.grp g).bands = e.bands ∧
      (t.grp g).kind = (s.grp g).kind ∧ (t.grp g).ringLen = (s.grp g).ringLen ∧
      (t.grp g).present = true ∧ (t.grp g).uplinkBase = (s.grp g).uplinkBase ∧ (t.grp g).outputBase = (s.grp g).outputBase ∧
      (∀ k x, has (s.grp g).set k = true → has e.set k = false →
        has ((t.grp g).gates.get x).isOpen k = false ∧ ((t.grp g).gates.get x).hold.get k = 0) ∧
      (∀ j, j ≠ g → t.grp j = s.grp j) ∧ t.logNow = s.logged (s.clampedRecords clamped) ∧
      Frame (.change :: (flushParts ++ errorParts)) s t) ∧
  (∀ (c : Fin 4) (b : List Byte) (d : ChanDefaults) (clamped : Nat) (s : State), s.entryComes 5 c.val b →
    parseChannel b = (d, clamped) →
    ∃ t, exec (.updateChannel false) s = .next t ∧ t.answered .done 0 0 ∧
      (t.chan c).still = { s.chan c with defaults := d }.still ∧ (∀ j, j ≠ c → (t.chan j).still = (s.chan j).still) ∧
      t.logNow = s.logged (s.clampedRecords clamped) ∧ Frame [.change, .channels, .logQueue, .lostCount] s t) ∧
  (∀ (k : Fin 6) (b : List Byte) (e : LineEntry) (clamped : Nat) (s : State), s.entryComes 6 k.val b →
    parseLine b = (e, clamped) →
    ∃ t, exec (.updateLine false) s = .next t ∧ t.answered .done 0 0 ∧ (t.line k).enabled = e.enabled ∧
      (t.line k).activeLow = e.activeLow ∧ (t.line k).debounce = e.debounce ∧ (t.line k).actions = e.actions ∧
      (t.line k).high = (s.line k).high ∧
      (e.enabled = true → (s.line k).high ≠ e.activeLow →
        (t.line k).state = .debounce ∧ (t.line k).deadline = some (s.now + e.debounce * 1000) ∧ (t.line k).acked = false) ∧
      (e.enabled = false ∨ (s.line k).high = e.activeLow → (t.line k).state = .quiet ∧ (t.line k).deadline = none) ∧
      (∀ j, j ≠ k → (t.line j).still = (s.line j).still) ∧
      ((s.line k).state = .active ∨ (s.line k).state = .latched → (t.line k).request = .none ∧ (t.line k).acked = false ∧
        ∃ v u, Frame [] s v ∧ u = v.withdrawLine k ∧ (∀ j, j ≠ k → t.line j = u.line j) ∧
          t.logNow = u.logged (s.record .lineState k.val (w4 (s.line k).state.code 0 4 0) 0 ::
            ((if (t.line k).state = .quiet then [] else [s.record .lineState k.val (w4 0 (t.line k).state.code 4 0) 0]) ++
            s.clampedRecords clamped)) ∧
          Frame [.change, .lines, .logQueue, .lostCount] u t) ∧
      ((s.line k).state = .quiet ∨ (s.line k).state = .debounce →
        t.logNow = s.logged ((if (s.line k).state = (t.line k).state then [] else [s.record .lineState k.val
          (w4 (s.line k).state.code (t.line k).state.code 4
            ((if (t.line k).acked then 1 else 0) + 16 * (s.line k).request.code)) 0]) ++ s.clampedRecords clamped) ∧
        (∀ j, j ≠ k → t.line j = s.line j) ∧ Frame [.change, .lines, .logQueue, .lostCount] s t) ∧
      Frame (lineParts ++ errorParts) s t)

/-- START: a bad channel, priority or list address is answered BAD_ARGUMENT. An idle channel begins under an UP fence, and raises
a DOWN one, where it begins at once or waits for the queued CLIP writes. A current start of lower priority is taken over: a live
use's sections are released and joined again and the use begins; a begin waiting gives up its place in the order of waiting; a
line's displaced request returns to the pending set as PENDING, a host's is lost. Against a current start of equal or higher
priority, live or waiting, the new start is queued, or answered BUSY where one is queued already. -/
def Obligations.StartDecided : Prop :=
  ∀ (c : Fin 4) (ch la prio rep : Nat) (mask : SecSet) (st : Start) (s : State), s.carriesOut 3 →
    ch = s.theChange.arg1.toNat % 256 → prio = s.theChange.arg1.toNat / 256 % 256 →
    rep = s.theChange.arg1.toNat / 65536 % 256 % 16 → la = s.theChange.arg2.toNat → mask = s.theChange.arg3.setWidth 24 →
    st = ⟨.host, la, mask, prio, rep, true⟩ →
    ∃ t, exec .start s = .next t ∧ Frame playParts s t ∧
      (4 ≤ ch ∨ prio = 0 ∨ 7 < prio ∨ la % 64 ≠ 0 ∨ s.path.clipRegion la = none →
        t.answered .badArgument 0 0 ∧ Frame [.change] s t) ∧
      (∀ r, ch = c.val → 1 ≤ prio → prio ≤ 7 → la % 64 = 0 → s.path.clipRegion la = some r →
        ((s.chan c).st = .idle → (s.chan c).waiting = none →
          (s.path.fence = .up → s.begins t c st ∧ t.answered .done 0 0) ∧
          (s.path.fence = .down → s.clipQueued = false → t.path.fence = .up ∧ s.begins t c st ∧ t.answered .done 0 0) ∧
          (∀ i, t.line i = s.line i) ∧ (t.chan c).queued = (s.chan c).queued ∧ (t.chan c).pending = (s.chan c).pending ∧
          (s.path.fence = .up ∨ s.playout.waitOrder = [] → ∀ d, d ≠ c → (t.chan d).still = (s.chan d).still) ∧
          (s.path.fence = .up ∨ (s.path.fence = .down ∧ s.clipQueued = false ∧ s.playout.waitOrder = []) → s.unjoined c →
            s.joinsAs t s.brk c st ∧ t.logNow = s.logged (s.joinRecords s.brk c st ++ [s.beginRecord c st .idle 1])) ∧
          (s.path.fence ≠ .up → s.path.fence = .raising ∨ s.clipQueued = true →
            t.path.fence = .raising ∧ (t.chan c).still = { (s.chan c).still with waiting := some st } ∧
            t.playout.waitOrder = (if c ∈ s.playout.waitOrder then s.playout.waitOrder else s.playout.waitOrder ++ [c]) ∧
            t.stage = some .startWait ∧ (∀ d, d ≠ c → (t.chan d).still = (s.chan d).still) ∧
            Frame [.change, .channels, .startOrder, .fence] s t)) ∧
        ((s.chan c).st.live = true → (s.chan c).prio < prio →
          s.begins t c st ∧ t.answered .done 0 0 ∧ (t.chan c).queued = (s.chan c).queued ∧
          (∀ d, d ≠ c → (t.chan d).still = (s.chan d).still) ∧
          (∀ i, t.line i = if (s.chan c).owner = some (.line i) then { s.line i with request := .pending } else s.line i) ∧
          (∀ k, (s.chan c).owner = some (.line k) → (t.line k).request = .pending ∧ (t.chan c).pending = (s.chan c).pending ++
            [⟨.line k, (s.chan c).listAddr, (s.chan c).mask, (s.chan c).prio, (s.chan c).reqRep, false⟩]) ∧
          ((s.chan c).owner = some .host → (t.chan c).pending = (s.chan c).pending) ∧
          (s.joinedOnce c → s.joinsAs t (s.releasedRec c) c st ∧
            t.logNow = s.logged (s.joinRecords (s.releasedRec c) c st ++ [s.beginRecord c st (s.chan c).st 2]))) ∧
        (∀ w, (s.chan c).st.live = false → (s.chan c).waiting = some w → w.prio < prio →
          t.playout.waitOrder = s.playout.waitOrder ∧ (∀ d, d ≠ c → (t.chan d).still = (s.chan d).still) ∧
          (∀ i, t.line i = if w.owner = .line i then { s.line i with request := .pending } else s.line i) ∧
          (∀ k, w.owner = .line k → t.stage = some .startWait ∧ (t.line k).request = .pending ∧
            (t.chan c).still = { (s.chan c).still with waiting := some st, pending := (s.chan c).pending ++ [w] }) ∧
          (w.owner = .host → (t.chan c).still = { (s.chan c).still with waiting := some st } ∧
            (w.reply = false → t.stage = some .startWait)) ∧
          Frame [.change, .channels, .requests] s t) ∧
        ((s.chan c).st.live = true ∧ prio ≤ (s.chan c).prio ∨
            (s.chan c).st.live = false ∧ (∃ w, (s.chan c).waiting = some w ∧ prio ≤ w.prio) →
          ((s.chan c).queued = none →
            (t.chan c).still = { s.chan c with queued := some { st with reply := false } }.still ∧
            (∀ d, d ≠ c → (t.chan d).still = (s.chan d).still) ∧ t.answered .queued 0 0 ∧ Frame [.change, .channels] s t) ∧
          ((s.chan c).queued.isSome = true → t.answered .busy 0 0 ∧ Frame [.change] s t)))

/-- STOP and CONTINUE: a channel number outside 0 to 3 is answered BAD_ARGUMENT, a channel that has nothing to stop or is not HELD
REFUSED_STATE. A live channel with no other start is stopped: its sections are released, CHANNEL_STATE is logged and DONE
answered. A begin waiting is stopped without a record, its line told. The channel is handed out to the candidate of highest
priority, a line before a host start, the lower line first: it begins at once under an UP fence, or waits in the stopped begin's
place. A HELD channel plays on from index i + 2 with every slot from there given its state afresh, and its walk goes on. What a
record gone IDLE keeps is the model's choice: log entry 38. -/
def Obligations.StopAndContinue : Prop :=
  (∀ (c : Fin 4) (ch : Nat) (s : State), s.carriesOut 4 → ch = s.theChange.arg1.toNat % 256 →
    ∃ t, exec .stop s = .next t ∧ Frame playParts s t ∧
      (4 ≤ ch → t.answered .badArgument 0 0 ∧ Frame [.change] s t) ∧
      (ch = c.val → (s.chan c).st.live = false → (s.chan c).waiting = none →
        t.answered .refusedState 0 0 ∧ Frame [.change] s t) ∧
      (ch = c.val → (s.chan c).st.live = true → t.answered .done 0 0) ∧
      (ch = c.val → (s.chan c).st.live = true → (s.chan c).queued = none → (s.chan c).pending = [] →
        t.logNow = s.logged [s.record .channelState c.val (w4 (s.chan c).st.code 0 7 15) (wInt (s.chan c).i)] ∧
        (s.inForce = true → t.mirrorDue (c.val + 25)) ∧
        ∃ u, s.ends u c .stopped ∧ Frame playParts s u ∧ (∀ i, t.line i = u.line i) ∧
          Frame [.change, .logQueue, .lostCount] u t) ∧
      (∀ w, ch = c.val → (s.chan c).st.live = false → (s.chan c).waiting = some w → t.answered .done 0 0 ∧
        ((s.chan c).noStarts ∨ s.path.fence = .raising →
          t.mixer = s.mixer ∧ t.logNow = s.logNow ∧ ∀ d, d ≠ c → (t.chan d).still = (s.chan d).still) ∧
        ((s.chan c).noStarts →
          (t.chan c).still = { s.chan c with waiting := none }.still ∧ c ∉ t.playout.waitOrder ∧
          (∀ k, (t.line k).request = if w.owner = .line k then .stopped else (s.line k).request) ∧
          t.path.fence = (if ∀ d, (t.chan d).st.live = false ∧ (t.chan d).waiting = none then .down else s.path.fence))) ∧
      (∀ st, ch = c.val → (s.chan c).st.live = true ∨ (s.chan c).waiting.isSome = true → (s.chan c).handsTo st →
        s.handedOut t c st 7 ∧
        ((s.chan c).st.live = true → ∀ i, t.line i =
          if st.owner = .line i then { s.line i with request := .running }
          else if (s.chan c).owner = some (.line i) then { s.line i with request := .stopped } else s.line i) ∧
        (∀ w, (s.chan c).st.live = false → (s.chan c).waiting = some w → ∀ i, t.line i =
          if st.owner = .line i then { s.line i with request := .running }
          else if w.owner = .line i then { s.line i with request := .stopped } else s.line i))) ∧
  (∀ (c : Fin 4) (ch : Nat) (s : State), s.carriesOut 5 → ch = s.theChange.arg1.toNat % 256 →
    ∃ t, exec .continueChannel s = .next t ∧ Frame playParts s t ∧
      (4 ≤ ch → t.answered .badArgument 0 0 ∧ Frame [.change] s t) ∧
      (ch = c.val → (s.chan c).st ≠ .held → t.answered .refusedState 0 0 ∧ Frame [.change] s t) ∧
      (ch = c.val → (s.chan c).st = .held → t.answered .done 0 0 ∧
        ∃ u, u.chan c = { s.chan c with
            st := .playing
            walk := { (s.chan c).walk with next := (s.chan c).i + 2, st := .running, pass := false }
            window := Table.ofFn fun j =>
              let sl := (s.chan c).window.get j
              match sl.idx with
              | some x => if (s.chan c).i + 2 ≤ x then ⟨some x, if x < 0 then .silent else .empty, none, 0, [], []⟩ else sl
              | none => sl } ∧
          (∀ d, d ≠ c → u.chan d = s.chan d) ∧
          u.logNow = s.logged [s.record .channelState c.val
            (w4 3 2 5 (ownerCode (s.chan c).owner + 16 * (s.chan c).prio)) (wInt (s.chan c).i)] ∧
          Frame [.change, .channels, .logQueue, .lostCount] s u ∧ Frame [] (u.walk c) t))

/-- ACK by the line's state, and RESUME: a bad line number BAD_ARGUMENT; a line not in force NOTHING_TO_ACK; an ACTIVE line is
acknowledged; a LATCHED one is withdrawn (LineRequestWithdrawn) and LINE_STATE logged with cause ACK, after the records of the
withdrawal (the model's choice: log entry 9). RESUME makes the part RUNNING
and takes arrivals again; then each ACTIVE line that has a BREAKIN requests it, in ascending order of line (LineRequestAnswered). -/
def Obligations.AckAndResume : Prop :=
  (∀ (k : Fin 6) (n : Nat) (s : State), s.carriesOut 6 → n = s.theChange.arg1.toNat % 256 →
    ∃ t, exec .ack s = .next t ∧ Frame lineParts s t ∧
      (6 ≤ n → t.answered .badArgument 0 0 ∧ Frame [.change] s t) ∧
      (n = k.val → (s.line k).state = .quiet ∨ (s.line k).state = .debounce →
        t.answered .nothingToAck 0 0 ∧ Frame [.change] s t) ∧
      (n = k.val → (s.line k).state = .active → t.answered .done 0 0 ∧ t.line k = { s.line k with acked := true } ∧
        (∀ j, j ≠ k → t.line j = s.line j) ∧ Frame [.change, .lines] s t) ∧
      (n = k.val → (s.line k).state = .latched → t.answered .done 0 0 ∧ (t.line k).state = .quiet ∧
        (t.line k).acked = false ∧ (t.line k).request = .none ∧
        ∃ u, u = s.withdrawLine k ∧ (∀ j, t.line j = u.line j) ∧
          t.logNow = u.logged [s.record .lineState k.val (w4 3 0 3 0) 0] ∧ Frame [.change, .logQueue, .lostCount] u t)) ∧
  (∀ s : State, s.carriesOut 8 →
    ∃ t, exec .resume s = .next t ∧ t.plan.partState = .running ∧ t.gather.taking = true ∧ t.answered .done 0 0 ∧
      t.planHas (.stateField .running) ∧ Frame (.partState :: .taking :: lineParts) s t ∧
      ((∀ k, (s.line k).state = .active → (s.line k).firstBreakin = none) → Frame [.partState, .taking, .change] s t) ∧
      ∃ a u, Frame [.partState, .taking] s a ∧ a.plan.partState = .running ∧ a.gather.taking = true ∧
        u = (List.finRange 6).foldl (fun x k =>
          match (s.line k).state, (s.line k).firstBreakin with
          | .active, some j => x.requestBreakin k j
          | _, _ => x) a ∧
        (∀ i, t.line i = u.line i) ∧ Frame [.change] u t)

/-! ### The memory port -/

/-- The requester granted on a free port: RESULT, urgent CLIP, a promoted PLAN, MIRROR or LOG, PASS unless eight PASS bursts have
run while another requester waits, then CLIP, PLAN, MIRROR, LOG; none where none is eligible. The run count counts PASS grants
made while another of CLIP, PLAN, MIRROR and LOG waits; a PASS grant while none waits and a grant of one of these clear it, a
RESULT grant leaves it. A busy port is left alone. The burst put on the port is, for RESULT, the head of the result list, written to its slot; for
CLIP, the burst presented, which it presents no more; for PASS, a read ready to be presented, and else the queue head; for PLAN, the
first it has ready; for MIRROR, the first dirty record after the one written last, with its contents of the moment of the grant
(WrittenLinesHold); for LOG, the record at the head of the log queue to the ring slot of the producer index, or the header burst with
the producer index and lost count of the moment of the grant. A grant changes nothing else. A burst is eligible
when it is presented and no queued write covers its line; that a taken write which waits on the pool no longer counts is inferred
(log entry 13), and so is the result kept back for a released read of its key (log entry 41). CLIP is urgent when its channel is;
PLAN, MIRROR and LOG are promoted more than 2000 µs after their burst was presented. When every command with effect has arbitrated,
the port is busy or no requester is eligible, and no requester has something to present that it does not present: the model's
choice, log entry 14. -/
def Obligations.ArbiterOrder : Prop :=
  ∀ s : State,
    (∀ b, s.arb.port = some b → s.arbitrate = s) ∧
    (s.eligible .result = true → s.winner = some .result) ∧
    (s.eligible .result = false → s.eligible .clip = true → s.clipUrgent = true → s.winner = some .clip) ∧
    (s.eligible .result = false → (s.eligible .clip = true → s.clipUrgent = false) →
      (s.promoted .plan = true → s.winner = some .plan) ∧
      (s.promoted .plan = false → s.promoted .mirror = true → s.winner = some .mirror) ∧
      (s.promoted .plan = false → s.promoted .mirror = false → s.promoted .log = true → s.winner = some .log) ∧
      (s.promoted .plan = false → s.promoted .mirror = false → s.promoted .log = false →
        (s.eligible .pass = true → (s.arb.runCount ≠ 8 ∨ s.othersWait = false) → s.winner = some .pass) ∧
        (s.eligible .pass = false ∨ (s.arb.runCount = 8 ∧ s.othersWait = true) →
          (s.eligible .clip = true → s.winner = some .clip) ∧
          (s.eligible .clip = false → s.eligible .plan = true → s.winner = some .plan) ∧
          (s.eligible .clip = false → s.eligible .plan = false → s.eligible .mirror = true → s.winner = some .mirror) ∧
          (s.eligible .clip = false → s.eligible .plan = false → s.eligible .mirror = false → s.eligible .log = true →
            s.winner = some .log)))) ∧
    (s.winner = none ↔ s.eligible .result = false ∧ s.eligible .clip = false ∧ s.eligible .pass = false ∧
      s.eligible .plan = false ∧ s.eligible .mirror = false ∧ s.eligible .log = false) ∧
    (s.arb.port = none → s.winner = some .pass →
      (s.readReady = true → s.arbitrate.arb.port = some .read) ∧
      (s.readReady = false → s.arbitrate.arb.port = some .queueHead) ∧
      s.arbitrate.arb.runCount = (if s.othersWait then s.arb.runCount + 1 else 0)) ∧
    (s.arb.port = none → s.winner = some .clip ∨ s.winner = some .plan ∨ s.winner = some .mirror ∨ s.winner = some .log →
      s.arbitrate.arb.runCount = 0) ∧
    (s.arb.port = none → s.winner = some .result → s.arbitrate.arb.runCount = s.arb.runCount ∧
      ∃ ga rest, s.gather.results = ga :: rest ∧ s.arbitrate.arb.port = some .result ∧
        s.arbitrate.portCells = cellsFrom ((s.grp ga.group).outputBase + ga.pos * 64) ga.result) ∧
    (s.arb.port = none → s.winner = some .clip →
      ∃ f, s.arb.clip = some f ∧ s.arbitrate.arb.port = some (.clip f) ∧ s.arbitrate.arb.clip = none) ∧
    (s.arb.port = none → s.winner = some .plan →
      ∃ b rest, s.plan.out = b :: rest ∧ s.arbitrate.arb.port = some (.plan b) ∧ s.arbitrate.plan.out = rest) ∧
    (s.arb.port = none → s.winner = some .log →
      s.arbitrate.report.req = .onPort ∧
      ((s.report.req = .record ∧ s.arbitrate.arb.port = some .logRecord ∧ ∀ e es, s.report.queue = e :: es →
          s.arbitrate.portCells = cellsFrom (s.report.logBase + 16 * s.report.producer) e.bytes) ∨
        (s.report.req = .header ∧ s.arbitrate.arb.port = some (.logHeader s.report.producer s.report.lost) ∧
          s.arbitrate.portCells = cellsFrom (s.anchorAddr + 68) (le 4 s.report.producer ++ le 4 s.report.lost)))) ∧
    (∀ r, s.arb.port = none → s.winner = some r →
      (r ≠ .clip → s.arbitrate.arb.clip = s.arb.clip) ∧ (r ≠ .plan → s.arbitrate.plan.out = s.plan.out) ∧
      (r ≠ .mirror → s.arbitrate.report.dirty = s.report.dirty ∧ s.arbitrate.report.lastWritten = s.report.lastWritten) ∧
      (r ≠ .log → s.arbitrate.report.req = s.report.req) ∧ (r ≠ .pass → s.arbitrate.path.txn = s.path.txn) ∧
      Frame [] s s.arbitrate) ∧
    (s.winner = none → s.arbitrate = s) ∧
    (s.othersWait = true ↔ s.eligible .clip = true ∨ s.eligible .plan = true ∨ s.eligible .mirror = true ∨
      s.eligible .log = true) ∧
    (s.arb.port = none → s.winner = some .mirror →
      ∃ m, m < 47 ∧ s.report.dirty.getLsbD m = true ∧
        (∀ j, j < (m + 46 - s.report.lastWritten % 47) % 47 →
          s.report.dirty.getLsbD ((s.report.lastWritten + 1 + j) % 47) = false) ∧
        s.arbitrate.arb.port = some (.mirror (s.report.mirrorBase + 64 * m) (s.mirrorBytes m)) ∧
        s.arbitrate.report.dirty.getLsbD m = false ∧ s.arbitrate.report.lastWritten = m) ∧
    (s.eligible .result = true ↔ ∃ ga rest, s.gather.results = ga :: rest ∧ s.arb.port ≠ some .result ∧
      s.unqueued ((s.grp ga.group).outputBase + ga.pos * 64) ∧
      ∀ r, s.path.txn = some (.read r) → r.phase ≠ .held ga.group ga.pos 0 ∧ r.phase ≠ .released ga.group ga.pos) ∧
    (s.eligible .clip = true ↔ ∃ f, s.arb.clip = some f ∧ s.unqueued f.addr) ∧
    (s.eligible .pass = true ↔
      (∃ r, s.path.txn = some (.read r) ∧ (r.phase = .waiting ∨ ∃ g n, r.phase = .released g n) ∧ s.unqueued r.memAddr) ∨
      (s.path.queue ≠ [] ∧ s.gather.waiting = none ∧ s.arb.port ≠ some .queueHead)) ∧
    (s.eligible .plan = true ↔ ∃ b rest, s.plan.out = b :: rest ∧ s.unqueued (s.anchorAddr + (match b with
      | .argRead => 0 | .loadLine o => o | .entryLine o => o | .stateField _ => 80 | .genField _ => 76 | .writeBack _ => 0))) ∧
    (s.eligible .mirror = true ↔ s.inForce = true ∧ ∃ m, m < 47 ∧ s.report.dirty.getLsbD m = true ∧
      (∀ j, j < (m + 46 - s.report.lastWritten % 47) % 47 →
        s.report.dirty.getLsbD ((s.report.lastWritten + 1 + j) % 47) = false) ∧ s.unqueued (s.report.mirrorBase + 64 * m)) ∧
    (s.eligible .log = true ↔ s.inForce = true ∧ ((s.report.req = .header ∧ s.unqueued (s.anchorAddr + 68)) ∨
      (s.report.req = .record ∧ s.unqueued (s.report.logBase + 16 * s.report.producer)))) ∧
    (s.clipUrgent = true ↔ ∃ f, s.arb.clip = some f ∧ (s.chan f.ch).st.live = true ∧ ∃ j : Nat, j < 4 ∧
      ((s.chan f.ch).window.get ⟨(((s.chan f.ch).i + j) % 32).toNat, by omega⟩).st ≠ .ready) ∧
    (s.promoted .plan = true ↔ s.eligible .plan = true ∧ ∃ p, s.arb.waits.plan = some p ∧ p + 2000 < s.now) ∧
    (s.promoted .mirror = true ↔ s.eligible .mirror = true ∧ ∃ p, s.arb.waits.mirror = some p ∧ p + 2000 < s.now) ∧
    (s.promoted .log = true ↔ s.eligible .log = true ∧ ∃ p, s.arb.waits.log = some p ∧ p + 2000 < s.now) ∧
    ∀ (c : Instr) (t : State), s.inReset = false → c ≠ .reset → exec c s = .next t → t ≠ s →
      (t.arb.port ≠ none ∨ ∀ r, t.eligible r = false) ∧ (t.arb.clip = none → ∀ d, t.offer d = none) ∧
      (t.inForce = true → t.report.choose = t.report)

/-- What the CLIP and LOG requesters present. A live channel offers the list line its walk waits for; else the next line of the
block it fetches; else, fetching no block, the first line of the lowest block to fetch at or after its play index; else the earliest
list line requested (log entry 37). No list line is offered while one of its use is on the memory port (R60), and no line of the
block it fetches while one of that block is on the port; what else exists is offered meanwhile (log entry 32). With nothing presented the CLIP
requester presents one offer: an urgent channel's first, then the lowest index beside its play index, then the lowest channel; it
keeps what it has presented. A channel is urgent when it is live and one of its slots for i to i + 3 is not READY. LOG presents the
header burst when the header in memory is unknown or differs, else the record at the head of the log queue when the ring has a free
slot. -/
def Obligations.RequestersPresent : Prop :=
  (∀ (c : Fin 4) (ch : Chan) (s : State), s.chan c = ch →
    (ch.st.live = false → s.offer c = none) ∧
    (ch.st.live = true →
      (s.awaitsLine c → ¬s.fetchesList c → s.offer c =
        some (⟨c, ch.useNo, .list (ch.walk.entry / 4), ch.listAddr + 64 * (ch.walk.entry / 4)⟩, ch.walk.next - ch.i)) ∧
      (¬s.awaitsLine c ∨ s.fetchesList c → ∀ rest : Option (ClipFetch × Int),
        ((ch.requested = [] ∨ s.fetchesList c → rest = none) ∧ ∀ k ks, ch.requested = k :: ks → ¬s.fetchesList c →
          rest = some (⟨c, ch.useNo, .list k, ch.listAddr + 64 * k⟩, ch.walk.next - ch.i)) →
        (∀ j x a, (ch.window.get j).st = .fetching → (∀ l, (ch.window.get l).st = .fetching → l = j) →
          (ch.window.get j).idx = some x → (ch.window.get j).src = some a →
          ((ch.window.get j).presented < 3 → ¬s.fetchesBlock c x → s.offer c =
            some (⟨c, ch.useNo, .block x (ch.window.get j).presented, a + 64 * (ch.window.get j).presented⟩, x - ch.i)) ∧
          (3 ≤ (ch.window.get j).presented ∨ s.fetchesBlock c x → s.offer c = rest)) ∧
        ((∀ j, (ch.window.get j).st ≠ .fetching) →
          (∀ j x a, ch.mayFetch j x a → (∀ l y b, ch.mayFetch l y b → l = j ∨ x < y) →
            s.offer c = some (⟨c, ch.useNo, .block x 0, a⟩, x - ch.i)) ∧
          ((∀ j x a, ¬ch.mayFetch j x a) → s.offer c = rest)))) ∧
    (ch.urgent = true ↔ ch.st.live = true ∧
      ∃ j : Nat, j < 4 ∧ (ch.window.get ⟨((ch.i + j) % 32).toNat, by omega⟩).st ≠ .ready)) ∧
  (∀ s : State,
    ((∀ c, s.offer c = none) → s.chosenOffer = none) ∧
    (∀ c f x, s.offer c = some (f, x) →
      (∀ d g y, d ≠ c → s.offer d = some (g, y) →
        ((s.chan c).urgent = true ∧ (s.chan d).urgent = false) ∨
        ((s.chan c).urgent = (s.chan d).urgent ∧ (x < y ∨ (x = y ∧ c < d)))) → s.chosenOffer = some f) ∧
    (s.arb.clip ≠ none ∨ s.chosenOffer = none → s.presentClip = s) ∧
    (∀ f, s.arb.clip = none → s.chosenOffer = some f →
      s.presentClip.arb = { s.arb with clip := some f } ∧ (∀ d, d ≠ f.ch → s.presentClip.chan d = s.chan d) ∧
      (∀ x j, f.what = .block x j → ∃ sl, (s.chan f.ch).window.get ⟨(x % 32).toNat, by omega⟩ = sl ∧
        s.presentClip.chan f.ch = { s.chan f.ch with
          window := (s.chan f.ch).window.set ⟨(x % 32).toNat, by omega⟩
            { sl with st := if sl.st = .empty then .fetching else sl.st, presented := sl.presented + 1 } }) ∧
      (∀ k, f.what = .list k →
        s.presentClip.chan f.ch = { s.chan f.ch with requested := (s.chan f.ch).requested.filter fun j => j != k }) ∧
      Frame [] s s.presentClip)) ∧
  ∀ r : Report,
    (r.req ≠ .idle → r.choose = r) ∧
    (r.req = .idle →
      (r.header ≠ some (r.producer, r.lost) → r.choose = { r with req := .header }) ∧
      (r.header = some (r.producer, r.lost) → r.queue ≠ [] → (r.producer + 1) % r.logLen ≠ r.consumer →
        r.choose = { r with req := .record }) ∧
      (r.header = some (r.producer, r.lost) → r.queue = [] ∨ (r.producer + 1) % r.logLen = r.consumer → r.choose = r))
end

