-- ==== Sys2Proof/Laws/State.lean ====
section
/-! SUPPORT. One lemma per field per update: what the record updates of the model leave as it was. -/

namespace Sys2Proof.Machine

variable (s : State)

/-! ### setSec -/

@[simp] theorem State.setSec_pending (k : Fin 24) (r : SectionRec) : (s.setSec k r).pending = s.pending := rfl
@[simp] theorem State.setSec_inReset (k : Fin 24) (r : SectionRec) : (s.setSec k r).inReset = s.inReset := rfl
@[simp] theorem State.setSec_now (k : Fin 24) (r : SectionRec) : (s.setSec k r).now = s.now := rfl
@[simp] theorem State.setSec_free (k : Fin 24) (r : SectionRec) : (s.setSec k r).free = s.free := rfl
@[simp] theorem State.setSec_mem (k : Fin 24) (r : SectionRec) : (s.setSec k r).mem = s.mem := rfl
@[simp] theorem State.setSec_path (k : Fin 24) (r : SectionRec) : (s.setSec k r).path = s.path := rfl
@[simp] theorem State.setSec_arb (k : Fin 24) (r : SectionRec) : (s.setSec k r).arb = s.arb := rfl
@[simp] theorem State.setSec_plan (k : Fin 24) (r : SectionRec) : (s.setSec k r).plan = s.plan := rfl
@[simp] theorem State.setSec_tracker (k : Fin 24) (r : SectionRec) : (s.setSec k r).tracker = s.tracker := rfl
@[simp] theorem State.setSec_playout (k : Fin 24) (r : SectionRec) : (s.setSec k r).playout = s.playout := rfl
@[simp] theorem State.setSec_mixer (k : Fin 24) (r : SectionRec) : (s.setSec k r).mixer = s.mixer := rfl
@[simp] theorem State.setSec_gather (k : Fin 24) (r : SectionRec) : (s.setSec k r).gather = s.gather := rfl
@[simp] theorem State.setSec_lines (k : Fin 24) (r : SectionRec) : (s.setSec k r).lines = s.lines := rfl
@[simp] theorem State.setSec_report (k : Fin 24) (r : SectionRec) : (s.setSec k r).report = s.report := rfl

/-! ### setChan -/

@[simp] theorem State.setChan_pending (c : Fin 4) (r : Chan) : (s.setChan c r).pending = s.pending := rfl
@[simp] theorem State.setChan_inReset (c : Fin 4) (r : Chan) : (s.setChan c r).inReset = s.inReset := rfl
@[simp] theorem State.setChan_now (c : Fin 4) (r : Chan) : (s.setChan c r).now = s.now := rfl
@[simp] theorem State.setChan_free (c : Fin 4) (r : Chan) : (s.setChan c r).free = s.free := rfl
@[simp] theorem State.setChan_mem (c : Fin 4) (r : Chan) : (s.setChan c r).mem = s.mem := rfl
@[simp] theorem State.setChan_path (c : Fin 4) (r : Chan) : (s.setChan c r).path = s.path := rfl
@[simp] theorem State.setChan_arb (c : Fin 4) (r : Chan) : (s.setChan c r).arb = s.arb := rfl
@[simp] theorem State.setChan_plan (c : Fin 4) (r : Chan) : (s.setChan c r).plan = s.plan := rfl
@[simp] theorem State.setChan_sections (c : Fin 4) (r : Chan) : (s.setChan c r).sections = s.sections := rfl
@[simp] theorem State.setChan_tracker (c : Fin 4) (r : Chan) : (s.setChan c r).tracker = s.tracker := rfl
@[simp] theorem State.setChan_mixer (c : Fin 4) (r : Chan) : (s.setChan c r).mixer = s.mixer := rfl
@[simp] theorem State.setChan_gather (c : Fin 4) (r : Chan) : (s.setChan c r).gather = s.gather := rfl
@[simp] theorem State.setChan_lines (c : Fin 4) (r : Chan) : (s.setChan c r).lines = s.lines := rfl
@[simp] theorem State.setChan_report (c : Fin 4) (r : Chan) : (s.setChan c r).report = s.report := rfl

/-! ### setBrk -/

@[simp] theorem State.setBrk_pending (k : Fin 24) (r : BreakRec) : (s.setBrk k r).pending = s.pending := rfl
@[simp] theorem State.setBrk_inReset (k : Fin 24) (r : BreakRec) : (s.setBrk k r).inReset = s.inReset := rfl
@[simp] theorem State.setBrk_now (k : Fin 24) (r : BreakRec) : (s.setBrk k r).now = s.now := rfl
@[simp] theorem State.setBrk_free (k : Fin 24) (r : BreakRec) : (s.setBrk k r).free = s.free := rfl
@[simp] theorem State.setBrk_mem (k : Fin 24) (r : BreakRec) : (s.setBrk k r).mem = s.mem := rfl
@[simp] theorem State.setBrk_path (k : Fin 24) (r : BreakRec) : (s.setBrk k r).path = s.path := rfl
@[simp] theorem State.setBrk_arb (k : Fin 24) (r : BreakRec) : (s.setBrk k r).arb = s.arb := rfl
@[simp] theorem State.setBrk_plan (k : Fin 24) (r : BreakRec) : (s.setBrk k r).plan = s.plan := rfl
@[simp] theorem State.setBrk_sections (k : Fin 24) (r : BreakRec) : (s.setBrk k r).sections = s.sections := rfl
@[simp] theorem State.setBrk_tracker (k : Fin 24) (r : BreakRec) : (s.setBrk k r).tracker = s.tracker := rfl
@[simp] theorem State.setBrk_playout (k : Fin 24) (r : BreakRec) : (s.setBrk k r).playout = s.playout := rfl
@[simp] theorem State.setBrk_gather (k : Fin 24) (r : BreakRec) : (s.setBrk k r).gather = s.gather := rfl
@[simp] theorem State.setBrk_lines (k : Fin 24) (r : BreakRec) : (s.setBrk k r).lines = s.lines := rfl
@[simp] theorem State.setBrk_report (k : Fin 24) (r : BreakRec) : (s.setBrk k r).report = s.report := rfl

/-! ### setArmed -/

@[simp] theorem State.setArmed_pending (c : Fin 4) (v : Bool) : (s.setArmed c v).pending = s.pending := rfl
@[simp] theorem State.setArmed_inReset (c : Fin 4) (v : Bool) : (s.setArmed c v).inReset = s.inReset := rfl
@[simp] theorem State.setArmed_now (c : Fin 4) (v : Bool) : (s.setArmed c v).now = s.now := rfl
@[simp] theorem State.setArmed_free (c : Fin 4) (v : Bool) : (s.setArmed c v).free = s.free := rfl
@[simp] theorem State.setArmed_mem (c : Fin 4) (v : Bool) : (s.setArmed c v).mem = s.mem := rfl
@[simp] theorem State.setArmed_path (c : Fin 4) (v : Bool) : (s.setArmed c v).path = s.path := rfl
@[simp] theorem State.setArmed_arb (c : Fin 4) (v : Bool) : (s.setArmed c v).arb = s.arb := rfl
@[simp] theorem State.setArmed_plan (c : Fin 4) (v : Bool) : (s.setArmed c v).plan = s.plan := rfl
@[simp] theorem State.setArmed_sections (c : Fin 4) (v : Bool) : (s.setArmed c v).sections = s.sections := rfl
@[simp] theorem State.setArmed_tracker (c : Fin 4) (v : Bool) : (s.setArmed c v).tracker = s.tracker := rfl
@[simp] theorem State.setArmed_playout (c : Fin 4) (v : Bool) : (s.setArmed c v).playout = s.playout := rfl
@[simp] theorem State.setArmed_gather (c : Fin 4) (v : Bool) : (s.setArmed c v).gather = s.gather := rfl
@[simp] theorem State.setArmed_lines (c : Fin 4) (v : Bool) : (s.setArmed c v).lines = s.lines := rfl
@[simp] theorem State.setArmed_report (c : Fin 4) (v : Bool) : (s.setArmed c v).report = s.report := rfl

/-! ### setGrp -/

@[simp] theorem State.setGrp_pending (g : Fin 12) (r : Group) : (s.setGrp g r).pending = s.pending := rfl
@[simp] theorem State.setGrp_inReset (g : Fin 12) (r : Group) : (s.setGrp g r).inReset = s.inReset := rfl
@[simp] theorem State.setGrp_now (g : Fin 12) (r : Group) : (s.setGrp g r).now = s.now := rfl
@[simp] theorem State.setGrp_free (g : Fin 12) (r : Group) : (s.setGrp g r).free = s.free := rfl
@[simp] theorem State.setGrp_mem (g : Fin 12) (r : Group) : (s.setGrp g r).mem = s.mem := rfl
@[simp] theorem State.setGrp_path (g : Fin 12) (r : Group) : (s.setGrp g r).path = s.path := rfl
@[simp] theorem State.setGrp_arb (g : Fin 12) (r : Group) : (s.setGrp g r).arb = s.arb := rfl
@[simp] theorem State.setGrp_plan (g : Fin 12) (r : Group) : (s.setGrp g r).plan = s.plan := rfl
@[simp] theorem State.setGrp_sections (g : Fin 12) (r : Group) : (s.setGrp g r).sections = s.sections := rfl
@[simp] theorem State.setGrp_tracker (g : Fin 12) (r : Group) : (s.setGrp g r).tracker = s.tracker := rfl
@[simp] theorem State.setGrp_playout (g : Fin 12) (r : Group) : (s.setGrp g r).playout = s.playout := rfl
@[simp] theorem State.setGrp_mixer (g : Fin 12) (r : Group) : (s.setGrp g r).mixer = s.mixer := rfl
@[simp] theorem State.setGrp_lines (g : Fin 12) (r : Group) : (s.setGrp g r).lines = s.lines := rfl
@[simp] theorem State.setGrp_report (g : Fin 12) (r : Group) : (s.setGrp g r).report = s.report := rfl

/-! ### setLine -/

@[simp] theorem State.setLine_pending (k : Fin 6) (r : LineRec) : (s.setLine k r).pending = s.pending := rfl
@[simp] theorem State.setLine_inReset (k : Fin 6) (r : LineRec) : (s.setLine k r).inReset = s.inReset := rfl
@[simp] theorem State.setLine_now (k : Fin 6) (r : LineRec) : (s.setLine k r).now = s.now := rfl
@[simp] theorem State.setLine_free (k : Fin 6) (r : LineRec) : (s.setLine k r).free = s.free := rfl
@[simp] theorem State.setLine_mem (k : Fin 6) (r : LineRec) : (s.setLine k r).mem = s.mem := rfl
@[simp] theorem State.setLine_path (k : Fin 6) (r : LineRec) : (s.setLine k r).path = s.path := rfl
@[simp] theorem State.setLine_arb (k : Fin 6) (r : LineRec) : (s.setLine k r).arb = s.arb := rfl
@[simp] theorem State.setLine_plan (k : Fin 6) (r : LineRec) : (s.setLine k r).plan = s.plan := rfl
@[simp] theorem State.setLine_sections (k : Fin 6) (r : LineRec) : (s.setLine k r).sections = s.sections := rfl
@[simp] theorem State.setLine_tracker (k : Fin 6) (r : LineRec) : (s.setLine k r).tracker = s.tracker := rfl
@[simp] theorem State.setLine_playout (k : Fin 6) (r : LineRec) : (s.setLine k r).playout = s.playout := rfl
@[simp] theorem State.setLine_mixer (k : Fin 6) (r : LineRec) : (s.setLine k r).mixer = s.mixer := rfl
@[simp] theorem State.setLine_gather (k : Fin 6) (r : LineRec) : (s.setLine k r).gather = s.gather := rfl
@[simp] theorem State.setLine_report (k : Fin 6) (r : LineRec) : (s.setLine k r).report = s.report := rfl

/-! ### mark -/

@[simp] theorem State.mark_pending (m : Nat) : (s.mark m).pending = s.pending := rfl
@[simp] theorem State.mark_inReset (m : Nat) : (s.mark m).inReset = s.inReset := rfl
@[simp] theorem State.mark_now (m : Nat) : (s.mark m).now = s.now := rfl
@[simp] theorem State.mark_free (m : Nat) : (s.mark m).free = s.free := rfl
@[simp] theorem State.mark_mem (m : Nat) : (s.mark m).mem = s.mem := rfl
@[simp] theorem State.mark_path (m : Nat) : (s.mark m).path = s.path := rfl
@[simp] theorem State.mark_arb (m : Nat) : (s.mark m).arb = s.arb := rfl
@[simp] theorem State.mark_plan (m : Nat) : (s.mark m).plan = s.plan := rfl
@[simp] theorem State.mark_sections (m : Nat) : (s.mark m).sections = s.sections := rfl
@[simp] theorem State.mark_tracker (m : Nat) : (s.mark m).tracker = s.tracker := rfl
@[simp] theorem State.mark_playout (m : Nat) : (s.mark m).playout = s.playout := rfl
@[simp] theorem State.mark_mixer (m : Nat) : (s.mark m).mixer = s.mixer := rfl
@[simp] theorem State.mark_gather (m : Nat) : (s.mark m).gather = s.gather := rfl
@[simp] theorem State.mark_lines (m : Nat) : (s.mark m).lines = s.lines := rfl

/-! ### markIf -/

@[simp] theorem State.markIf_pending (b : Bool) (m : Nat) : (s.markIf b m).pending = s.pending := rfl
@[simp] theorem State.markIf_inReset (b : Bool) (m : Nat) : (s.markIf b m).inReset = s.inReset := rfl
@[simp] theorem State.markIf_now (b : Bool) (m : Nat) : (s.markIf b m).now = s.now := rfl
@[simp] theorem State.markIf_free (b : Bool) (m : Nat) : (s.markIf b m).free = s.free := rfl
@[simp] theorem State.markIf_mem (b : Bool) (m : Nat) : (s.markIf b m).mem = s.mem := rfl
@[simp] theorem State.markIf_path (b : Bool) (m : Nat) : (s.markIf b m).path = s.path := rfl
@[simp] theorem State.markIf_arb (b : Bool) (m : Nat) : (s.markIf b m).arb = s.arb := rfl
@[simp] theorem State.markIf_plan (b : Bool) (m : Nat) : (s.markIf b m).plan = s.plan := rfl
@[simp] theorem State.markIf_sections (b : Bool) (m : Nat) : (s.markIf b m).sections = s.sections := rfl
@[simp] theorem State.markIf_tracker (b : Bool) (m : Nat) : (s.markIf b m).tracker = s.tracker := rfl
@[simp] theorem State.markIf_playout (b : Bool) (m : Nat) : (s.markIf b m).playout = s.playout := rfl
@[simp] theorem State.markIf_mixer (b : Bool) (m : Nat) : (s.markIf b m).mixer = s.mixer := rfl
@[simp] theorem State.markIf_gather (b : Bool) (m : Nat) : (s.markIf b m).gather = s.gather := rfl
@[simp] theorem State.markIf_lines (b : Bool) (m : Nat) : (s.markIf b m).lines = s.lines := rfl

/-! ### log -/

@[simp] theorem State.log_pending (kind : LogKind) (subject : Nat) (d1 d2 : Word) : (s.log kind subject d1 d2).pending = s.pending := rfl
@[simp] theorem State.log_inReset (kind : LogKind) (subject : Nat) (d1 d2 : Word) : (s.log kind subject d1 d2).inReset = s.inReset := rfl
@[simp] theorem State.log_now (kind : LogKind) (subject : Nat) (d1 d2 : Word) : (s.log kind subject d1 d2).now = s.now := rfl
@[simp] theorem State.log_free (kind : LogKind) (subject : Nat) (d1 d2 : Word) : (s.log kind subject d1 d2).free = s.free := rfl
@[simp] theorem State.log_mem (kind : LogKind) (subject : Nat) (d1 d2 : Word) : (s.log kind subject d1 d2).mem = s.mem := rfl
@[simp] theorem State.log_path (kind : LogKind) (subject : Nat) (d1 d2 : Word) : (s.log kind subject d1 d2).path = s.path := rfl
@[simp] theorem State.log_arb (kind : LogKind) (subject : Nat) (d1 d2 : Word) : (s.log kind subject d1 d2).arb = s.arb := rfl
@[simp] theorem State.log_plan (kind : LogKind) (subject : Nat) (d1 d2 : Word) : (s.log kind subject d1 d2).plan = s.plan := rfl
@[simp] theorem State.log_sections (kind : LogKind) (subject : Nat) (d1 d2 : Word) : (s.log kind subject d1 d2).sections = s.sections := rfl
@[simp] theorem State.log_tracker (kind : LogKind) (subject : Nat) (d1 d2 : Word) : (s.log kind subject d1 d2).tracker = s.tracker := rfl
@[simp] theorem State.log_playout (kind : LogKind) (subject : Nat) (d1 d2 : Word) : (s.log kind subject d1 d2).playout = s.playout := rfl
@[simp] theorem State.log_mixer (kind : LogKind) (subject : Nat) (d1 d2 : Word) : (s.log kind subject d1 d2).mixer = s.mixer := rfl
@[simp] theorem State.log_gather (kind : LogKind) (subject : Nat) (d1 d2 : Word) : (s.log kind subject d1 d2).gather = s.gather := rfl
@[simp] theorem State.log_lines (kind : LogKind) (subject : Nat) (d1 d2 : Word) : (s.log kind subject d1 d2).lines = s.lines := rfl

/-! ### memError -/

@[simp] theorem State.memError_pending : s.memError.pending = s.pending := rfl
@[simp] theorem State.memError_inReset : s.memError.inReset = s.inReset := rfl
@[simp] theorem State.memError_now : s.memError.now = s.now := rfl
@[simp] theorem State.memError_free : s.memError.free = s.free := rfl
@[simp] theorem State.memError_mem : s.memError.mem = s.mem := rfl
@[simp] theorem State.memError_path : s.memError.path = s.path := rfl
@[simp] theorem State.memError_arb : s.memError.arb = s.arb := rfl
@[simp] theorem State.memError_sections : s.memError.sections = s.sections := rfl
@[simp] theorem State.memError_tracker : s.memError.tracker = s.tracker := rfl
@[simp] theorem State.memError_playout : s.memError.playout = s.playout := rfl
@[simp] theorem State.memError_mixer : s.memError.mixer = s.mixer := rfl
@[simp] theorem State.memError_gather : s.memError.gather = s.gather := rfl
@[simp] theorem State.memError_lines : s.memError.lines = s.lines := rfl

/-! ### finishWith -/

@[simp] theorem State.finishWith_pending (r : ResultCode) (check entry : Nat) : (s.finishWith r check entry).pending = s.pending := rfl
@[simp] theorem State.finishWith_inReset (r : ResultCode) (check entry : Nat) : (s.finishWith r check entry).inReset = s.inReset := rfl
@[simp] theorem State.finishWith_now (r : ResultCode) (check entry : Nat) : (s.finishWith r check entry).now = s.now := rfl
@[simp] theorem State.finishWith_free (r : ResultCode) (check entry : Nat) : (s.finishWith r check entry).free = s.free := rfl
@[simp] theorem State.finishWith_mem (r : ResultCode) (check entry : Nat) : (s.finishWith r check entry).mem = s.mem := rfl
@[simp] theorem State.finishWith_path (r : ResultCode) (check entry : Nat) : (s.finishWith r check entry).path = s.path := rfl
@[simp] theorem State.finishWith_arb (r : ResultCode) (check entry : Nat) : (s.finishWith r check entry).arb = s.arb := rfl
@[simp] theorem State.finishWith_sections (r : ResultCode) (check entry : Nat) : (s.finishWith r check entry).sections = s.sections := rfl
@[simp] theorem State.finishWith_tracker (r : ResultCode) (check entry : Nat) : (s.finishWith r check entry).tracker = s.tracker := rfl
@[simp] theorem State.finishWith_playout (r : ResultCode) (check entry : Nat) : (s.finishWith r check entry).playout = s.playout := rfl
@[simp] theorem State.finishWith_mixer (r : ResultCode) (check entry : Nat) : (s.finishWith r check entry).mixer = s.mixer := rfl
@[simp] theorem State.finishWith_gather (r : ResultCode) (check entry : Nat) : (s.finishWith r check entry).gather = s.gather := rfl
@[simp] theorem State.finishWith_lines (r : ResultCode) (check entry : Nat) : (s.finishWith r check entry).lines = s.lines := rfl
@[simp] theorem State.finishWith_report (r : ResultCode) (check entry : Nat) : (s.finishWith r check entry).report = s.report := rfl

/-! ### finish -/

@[simp] theorem State.finish_pending (r : ResultCode) : (s.finish r).pending = s.pending := rfl
@[simp] theorem State.finish_inReset (r : ResultCode) : (s.finish r).inReset = s.inReset := rfl
@[simp] theorem State.finish_now (r : ResultCode) : (s.finish r).now = s.now := rfl
@[simp] theorem State.finish_free (r : ResultCode) : (s.finish r).free = s.free := rfl
@[simp] theorem State.finish_mem (r : ResultCode) : (s.finish r).mem = s.mem := rfl
@[simp] theorem State.finish_path (r : ResultCode) : (s.finish r).path = s.path := rfl
@[simp] theorem State.finish_arb (r : ResultCode) : (s.finish r).arb = s.arb := rfl
@[simp] theorem State.finish_sections (r : ResultCode) : (s.finish r).sections = s.sections := rfl
@[simp] theorem State.finish_tracker (r : ResultCode) : (s.finish r).tracker = s.tracker := rfl
@[simp] theorem State.finish_playout (r : ResultCode) : (s.finish r).playout = s.playout := rfl
@[simp] theorem State.finish_mixer (r : ResultCode) : (s.finish r).mixer = s.mixer := rfl
@[simp] theorem State.finish_gather (r : ResultCode) : (s.finish r).gather = s.gather := rfl
@[simp] theorem State.finish_lines (r : ResultCode) : (s.finish r).lines = s.lines := rfl
@[simp] theorem State.finish_report (r : ResultCode) : (s.finish r).report = s.report := rfl

/-! ### setStage -/

@[simp] theorem State.setStage_pending (st : Stage) : (s.setStage st).pending = s.pending := rfl
@[simp] theorem State.setStage_inReset (st : Stage) : (s.setStage st).inReset = s.inReset := rfl
@[simp] theorem State.setStage_now (st : Stage) : (s.setStage st).now = s.now := rfl
@[simp] theorem State.setStage_free (st : Stage) : (s.setStage st).free = s.free := rfl
@[simp] theorem State.setStage_mem (st : Stage) : (s.setStage st).mem = s.mem := rfl
@[simp] theorem State.setStage_path (st : Stage) : (s.setStage st).path = s.path := rfl
@[simp] theorem State.setStage_arb (st : Stage) : (s.setStage st).arb = s.arb := rfl
@[simp] theorem State.setStage_sections (st : Stage) : (s.setStage st).sections = s.sections := rfl
@[simp] theorem State.setStage_tracker (st : Stage) : (s.setStage st).tracker = s.tracker := rfl
@[simp] theorem State.setStage_playout (st : Stage) : (s.setStage st).playout = s.playout := rfl
@[simp] theorem State.setStage_mixer (st : Stage) : (s.setStage st).mixer = s.mixer := rfl
@[simp] theorem State.setStage_gather (st : Stage) : (s.setStage st).gather = s.gather := rfl
@[simp] theorem State.setStage_lines (st : Stage) : (s.setStage st).lines = s.lines := rfl
@[simp] theorem State.setStage_report (st : Stage) : (s.setStage st).report = s.report := rfl

/-! ### planOut -/

@[simp] theorem State.planOut_pending (b : PlanBurst) : (s.planOut b).pending = s.pending := rfl
@[simp] theorem State.planOut_inReset (b : PlanBurst) : (s.planOut b).inReset = s.inReset := rfl
@[simp] theorem State.planOut_now (b : PlanBurst) : (s.planOut b).now = s.now := rfl
@[simp] theorem State.planOut_free (b : PlanBurst) : (s.planOut b).free = s.free := rfl
@[simp] theorem State.planOut_mem (b : PlanBurst) : (s.planOut b).mem = s.mem := rfl
@[simp] theorem State.planOut_path (b : PlanBurst) : (s.planOut b).path = s.path := rfl
@[simp] theorem State.planOut_arb (b : PlanBurst) : (s.planOut b).arb = s.arb := rfl
@[simp] theorem State.planOut_sections (b : PlanBurst) : (s.planOut b).sections = s.sections := rfl
@[simp] theorem State.planOut_tracker (b : PlanBurst) : (s.planOut b).tracker = s.tracker := rfl
@[simp] theorem State.planOut_playout (b : PlanBurst) : (s.planOut b).playout = s.playout := rfl
@[simp] theorem State.planOut_mixer (b : PlanBurst) : (s.planOut b).mixer = s.mixer := rfl
@[simp] theorem State.planOut_gather (b : PlanBurst) : (s.planOut b).gather = s.gather := rfl
@[simp] theorem State.planOut_lines (b : PlanBurst) : (s.planOut b).lines = s.lines := rfl
@[simp] theorem State.planOut_report (b : PlanBurst) : (s.planOut b).report = s.report := rfl

/-! ### respond -/

@[simp] theorem State.respond_pending (r : Response) : (s.respond r).pending = s.pending := rfl
@[simp] theorem State.respond_inReset (r : Response) : (s.respond r).inReset = s.inReset := rfl
@[simp] theorem State.respond_now (r : Response) : (s.respond r).now = s.now := rfl
@[simp] theorem State.respond_free (r : Response) : (s.respond r).free = s.free := rfl
@[simp] theorem State.respond_mem (r : Response) : (s.respond r).mem = s.mem := rfl
@[simp] theorem State.respond_arb (r : Response) : (s.respond r).arb = s.arb := rfl
@[simp] theorem State.respond_plan (r : Response) : (s.respond r).plan = s.plan := rfl
@[simp] theorem State.respond_sections (r : Response) : (s.respond r).sections = s.sections := rfl
@[simp] theorem State.respond_tracker (r : Response) : (s.respond r).tracker = s.tracker := rfl
@[simp] theorem State.respond_playout (r : Response) : (s.respond r).playout = s.playout := rfl
@[simp] theorem State.respond_mixer (r : Response) : (s.respond r).mixer = s.mixer := rfl
@[simp] theorem State.respond_gather (r : Response) : (s.respond r).gather = s.gather := rfl
@[simp] theorem State.respond_lines (r : Response) : (s.respond r).lines = s.lines := rfl
@[simp] theorem State.respond_report (r : Response) : (s.respond r).report = s.report := rfl

/-! ### setPartState -/

@[simp] theorem State.setPartState_pending (p : PartState) : (s.setPartState p).pending = s.pending := rfl
@[simp] theorem State.setPartState_inReset (p : PartState) : (s.setPartState p).inReset = s.inReset := rfl
@[simp] theorem State.setPartState_now (p : PartState) : (s.setPartState p).now = s.now := rfl
@[simp] theorem State.setPartState_free (p : PartState) : (s.setPartState p).free = s.free := rfl
@[simp] theorem State.setPartState_mem (p : PartState) : (s.setPartState p).mem = s.mem := rfl
@[simp] theorem State.setPartState_path (p : PartState) : (s.setPartState p).path = s.path := rfl
@[simp] theorem State.setPartState_arb (p : PartState) : (s.setPartState p).arb = s.arb := rfl
@[simp] theorem State.setPartState_sections (p : PartState) : (s.setPartState p).sections = s.sections := rfl
@[simp] theorem State.setPartState_tracker (p : PartState) : (s.setPartState p).tracker = s.tracker := rfl
@[simp] theorem State.setPartState_playout (p : PartState) : (s.setPartState p).playout = s.playout := rfl
@[simp] theorem State.setPartState_mixer (p : PartState) : (s.setPartState p).mixer = s.mixer := rfl
@[simp] theorem State.setPartState_gather (p : PartState) : (s.setPartState p).gather = s.gather := rfl
@[simp] theorem State.setPartState_lines (p : PartState) : (s.setPartState p).lines = s.lines := rfl
@[simp] theorem State.setPartState_report (p : PartState) : (s.setPartState p).report = s.report := rfl

/-! ### freePort -/

@[simp] theorem State.freePort_pending : s.freePort.pending = s.pending := rfl
@[simp] theorem State.freePort_inReset : s.freePort.inReset = s.inReset := rfl
@[simp] theorem State.freePort_now : s.freePort.now = s.now := rfl
@[simp] theorem State.freePort_free : s.freePort.free = s.free := rfl
@[simp] theorem State.freePort_mem : s.freePort.mem = s.mem := rfl
@[simp] theorem State.freePort_path : s.freePort.path = s.path := rfl
@[simp] theorem State.freePort_plan : s.freePort.plan = s.plan := rfl
@[simp] theorem State.freePort_sections : s.freePort.sections = s.sections := rfl
@[simp] theorem State.freePort_tracker : s.freePort.tracker = s.tracker := rfl
@[simp] theorem State.freePort_playout : s.freePort.playout = s.playout := rfl
@[simp] theorem State.freePort_mixer : s.freePort.mixer = s.mixer := rfl
@[simp] theorem State.freePort_gather : s.freePort.gather = s.gather := rfl
@[simp] theorem State.freePort_lines : s.freePort.lines = s.lines := rfl
@[simp] theorem State.freePort_report : s.freePort.report = s.report := rfl

/-! ### complete -/

@[simp] theorem State.complete_pending (err : Bool) : (s.complete err).pending = s.pending := rfl
@[simp] theorem State.complete_inReset (err : Bool) : (s.complete err).inReset = s.inReset := rfl
@[simp] theorem State.complete_now (err : Bool) : (s.complete err).now = s.now := rfl
@[simp] theorem State.complete_free (err : Bool) : (s.complete err).free = s.free := rfl
@[simp] theorem State.complete_path (err : Bool) : (s.complete err).path = s.path := rfl
@[simp] theorem State.complete_plan (err : Bool) : (s.complete err).plan = s.plan := rfl
@[simp] theorem State.complete_sections (err : Bool) : (s.complete err).sections = s.sections := rfl
@[simp] theorem State.complete_tracker (err : Bool) : (s.complete err).tracker = s.tracker := rfl
@[simp] theorem State.complete_playout (err : Bool) : (s.complete err).playout = s.playout := rfl
@[simp] theorem State.complete_mixer (err : Bool) : (s.complete err).mixer = s.mixer := rfl
@[simp] theorem State.complete_gather (err : Bool) : (s.complete err).gather = s.gather := rfl
@[simp] theorem State.complete_lines (err : Bool) : (s.complete err).lines = s.lines := rfl
@[simp] theorem State.complete_report (err : Bool) : (s.complete err).report = s.report := rfl

/-! ### writeState -/

@[simp] theorem State.writeState_pending : s.writeState.pending = s.pending := rfl
@[simp] theorem State.writeState_inReset : s.writeState.inReset = s.inReset := rfl
@[simp] theorem State.writeState_now : s.writeState.now = s.now := rfl
@[simp] theorem State.writeState_free : s.writeState.free = s.free := rfl
@[simp] theorem State.writeState_mem : s.writeState.mem = s.mem := rfl
@[simp] theorem State.writeState_path : s.writeState.path = s.path := rfl
@[simp] theorem State.writeState_arb : s.writeState.arb = s.arb := rfl
@[simp] theorem State.writeState_sections : s.writeState.sections = s.sections := rfl
@[simp] theorem State.writeState_tracker : s.writeState.tracker = s.tracker := rfl
@[simp] theorem State.writeState_playout : s.writeState.playout = s.playout := rfl
@[simp] theorem State.writeState_mixer : s.writeState.mixer = s.mixer := rfl
@[simp] theorem State.writeState_gather : s.writeState.gather = s.gather := rfl
@[simp] theorem State.writeState_lines : s.writeState.lines = s.lines := rfl
@[simp] theorem State.writeState_report : s.writeState.report = s.report := rfl

/-! ### writeGen -/

@[simp] theorem State.writeGen_pending : s.writeGen.pending = s.pending := rfl
@[simp] theorem State.writeGen_inReset : s.writeGen.inReset = s.inReset := rfl
@[simp] theorem State.writeGen_now : s.writeGen.now = s.now := rfl
@[simp] theorem State.writeGen_free : s.writeGen.free = s.free := rfl
@[simp] theorem State.writeGen_mem : s.writeGen.mem = s.mem := rfl
@[simp] theorem State.writeGen_path : s.writeGen.path = s.path := rfl
@[simp] theorem State.writeGen_arb : s.writeGen.arb = s.arb := rfl
@[simp] theorem State.writeGen_sections : s.writeGen.sections = s.sections := rfl
@[simp] theorem State.writeGen_tracker : s.writeGen.tracker = s.tracker := rfl
@[simp] theorem State.writeGen_playout : s.writeGen.playout = s.playout := rfl
@[simp] theorem State.writeGen_mixer : s.writeGen.mixer = s.mixer := rfl
@[simp] theorem State.writeGen_gather : s.writeGen.gather = s.gather := rfl
@[simp] theorem State.writeGen_lines : s.writeGen.lines = s.lines := rfl
@[simp] theorem State.writeGen_report : s.writeGen.report = s.report := rfl

/-! ### What the setters set -/

@[simp] theorem State.sec_setSec (k : Fin 24) (r : SectionRec) : (s.setSec k r).sec k = r := by
  simp [State.sec, State.setSec]
@[simp] theorem State.sec_setSec_ne {j k : Fin 24} (r : SectionRec) (h : k ≠ j) : (s.setSec k r).sec j = s.sec j := by
  simp [State.sec, State.setSec, h]
@[simp] theorem State.chan_setChan (c : Fin 4) (r : Chan) : (s.setChan c r).chan c = r := by
  simp [State.chan, State.setChan]
@[simp] theorem State.chan_setChan_ne {c d : Fin 4} (r : Chan) (h : c ≠ d) : (s.setChan c r).chan d = s.chan d := by
  simp [State.chan, State.setChan, h]
@[simp] theorem State.brk_setBrk (k : Fin 24) (r : BreakRec) : (s.setBrk k r).brk k = r := by
  simp [State.brk, State.setBrk]
@[simp] theorem State.brk_setBrk_ne {j k : Fin 24} (r : BreakRec) (h : k ≠ j) : (s.setBrk k r).brk j = s.brk j := by
  simp [State.brk, State.setBrk, h]
@[simp] theorem State.armed_setArmed (c : Fin 4) (v : Bool) : (s.setArmed c v).armed c = v := by
  simp [State.armed, State.setArmed]
@[simp] theorem State.grp_setGrp (g : Fin 12) (r : Group) : (s.setGrp g r).grp g = r := by
  simp [State.grp, State.setGrp]
@[simp] theorem State.grp_setGrp_ne {g h : Fin 12} (r : Group) (n : g ≠ h) : (s.setGrp g r).grp h = s.grp h := by
  simp [State.grp, State.setGrp, n]
@[simp] theorem State.line_setLine (k : Fin 6) (r : LineRec) : (s.setLine k r).line k = r := by
  simp [State.line, State.setLine]
@[simp] theorem State.line_setLine_ne {j k : Fin 6} (r : LineRec) (h : k ≠ j) : (s.setLine k r).line j = s.line j := by
  simp [State.line, State.setLine, h]
@[simp] theorem State.setChan_waitOrder (c : Fin 4) (r : Chan) : (s.setChan c r).playout.waitOrder = s.playout.waitOrder := rfl
@[simp] theorem State.setBrk_armed (k : Fin 24) (r : BreakRec) : (s.setBrk k r).mixer.armed = s.mixer.armed := rfl
@[simp] theorem State.setArmed_recs (c : Fin 4) (v : Bool) : (s.setArmed c v).mixer.recs = s.mixer.recs := rfl

end Sys2Proof.Machine
end

