-- ==== Sys2Proof/Laws/Frame.lean ====
section
/-! SUPPORT. Frames: how they compose, what each basic update leaves unchanged, and that the end of every command
(`State.settle`) changes no piece of state that a frame names. -/

namespace Sys2Proof.Machine

theorem Same.refl (p : Part) (s : State) : Same p s s := by
  cases p <;> simp [Same]

theorem Same.trans {p : Part} {s t u : State} (h : Same p s t) (g : Same p t u) : Same p s u := by
  cases p <;> simp only [Same] at h g ⊢ <;> grind

theorem Frame.refl (l : List Part) (s : State) : Frame l s s := fun p _ => Same.refl p s

/-- Two steps that change the same pieces. -/
theorem Frame.trans {l : List Part} {s t u : State} (h : Frame l s t) (g : Frame l t u) : Frame l s u :=
  fun p hp => (h p hp).trans (g p hp)

/-- A frame may list more. -/
theorem Frame.mono {l m : List Part} {s t : State} (h : Frame l s t) (lm : ∀ p, p ∈ l → p ∈ m) : Frame m s t :=
  fun p hp => h p fun hl => hp (lm p hl)

/-- Two steps in a row change what either changes. -/
theorem Frame.append {l m : List Part} {s t u : State} (h : Frame l s t) (g : Frame m t u) : Frame (l ++ m) s u :=
  (h.mono fun _ hp => List.mem_append_left m hp).trans (g.mono fun _ hp => List.mem_append_right l hp)

/-- A step folded over a list changes what each step may change. -/
theorem Frame.foldl {α : Type} {l : List Part} (f : State → α → State) (h : ∀ s a, Frame l s (f s a)) (xs : List α)
    (s : State) : Frame l s (xs.foldl f s) := by
  induction xs generalizing s with
  | nil => exact Frame.refl l s
  | cons x xs ih => exact (h s x).trans (ih (f s x))

theorem Frame.ite {l : List Part} {c : Prop} [Decidable c] {s t u : State} (h : Frame l s t) (g : Frame l s u) :
    Frame l s (if c then t else u) := by
  split <;> assumption

/-- A list of pieces lies within another, as a check. -/
def Part.within (l m : List Part) : Bool := l.all fun p => m.contains p

theorem Frame.wide {l m : List Part} {s t : State} (h : Frame l s t) (lm : Part.within l m = true) : Frame m s t :=
  h.mono fun p hp => by
    have := List.all_eq_true.mp lm p hp
    simpa using this

/-! ### Basic updates -/

/-- What makes a frame of the empty list out of the fields. -/
theorem Frame.of_fields {l : List Part} {s t : State} (h : ∀ p, p ∉ l → Same p s t) : Frame l s t := h

section
variable (s : State)

/-- The report unit changed in what no frame names. -/
theorem Frame.report {s : State} {r : Report} (h : ∃ d w q, r = { s.report with dirty := d, lastWritten := w, req := q }) :
    Frame [] s { s with report := r } := by
  obtain ⟨d, w, q, rfl⟩ := h
  intro p _
  cases p <;> simp [Same, State.chan, State.line]

theorem State.mark_frame (m : Nat) : Frame [] s (s.mark m) := by
  refine Frame.report ?_
  split <;> exact ⟨_, _, _, rfl⟩

theorem State.markIf_frame (b : Bool) (m : Nat) : Frame [] s (s.markIf b m) := by
  refine Frame.report ?_
  split <;> exact ⟨_, _, _, rfl⟩

/-- Choosing a LOG burst changes the presented burst alone. -/
theorem Report.choose_eq (r : Report) : ∃ q, r.choose = { r with req := q } := by
  unfold Report.choose
  split
  · split
    · exact ⟨_, rfl⟩
    · split
      · exact ⟨_, rfl⟩
      · exact ⟨r.req, rfl⟩
  · exact ⟨r.req, rfl⟩

/-- A record falling due changes the log queue and the lost count as R179 says, and the presented burst. -/
theorem Report.enqueue_eq (r : Report) (e : LogRec) : ∃ q, r.enqueue e =
    { r with queue := (fallsDue r (r.queue, r.lost) e).1, lost := (fallsDue r (r.queue, r.lost) e).2, req := q } := by
  unfold Report.enqueue fallsDue Report.room
  by_cases h : r.unconsumedNum + r.queue.length + 1 < r.logLen
  · obtain ⟨q, hq⟩ := Report.choose_eq { r with queue := r.queue ++ [e] }
    exact ⟨q, by simp [h, hq]⟩
  · obtain ⟨q, hq⟩ := Report.choose_eq { r with lost := bump r.lost }
    exact ⟨q, by simp [h, hq]⟩

theorem State.log_frame (k : LogKind) (n : Nat) (d1 d2 : Word) : Frame [.logQueue, .lostCount] s (s.log k n d1 d2) := by
  unfold State.log
  split
  · obtain ⟨q, hq⟩ := Report.enqueue_eq s.report ⟨k, n, ms32 s.now, d1, d2⟩
    rw [hq]
    intro p hp
    cases p <;> first | exact absurd (by decide) hp | simp [Same, State.chan, State.line]
  · exact Frame.refl _ s

/-- The log after a record falls due (R162, R179). -/
theorem State.log_logNow (k : LogKind) (n : Nat) (d1 d2 : Word) :
    (s.log k n d1 d2).logNow = s.logged [s.record k n d1 d2] := by
  unfold State.log State.logNow State.logged State.record
  split
  · obtain ⟨q, hq⟩ := Report.enqueue_eq s.report ⟨k, n, ms32 s.now, d1, d2⟩
    simp [hq]
  · rfl

theorem State.memError_frame : Frame [.memErrors] s s.memError := by
  unfold State.memError
  split <;> (intro p hp; cases p <;> first | exact absurd (by decide) hp | simp [Same, State.chan, State.line])

theorem State.finishWith_frame (r : ResultCode) (a b : Nat) : Frame [.change] s (s.finishWith r a b) := by
  unfold State.finishWith
  split <;> (intro p hp; cases p <;> first | exact absurd (by decide) hp | simp [Same, State.chan, State.line])

theorem State.finish_frame (r : ResultCode) : Frame [.change] s (s.finish r) := s.finishWith_frame r 0 0

theorem State.setStage_frame (st : Stage) : Frame [.change] s (s.setStage st) := by
  unfold State.setStage
  split <;> (intro p hp; cases p <;> first | exact absurd (by decide) hp | simp [Same, State.chan, State.line])

theorem State.planOut_frame (b : PlanBurst) : Frame [] s (s.planOut b) := by
  intro p _
  cases p <;> simp [Same, State.planOut, State.chan, State.line]

theorem State.respond_frame (r : Response) : Frame [.transaction, .response] s (s.respond r) := by
  intro p hp
  cases p <;> first | exact absurd (by decide) hp | simp [Same, State.respond, State.chan, State.line]

theorem State.freePort_frame : Frame [] s s.freePort := by
  intro p _
  cases p <;> simp [Same, State.chan, State.line]

theorem State.complete_frame (err : Bool) : Frame [.memory] s (s.complete err) := by
  intro p hp
  cases p <;> first | exact absurd (by decide) hp | simp [Same, State.chan, State.line]

/-- After an error a completed burst has changed nothing that a frame names. -/
theorem State.complete_error_frame : Frame [] s (s.complete true) := by
  intro p _
  cases p <;> simp [Same, State.complete, State.freePort, State.chan, State.line]

theorem State.setSec_frame (k : Fin 24) (r : SectionRec) : Frame [.sections] s (s.setSec k r) := by
  intro p hp
  cases p <;> first | exact absurd (by decide) hp | simp [Same, State.chan, State.line]

theorem State.setChan_frame (c : Fin 4) (r : Chan) : Frame [.channels] s (s.setChan c r) := by
  intro p hp
  cases p <;> first | exact absurd (by decide) hp | simp [Same, State.line]

/-- A channel record replaced by one that differs in what its clip fetches have presented. -/
theorem State.setChan_still_frame (c : Fin 4) (r : Chan) (h : r.still = (s.chan c).still) : Frame [] s (s.setChan c r) := by
  intro p _
  cases p <;> try simp [Same, State.line]
  intro d
  by_cases hd : c = d
  · subst hd; simpa using h
  · rw [State.chan_setChan_ne s r hd]

theorem State.setBrk_frame (k : Fin 24) (r : BreakRec) : Frame [.breakIns] s (s.setBrk k r) := by
  intro p hp
  cases p <;> first | exact absurd (by decide) hp | simp [Same, State.chan, State.line]

theorem State.setArmed_frame (c : Fin 4) (v : Bool) : Frame [.missStates] s (s.setArmed c v) := by
  intro p hp
  cases p <;> first | exact absurd (by decide) hp | simp [Same, State.chan, State.line]

theorem State.setGrp_frame (g : Fin 12) (r : Group) : Frame [.groups] s (s.setGrp g r) := by
  intro p hp
  cases p <;> first | exact absurd (by decide) hp | simp [Same, State.setGrp, State.chan, State.line]

theorem State.setLine_frame (k : Fin 6) (r : LineRec) : Frame [.lines, .requests] s (s.setLine k r) := by
  intro p hp
  cases p <;> first | exact absurd (by decide) hp | simp [Same, State.chan]

theorem State.setPartState_frame (ps : PartState) : Frame [.partState] s (s.setPartState ps) := by
  intro p hp
  cases p <;> first | exact absurd (by decide) hp | simp [Same, State.setPartState, State.chan, State.line]

/-! ### The end of every command -/

theorem Chan.presents_still (ch : Chan) (f : ClipFetch) : (ch.presents f).still = ch.still := by
  unfold Chan.presents
  cases f.what with
  | list k => rfl
  | block x j =>
    simp only [Chan.still, Chan.mk.injEq, true_and, and_true]
    apply Table.ext_get
    intro i
    simp only [Table.get_ofFn, Table.get_set]
    split
    · rename_i h
      subst h
      simp only [Slot.still, Chan.slot, Slot.mk.injEq, true_and, and_true]
      by_cases h : (ch.window.get (slotNo x)).st = .empty
      · simp [h]
      · simp [h]
    · rfl

theorem State.presentClip_frame : Frame [] s s.presentClip := by
  unfold State.presentClip
  split
  · exact Frame.refl _ s
  · split
    · rename_i f _
      have h := s.setChan_still_frame f.ch ((s.chan f.ch).presents f) (Chan.presents_still _ f)
      refine h.trans ?_
      intro p _
      cases p <;> simp [Same, State.setChan, State.chan, State.line]
    · exact Frame.refl _ s

theorem State.presentLog_frame : Frame [] s s.presentLog := by
  refine Frame.report ?_
  split
  · obtain ⟨q, hq⟩ := Report.choose_eq s.report
    exact ⟨_, _, q, hq⟩
  · exact ⟨_, _, _, rfl⟩

theorem State.noteWaits_frame : Frame [] s s.noteWaits := by
  intro p _
  cases p <;> simp [Same, State.noteWaits, State.chan, State.line]

theorem State.presentAll_frame : Frame [] s s.presentAll :=
  (s.presentClip_frame.trans (State.presentLog_frame _)).trans (State.noteWaits_frame _)

theorem State.reportAfter_eq (r : Requester) :
    ∃ d w q, s.reportAfter r = { s.report with dirty := d, lastWritten := w, req := q } := by
  unfold State.reportAfter
  cases r <;> try exact ⟨_, _, _, rfl⟩
  simp only
  split <;> exact ⟨_, _, _, rfl⟩

/-- A waiting read that is granted the port is the same transaction. -/
theorem onPortTxn_still (h : s.readReady = true) :
    (onPortTxn s.path.txn).map Txn.still = s.path.txn.map Txn.still := by
  unfold State.readReady at h
  unfold onPortTxn
  split at h
  · rename_i r hr
    simp only [hr, Option.map_some, Option.some.injEq]
    simp only [Bool.and_eq_true, decide_eq_true_eq] at h
    obtain ⟨b, k, a, v, m, ph⟩ := r
    cases ph <;> simp_all [Txn.still, ReadPhase.waits]
  · simp at h

theorem State.grant_frame (r : Requester) : Frame [] s (s.grant r) := by
  obtain ⟨d, w, q, hr⟩ := s.reportAfter_eq r
  intro p _
  cases p <;> simp only [Same, State.grant, hr, State.chan, State.line, and_self, implies_true]
  split
  · rename_i h
    simp only [Bool.and_eq_true, decide_eq_true_eq] at h
    exact onPortTxn_still s h.2
  · rfl

theorem State.arbitrate_frame : Frame [] s s.arbitrate := by
  unfold State.arbitrate
  split
  · exact Frame.refl _ s
  · split
    · exact s.grant_frame _
    · exact Frame.refl _ s

/-- The end of every command changes no piece of state that a frame names. -/
theorem State.settle_frame : Frame [] s s.settle :=
  (s.presentAll_frame.trans (State.arbitrate_frame _)).trans (State.presentAll_frame _)

/-- What a command does: nothing where it cannot occur, otherwise its effect and the end of every command. -/
theorem act_next (ok : Bool) (t : State) (hr : s.inReset = false) (ho : ok = true) : act s ok t = .next t.settle := by
  simp [act, hr, ho]

theorem act_frame {l : List Part} {s t u : State} {ok : Bool} (h : Frame l s t) (e : act s ok t = .next u) : Frame l s u := by
  unfold act at e
  cases e
  split
  · exact h.trans ((State.settle_frame t).mono (by simp))
  · exact Frame.refl l s

end

end Sys2Proof.Machine
end

