-- ==== Sys2Proof/Laws/Playout.lean ====
section
/-! SUPPORT. What the operations of the break-in mixer, the playout unit and the incident unit may change. -/

namespace Sys2Proof.Machine

variable (s : State)

/-! ### The break-in mixer -/

theorem State.putBrk_frame (k : Fin 24) (b : BreakRec) : Frame [.breakIns] s (s.putBrk k b) :=
  (s.setBrk_frame k b).trans ((State.markIf_frame _ _ _).mono (by simp))

theorem State.logDropped_frame (k : Fin 24) (e c : Fin 4) (p : Nat) : Frame mixParts s (s.logDropped k e c p) :=
  (s.log_frame _ _ _ _).wide rfl

theorem State.logRefused_frame (k : Fin 24) (c : Fin 4) (p : Nat) (b : BreakRec) : Frame mixParts s (s.logRefused k c p b) :=
  (s.log_frame _ _ _ _).wide rfl

theorem State.dropSuspended_frame (k : Fin 24) (e : Option (Fin 4)) (c : Fin 4) (p : Nat) :
    Frame mixParts s (s.dropSuspended k e c p) := by
  unfold State.dropSuspended
  split
  · exact s.logDropped_frame _ _ _ _
  · exact Frame.refl _ s

theorem joinSection_frame (c : Fin 4) (p : Nat) (k : Fin 24) : Frame mixParts s (joinSection c p s k) := by
  unfold joinSection
  have h (b : BreakRec) : Frame mixParts s (s.putBrk k b) := (s.putBrk_frame k b).wide rfl
  dsimp only
  split
  · exact Frame.refl _ s
  · split
    · exact h _
    · split
      · exact (h _).trans (State.dropSuspended_frame _ _ _ _ _)
      · split
        · exact (h _).trans (State.dropSuspended_frame _ _ _ _ _)
        · exact s.logRefused_frame _ _ _ _

theorem State.join_frame (c : Fin 4) (m : SecSet) (p : Nat) : Frame mixParts s (s.join c m p) :=
  (Frame.foldl _ (fun s k => joinSection_frame s c p k) _ s).trans ((State.setArmed_frame _ _ _).wide rfl)

theorem releaseSection_frame (c : Fin 4) (k : Fin 24) : Frame [.breakIns] s (releaseSection c s k) := by
  unfold releaseSection
  dsimp only
  split
  · split <;> exact s.putBrk_frame _ _
  · split
    · exact s.putBrk_frame _ _
    · exact Frame.refl _ s

theorem State.release_frame (c : Fin 4) : Frame [.breakIns] s (s.release c) :=
  Frame.foldl _ (fun s k => releaseSection_frame s c k) _ s

theorem State.clearSection_frame (k : Fin 24) : Frame [.breakIns] s (s.clearSection k) := s.putBrk_frame _ _

theorem State.clearAll_frame : Frame [.breakIns, .missStates] s s.clearAll := by
  have h := Frame.foldl State.clearSection (fun s k => State.clearSection_frame s k) (List.finRange 24) s
  refine (h.wide rfl).trans ?_
  intro p hp
  cases p <;> first | exact absurd (by decide) hp | simp [Same, State.clearAll, State.chan, State.line]

theorem State.stepGains_frame (m : SecSet) : Frame [.breakIns] s (s.stepGains m) :=
  Frame.foldl _ (fun s k => State.putBrk_frame s k _) _ s

/-! ### The playout unit -/

theorem State.setRequest_frame (k : Fin 6) (st : ReqStatus) : Frame [.requests] s (s.setRequest k st) := by
  have h : Frame [.requests] s (s.setLine k { s.line k with request := st }) := by
    intro p hp
    cases p <;> first | exact absurd (by decide) hp | simp [Same, State.chan]
    intro j
    by_cases hj : k = j
    · subst hj; simp [LineRec.still]
    · rw [State.line_setLine_ne s _ hj]
  exact h.trans ((State.markIf_frame _ _ _).mono (by simp))

theorem State.tellOwner_frame (o : Option Owner) (st : ReqStatus) : Frame [.requests] s (s.tellOwner o st) := by
  unfold State.tellOwner
  split
  · exact s.setRequest_frame _ _
  · exact Frame.refl _ s

theorem State.logChan_frame (c : Fin 4) (o : ChanState) (u : ChanCause) :
    Frame [.logQueue, .lostCount] s (s.logChan c o u) := s.log_frame _ _ _ _

theorem State.putChan_frame (c : Fin 4) (r : Chan) : Frame [.channels] s (s.putChan c r) :=
  (s.setChan_frame c r).trans ((State.markIf_frame _ _ _).mono (by simp))

theorem State.putChanState_frame (c : Fin 4) (st : ChanState) (u : ChanCause) :
    Frame [.channels, .logQueue, .lostCount] s (s.putChanState c st u) :=
  ((s.putChan_frame c _).wide rfl).trans ((State.logChan_frame _ _ _ _).wide rfl)

theorem State.requestLine_frame (c : Fin 4) (k : Nat) : Frame [.channels] s (s.requestLine c k) := by
  unfold State.requestLine
  dsimp only
  split
  · exact s.setChan_frame _ _
  · exact Frame.refl _ s

theorem State.enterLine_frame (c : Fin 4) (k : Nat) : Frame [.channels] s (s.enterLine c k) :=
  (s.setChan_frame c _).trans (State.requestLine_frame _ _ _)

theorem State.nextEntry_frame (c : Fin 4) : Frame [.channels] s (s.nextEntry c) := by
  unfold State.nextEntry
  dsimp only
  split
  · exact (s.setChan_frame c _).trans (State.enterLine_frame _ _ _)
  · exact s.setChan_frame c _

/-- A begin (R67). -/
theorem State.beginNow_frame (c : Fin 4) (st : Start) (o : ChanState) (u : ChanCause) :
    Frame playParts s (s.beginNow c st o u) := by
  unfold State.beginNow
  dsimp only
  have h1 := (s.putChan_frame c ((s.chan c).begun st (s.alignRow (s.chan c).defaults.ramp))).wide
    (m := playParts) rfl
  have h2 := (h1.trans ((State.requestLine_frame _ c 0).wide rfl)).trans ((State.requestLine_frame _ c 1).wide rfl)
  have h3 := (h2.trans ((State.join_frame _ c st.mask st.prio).wide rfl)).trans ((State.logChan_frame _ c o u).wide rfl)
  split
  · exact h3.trans ((State.finish_frame _ _).wide rfl)
  · exact h3

theorem beginWaiting_frame (c : Fin 4) : Frame playParts s (beginWaiting s c) := by
  unfold beginWaiting
  split
  · exact s.beginNow_frame _ _ _ _
  · exact Frame.refl _ s

/-- The fence state and the order of waiting replaced. -/
theorem fenceOrder_frame (f : Fence) (o : List (Fin 4)) :
    Frame [.fence, .startOrder] s { s with path := { s.path with fence := f }, playout := { s.playout with waitOrder := o } } := by
  intro p hp
  cases p <;> first | exact absurd (by decide) hp | simp [Same, State.chan, State.line]

theorem order_frame (o : List (Fin 4)) : Frame [.startOrder] s { s with playout := { s.playout with waitOrder := o } } := by
  intro p hp
  cases p <;> first | exact absurd (by decide) hp | simp [Same, State.chan, State.line]

theorem fence_frame (f : Fence) : Frame [.fence] s { s with path := { s.path with fence := f } } := by
  intro p hp
  cases p <;> first | exact absurd (by decide) hp | simp [Same, State.chan, State.line]

theorem State.fenceUp_frame : Frame playParts s s.fenceUp :=
  ((fenceOrder_frame s _ _).wide rfl).trans (Frame.foldl _ (fun s c => beginWaiting_frame s c) _ _)

theorem State.raiseFence_frame : Frame playParts s s.raiseFence := by
  unfold State.raiseFence
  split
  · split
    · exact (fence_frame s _).wide rfl
    · exact s.fenceUp_frame
  · exact Frame.refl _ s

theorem State.requestBegin_frame (c : Fin 4) (st : Start) : Frame playParts s (s.requestBegin c st) := by
  unfold State.requestBegin
  dsimp only
  split
  · exact s.beginNow_frame _ _ _ _
  · exact (((s.setChan_frame c _).wide rfl).trans ((order_frame _ _).wide rfl)).trans (State.raiseFence_frame _)

theorem State.checkFence_frame : Frame [.fence] s s.checkFence := by
  unfold State.checkFence
  split
  · exact fence_frame s _
  · exact Frame.refl _ s

theorem State.handout_frame (c : Fin 4) : Frame playParts s (s.handout c) := by
  unfold State.handout
  split
  · exact (((s.setChan_frame c _).wide rfl).trans ((State.tellOwner_frame _ _ _).wide rfl)).trans
      (State.requestBegin_frame _ _ _)
  · exact (order_frame s _).wide rfl

/-- The end of a live use (R73). -/
theorem State.endUse_frame (c : Fin 4) (u : ChanCause) : Frame playParts s (s.endUse c u) := by
  unfold State.endUse
  dsimp only
  exact ((((((s.release_frame c).wide rfl).trans ((State.tellOwner_frame _ _ _).wide rfl)).trans
    ((State.putChan_frame _ c _).wide rfl)).trans ((State.logChan_frame _ _ _ _).wide rfl)).trans
    (State.handout_frame _ c)).trans ((State.checkFence_frame _).wide rfl)

theorem State.cancelWaiting_frame (c : Fin 4) (u : ChanCause) : Frame playParts s (s.cancelWaiting c u) := by
  unfold State.cancelWaiting
  dsimp only
  exact ((((s.setChan_frame c _).wide rfl).trans ((State.tellOwner_frame _ _ _).wide rfl)).trans
    (State.handout_frame _ c)).trans ((State.checkFence_frame _).wide rfl)

theorem State.displace_frame (c : Fin 4) (st : Start) : Frame playParts s (s.displace c st) := by
  unfold State.displace
  split
  · exact ((s.setChan_frame c _).wide rfl).trans ((State.setRequest_frame _ _ _).wide rfl)
  · split
    · exact (s.finish_frame _).wide rfl
    · exact Frame.refl _ s

theorem State.takeover_frame (c : Fin 4) (st : Start) : Frame playParts s (s.takeover c st) := by
  unfold State.takeover
  dsimp only
  split
  · refine Frame.trans ?_ (State.beginNow_frame _ _ _ _ _)
    split
    · exact ((s.release_frame c).wide rfl).trans (State.displace_frame _ _ _)
    · exact (s.release_frame c).wide rfl
  · split
    · exact ((s.setChan_frame c _).wide rfl).trans (State.displace_frame _ _ _)
    · exact Frame.refl _ s

theorem State.listError_frame (c : Fin 4) (r : ListReason) : Frame playParts s (s.listError c r) :=
  ((s.log_frame _ _ _ _).wide rfl).trans (State.endUse_frame _ _ _)

theorem State.passMark_frame (c : Fin 4) (tag e : Nat) : Frame playParts s (s.passMark c tag e) :=
  ((s.putChan_frame c _).wide rfl).trans ((State.log_frame _ _ _ _ _).wide rfl)

theorem actMarker_frame (c : Fin 4) (m : Marker) : Frame playParts s (actMarker c s m) := by
  unfold actMarker
  split
  · exact s.passMark_frame _ _ _
  · exact (s.putChanState_frame _ _ _).wide rfl

theorem State.attachMarker_frame (c : Fin 4) (m : Marker) : Frame playParts s (s.attachMarker c m) := by
  unfold State.attachMarker
  dsimp only
  split
  · exact (s.setChan_frame c _).wide rfl
  · exact actMarker_frame s c m

theorem State.assignBlock_frame (c : Fin 4) (src len : Nat) : Frame playParts s (s.assignBlock c src len) := by
  unfold State.assignBlock
  dsimp only
  split
  · exact (s.setChan_frame c _).wide rfl
  · exact ((s.setChan_frame c _).wide rfl).trans ((State.nextEntry_frame _ c).wide rfl)

theorem State.meetEnd_frame (c : Fin 4) : Frame playParts s (s.meetEnd c) := by
  unfold State.meetEnd
  dsimp only
  split
  · exact (s.setChan_frame c _).wide rfl
  · split
    · exact (s.putChan_frame c _).wide rfl
    · split
      · exact ((s.setChan_frame c _).wide rfl).trans (State.endUse_frame _ _ _)
      · exact (s.setChan_frame c _).wide rfl

theorem State.meetHold_frame (c : Fin 4) : Frame playParts s (s.meetHold c) :=
  ((s.attachMarker_frame c _).trans ((State.nextEntry_frame _ c).wide rfl)).trans ((State.setChan_frame _ c _).wide rfl)

theorem State.takeEntry_frame (c : Fin 4) (e : ListEntry) : Frame playParts s (s.takeEntry c e) := by
  unfold State.takeEntry
  dsimp only
  split
  · split
    · exact (s.nextEntry_frame c).wide rfl
    · split
      · exact s.assignBlock_frame _ _ _
      · exact s.listError_frame _ _
  · exact (s.attachMarker_frame c _).trans ((State.nextEntry_frame _ c).wide rfl)
  · exact s.meetHold_frame c
  · exact s.meetEnd_frame c
  · exact s.listError_frame _ _

theorem walkFor_frame (c : Fin 4) (u fuel : Nat) : Frame playParts s (walkFor c u fuel s) := by
  induction fuel generalizing s with
  | zero => exact Frame.refl _ s
  | succ n ih =>
    unfold walkFor
    dsimp only
    split
    · exact Frame.refl _ s
    · split
      · exact s.listError_frame _ _
      · split
        · exact s.listError_frame _ _
        · split
          · exact Frame.refl _ s
          · split
            · exact s.listError_frame _ _
            · exact (s.takeEntry_frame c _).trans (ih _)

theorem State.walk_frame (c : Fin 4) : Frame playParts s (s.walk c) := walkFor_frame s c _ _

theorem advanceChan_frame (c : Fin 4) : Frame playParts s (advanceChan s c) := by
  unfold advanceChan
  dsimp only
  split
  · exact Frame.refl _ s
  · split
    · exact s.endUse_frame _ _
    · have h := ((s.setChan_frame c (s.chan c).movedOn).wide (m := playParts) rfl).trans
        (Frame.foldl (actMarker c) (fun s m => actMarker_frame s c m) ((s.chan c).movedOn.slot (s.chan c).i).marks _)
      split
      · exact h.trans (State.endUse_frame _ _ _)
      · split
        · exact (h.trans ((State.putChanState_frame _ _ _ _).wide rfl)).trans (State.walk_frame _ _)
        · exact h.trans (State.walk_frame _ _)

theorem handleChan_frame (d : Nat) (s : State) (c : Fin 4) : Frame playParts s (handleChan d s c) :=
  ((State.stepGains_frame _ _).wide rfl).trans (advanceChan_frame _ _)

theorem draw_frame : Frame [.draws] s { s with free := s.free + 1 } := by
  intro p hp
  cases p <;> first | exact absurd (by decide) hp | simp [Same, State.chan, State.line]

/-- A block-time event (R51) touches the channels and the sections' break-ins, never the tracker or memory. -/
theorem State.blockTime_frame : Frame blockParts s s.blockTime := by
  unfold State.blockTime
  exact (((draw_frame s).wide rfl).trans
    ((Frame.foldl _ (fun s c => handleChan_frame _ s c) (List.finRange 4) _).wide (m := blockParts) rfl)).trans
    ((State.stepGains_frame _ _).wide rfl)

theorem State.stopAll_frame : Frame playParts s s.stopAll := by
  unfold State.stopAll
  dsimp only
  have h1 := ((s.clearAll_frame).wide (m := playParts) rfl).trans
    (Frame.foldl stopChan (fun s c => (State.putChan_frame s c _).wide rfl) (List.finRange 4) _)
  have h2 := h1.trans (Frame.foldl dropRequest (fun s k => (State.setRequest_frame s k _).wide rfl) (List.finRange 6) _)
  exact (h2.trans ((order_frame _ _).wide rfl)).trans ((State.checkFence_frame _).wide rfl)

theorem State.hostStart_frame (c a : Nat) (m : SecSet) (p r : Nat) : Frame playParts s (s.hostStart c a m p r) := by
  unfold State.hostStart
  split
  · exact (s.finish_frame _).wide rfl
  · dsimp only
    split
    · exact (s.finish_frame _).wide rfl
    · split
      · exact ((s.setStage_frame _).wide rfl).trans (State.requestBegin_frame _ _ _)
      · split
        · exact ((s.setStage_frame _).wide rfl).trans (State.takeover_frame _ _ _)
        · split
          · exact ((s.setChan_frame _ _).wide rfl).trans ((State.finish_frame _ _).wide rfl)
          · exact (s.finish_frame _).wide rfl

theorem State.lineRequest_frame (k : Fin 6) (c a : Nat) (m : SecSet) (p r : Nat) :
    Frame playParts s (s.lineRequest k c a m p r).1 := by
  unfold State.lineRequest
  split
  · exact Frame.refl _ s
  · dsimp only
    split
    · exact Frame.refl _ s
    · split
      · exact s.requestBegin_frame _ _
      · split
        · exact s.takeover_frame _ _
        · exact (s.setChan_frame _ _).wide rfl

theorem State.withdrawRequest_frame (k : Fin 6) (c : Fin 4) : Frame playParts s (s.withdrawRequest k c) := by
  unfold State.withdrawRequest
  dsimp only
  split
  · exact s.endUse_frame _ _
  · split
    · exact s.cancelWaiting_frame _ _
    · exact (s.setChan_frame _ _).wide rfl

theorem State.hostStop_frame (c : Nat) : Frame playParts s (s.hostStop c) := by
  unfold State.hostStop
  split
  · exact (s.finish_frame _).wide rfl
  · split
    · exact (s.endUse_frame _ _).trans ((State.finish_frame _ _).wide rfl)
    · split
      · exact (s.cancelWaiting_frame _ _).trans ((State.finish_frame _ _).wide rfl)
      · exact (s.finish_frame _).wide rfl

theorem State.hostContinue_frame (c : Nat) : Frame playParts s (s.hostContinue c) := by
  unfold State.hostContinue
  split
  · exact (s.finish_frame _).wide rfl
  · split
    · exact ((((s.setChan_frame _ _).wide rfl).trans ((State.putChanState_frame _ _ _ _).wide rfl)).trans
        ((State.finish_frame _ _).wide rfl)).trans (State.walk_frame _ _)
    · exact (s.finish_frame _).wide rfl

/-! ### The incident unit -/

theorem State.putLine_frame (k : Fin 6) (l : LineRec) : Frame [.lines, .requests] s (s.putLine k l) :=
  (s.setLine_frame k l).trans ((State.markIf_frame _ _ _).mono (by simp))

theorem State.logLine_frame (k : Fin 6) (o : LineState) (u : LineCause) :
    Frame [.logQueue, .lostCount] s (s.logLine k o u) := s.log_frame _ _ _ _

theorem State.logRefusedAction_frame (k : Fin 6) (j : Nat) (a : Action) (r : Nat) :
    Frame [.logQueue, .lostCount] s (s.logRefusedAction k j a r) := s.log_frame _ _ _ _

theorem State.requestBreakin_frame (k : Fin 6) (j : Fin 3) : Frame lineParts s (s.requestBreakin k j) := by
  unfold State.requestBreakin
  dsimp only
  split
  · have h (l : LineRec) (c a : Nat) (m : SecSet) (p r : Nat) (st : ReqStatus) :
        Frame lineParts s (((s.setLine k l).lineRequest k c a m p r).1.setRequest k st) :=
      (((s.setLine_frame k _).wide rfl).trans ((State.lineRequest_frame _ k _ _ _ _ _).wide rfl)).trans
        ((State.setRequest_frame _ k _).wide rfl)
    split
    · exact (h _ _ _ _ _ _ _).trans ((State.logRefusedAction_frame _ _ _ _ _).wide rfl)
    · exact h _ _ _ _ _ _ _
  · exact Frame.refl _ s

theorem handleAction_frame (k : Fin 6) (j : Fin 3) : Frame lineParts s (handleAction k s j) := by
  unfold handleAction
  dsimp only
  have h (a : Action) (r : Nat) : Frame lineParts s (s.logRefusedAction k j.val a r) :=
    (s.logRefusedAction_frame _ _ _ _).wide rfl
  split
  · exact Frame.refl _ s
  · split
    · split
      · exact s.requestBreakin_frame k j
      · exact Frame.refl _ s
    · exact h _ _
  · split
    · exact Frame.refl _ s
    · exact h _ _
  · split
    · exact Frame.refl _ s
    · exact h _ _
  · exact h _ _

theorem State.activateLine_frame (k : Fin 6) : Frame lineParts s (s.activateLine k) :=
  (((s.putLine_frame k _).wide rfl).trans (Frame.foldl _ (fun s j => handleAction_frame s k j) _ _)).trans
    ((State.logLine_frame _ _ _ _).wide rfl)

theorem State.withdrawLine_frame (k : Fin 6) : Frame lineParts s (s.withdrawLine k) := by
  unfold State.withdrawLine
  dsimp only
  refine Frame.trans ?_ ((State.putLine_frame _ k _).wide rfl)
  have h := (s.putLine_frame k { s.line k with state := .quiet, deadline := none }).wide (m := lineParts) rfl
  split
  · split
    · exact h.trans ((State.withdrawRequest_frame _ _ _).wide rfl)
    · exact h
  · exact h

theorem State.rerequest_frame (k : Fin 6) : Frame lineParts s (s.rerequest k) := by
  unfold State.rerequest
  dsimp only
  split
  · split
    · exact s.requestBreakin_frame _ _
    · exact Frame.refl _ s
  · exact Frame.refl _ s

theorem State.lineInput_frame (k : Fin 6) : Frame lineParts s (s.lineInput k) := by
  unfold State.lineInput
  dsimp only
  have h (l : LineRec) : Frame lineParts s (s.putLine k l) := (s.putLine_frame k l).wide rfl
  split
  · exact (h _).trans ((State.logLine_frame _ _ _ _).wide rfl)
  · exact ((h _).trans ((State.log_frame _ _ _ _ _).wide rfl)).trans ((State.logLine_frame _ _ _ _).wide rfl)
  · split
    · exact (s.withdrawLine_frame k).trans ((State.logLine_frame _ _ _ _).wide rfl)
    · exact (h _).trans ((State.logLine_frame _ _ _ _).wide rfl)
  · exact ((h _).trans (State.rerequest_frame _ k)).trans ((State.logLine_frame _ _ _ _).wide rfl)
  · exact Frame.refl _ s

theorem State.inputChange_frame (k : Fin 6) (high : Bool) : Frame lineParts s (s.inputChange k high) := by
  unfold State.inputChange
  dsimp only
  split
  · exact ((s.setLine_frame k _).wide rfl).trans (State.lineInput_frame _ k)
  · exact (s.setLine_frame k _).wide rfl

theorem State.hostAck_frame (n : Nat) : Frame lineParts s (s.hostAck n) := by
  unfold State.hostAck
  split
  · exact (s.finish_frame _).wide rfl
  · split
    · exact (s.finish_frame _).wide rfl
    · exact (s.finish_frame _).wide rfl
    · exact ((s.putLine_frame _ _).wide rfl).trans ((State.finish_frame _ _).wide rfl)
    · exact ((s.withdrawLine_frame _).trans ((State.logLine_frame _ _ _ _).wide rfl)).trans
        ((State.finish_frame _ _).wide rfl)

theorem State.applyLine_frame (k : Fin 6) (f : LineRec → LineRec) (u : LineCause) :
    Frame lineParts s (s.applyLine k f u) := by
  unfold State.applyLine
  extract_lets old s1 mid s2
  have h1 : Frame lineParts s s1 :=
    Frame.ite ((s.withdrawLine_frame k).trans ((State.logLine_frame _ _ _ _).wide rfl)) (Frame.refl _ s)
  have h2 : Frame lineParts s s2 := h1.trans ((State.putLine_frame s1 k _).wide rfl)
  clear_value s1 s2
  split
  · exact h2
  · exact h2.trans ((State.logLine_frame s2 _ _ _).wide rfl)

/-! ### The burst of a channel on the memory port -/

theorem State.fetchOnPort_eq_some (c : Fin 4) (w : ClipWhat) : s.fetchOnPort c = some w ↔ s.fetching c w := by
  unfold State.fetchOnPort State.fetching
  split
  · rename_i f hp
    rw [hp]
    obtain ⟨d, n, x, a⟩ := f
    constructor
    · intro h
      split at h <;> simp_all
    · rintro ⟨a, h⟩
      simp_all
  · rename_i hn
    simp only [reduceCtorEq, false_iff, not_exists]
    exact fun a h => hn _ h

theorem State.listOnPort_iff (c : Fin 4) : s.listOnPort c = true ↔ s.fetchesList c := by
  unfold State.listOnPort State.fetchesList
  simp only [← s.fetchOnPort_eq_some]
  split <;> simp_all

theorem State.blockOnPort_iff (c : Fin 4) (sl : Slot) (x : Int) (hx : sl.idx = some x) :
    s.blockOnPort c sl = true ↔ s.fetchesBlock c x := by
  unfold State.blockOnPort State.fetchesBlock
  simp only [← s.fetchOnPort_eq_some]
  split
  · rename_i h
    simp [h, hx, eq_comm]
  · simp_all

end Sys2Proof.Machine
end

