-- ==== Sys2Proof/Laws/Blocks.lean ====
section
/-! SUPPORT. What the operations of the gather engine, the section supervisor, the programme tracker, the memory path, the
report unit and the plan unit may change. -/

namespace Sys2Proof.Machine

variable (s : State)

/-! ### The gather engine -/

theorem gather_frame {ge : GatherEngine} :
    Frame [.groups, .opens, .results, .arrival, .taking] s { s with gather := ge } := by
  intro p hp
  cases p <;> first | exact absurd (by decide) hp | simp [Same, State.chan, State.line]

theorem opens_frame (o r : List Gather) :
    Frame [.opens, .results] s { s with gather := { s.gather with opens := o, results := r } } := by
  intro p hp
  cases p <;> first | exact absurd (by decide) hp | simp [Same, State.chan, State.line]

theorem openList_frame (o : List Gather) : Frame [.opens] s { s with gather := { s.gather with opens := o } } := by
  intro p hp
  cases p <;> first | exact absurd (by decide) hp | simp [Same, State.chan, State.line]

theorem arrival_frame (a : Option Arrival) : Frame [.arrival] s { s with gather := { s.gather with waiting := a } } := by
  intro p hp
  cases p <;> first | exact absurd (by decide) hp | simp [Same, State.chan, State.line]

theorem groups_frame (g : Table Group 12) : Frame [.groups] s { s with gather := { s.gather with groups := g } } := by
  intro p hp
  cases p <;> first | exact absurd (by decide) hp | simp [Same, State.chan, State.line]

theorem State.putGrp_frame (g : Fin 12) (r : Group) : Frame [.groups] s (s.putGrp g r) :=
  (s.setGrp_frame g r).trans ((State.mark_frame _ _).mono (by simp))

theorem State.logAbnormal_frame (ga : Gather) (st : CloseStatus) (n : Nat) :
    Frame [.logQueue, .lostCount] s (s.logAbnormal ga st n) := s.log_frame _ _ _ _

theorem State.closeGather_frame (ga : Gather) (st : CloseStatus) :
    Frame closeParts s (s.closeGather ga st) := by
  unfold State.closeGather
  dsimp only
  have h (o r : List Gather) := ((s.putGrp_frame ga.group (s.groupAfterClose ga st)).wide
    (m := closeParts) rfl).trans ((opens_frame _ o r).wide rfl)
  split
  · exact (h _ _).trans ((State.logAbnormal_frame _ _ _ _).wide rfl)
  · exact h _ _

theorem State.putOpen_frame (ga : Gather) : Frame [.opens] s (s.putOpen ga) := openList_frame s _

theorem State.joinGather_frame (ga : Gather) (k : Fin 24) (l : List Byte) : Frame gatherParts s (s.joinGather ga k l) := by
  unfold State.joinGather
  dsimp only
  split
  · exact ((s.putOpen_frame _).wide rfl).trans ((State.closeGather_frame _ _ _).wide rfl)
  · exact (s.putOpen_frame _).wide rfl

theorem State.openGather_frame (a : Arrival) : Frame gatherParts s (s.openGather a) :=
  (((openList_frame s _).wide rfl).trans ((State.mark_frame _ _).mono (by simp))).trans (State.joinGather_frame _ _ _ _)

theorem State.openOrWait_frame (a : Arrival) : Frame gatherParts s (s.openOrWait a) := by
  unfold State.openOrWait
  dsimp only
  split
  · exact s.openGather_frame a
  · split
    · exact ((s.closeGather_frame _ _).wide rfl).trans ((arrival_frame _ _).wide rfl)
    · exact (arrival_frame s _).wide rfl

theorem State.arrive_frame (a : Arrival) : Frame gatherParts s (s.arrive a) := by
  unfold State.arrive
  split
  · split
    · split
      · exact (s.putGrp_frame _ _).wide rfl
      · exact s.joinGather_frame _ _ _
    · exact ((s.closeGather_frame _ _).wide rfl).trans (State.openOrWait_frame _ _)
  · split
    · exact (s.putGrp_frame _ _).wide rfl
    · exact s.openOrWait_frame a

theorem State.gatherWrite_frame (g : Fin 12) (b : WriteBurst) : Frame gatherParts s (s.gatherWrite g b) := by
  unfold State.gatherWrite
  dsimp only
  split
  · exact Frame.refl _ s
  · split
    · exact Frame.refl _ s
    · split
      · exact (s.log_frame _ _ _ _).wide rfl
      · split
        · exact Frame.refl _ s
        · exact s.arrive_frame _

theorem State.leaveExpected_frame (k : Fin 24) : Frame closeParts s (s.leaveExpected k) := by
  refine Frame.foldl _ (fun s ga => ?_) _ s
  unfold checkComplete
  split
  · exact (s.closeGather_frame _ _).wide rfl
  · exact Frame.refl _ s

theorem State.clearGates_frame (k : Fin 24) : Frame [.groups] s (s.clearGates k) := groups_frame s _

theorem State.endWait_frame : Frame [.arrival, .queue] s s.endWait := by
  unfold State.endWait
  split
  · intro p hp
    cases p <;> first | exact absurd (by decide) hp | simp [Same, State.chan, State.line]
  · exact Frame.refl _ s

theorem flushAll_frame (xs : List Gather) : Frame flushParts s (xs.foldl flushOne s) :=
  Frame.foldl _ (fun s ga => (State.closeGather_frame s ga .flushed).wide rfl) xs s

theorem State.flushPool_frame : Frame flushParts s s.flushPool := by
  unfold State.flushPool
  dsimp only
  have h : Frame flushParts s { s with gather := { s.gather with taking := false } } := (gather_frame s).wide rfl
  exact (h.trans ((State.endWait_frame _).wide rfl)).trans (flushAll_frame _ _)

theorem State.outputRead_frame (g : Fin 12) (n : Nat) : Frame closeParts s (s.outputRead g n).1 := by
  unfold State.outputRead
  dsimp only
  split
  · split
    · exact (s.closeGather_frame _ _).wide rfl
    · split
      · exact ((s.putOpen_frame _).wide rfl).trans ((State.closeGather_frame _ _ _).wide rfl)
      · exact (s.putOpen_frame _).wide rfl
  · split <;> exact Frame.refl _ s

theorem State.applyGroup_frame (g : Fin 12) (e : GroupEntry) : Frame flushParts s (s.applyGroup g e) := by
  unfold State.applyGroup
  dsimp only
  refine Frame.trans ?_ ((State.markIf_frame _ _ _).mono (by simp))
  refine Frame.trans ?_ ((State.setGrp_frame _ _ _).wide rfl)
  refine (flushAll_frame s (sortKeys (s.gather.opens.filter fun ga => ga.group = g))).trans ?_
  unfold State.endWaitOf
  split
  · split
    · exact (State.endWait_frame _).wide rfl
    · exact Frame.refl _ _
  · exact Frame.refl _ _

/-! ### The section supervisor -/

theorem State.putSec_frame (k : Fin 24) (r : SectionRec) : Frame [.sections] s (s.putSec k r) :=
  (s.setSec_frame k r).trans ((State.markIf_frame _ _ _).mono (by simp))

theorem State.moveSec_frame (k : Fin 24) (r : SectionRec) (n : SectionState) (u : SecCause) :
    Frame [.sections, .logQueue, .lostCount] s (s.moveSec k r n u) :=
  ((s.putSec_frame k _).wide rfl).trans ((State.log_frame _ _ _ _ _).wide rfl)

theorem State.superviseSec_frame (k : Fin 24) (f : Option (Bool × Bool)) :
    Frame [.sections, .logQueue, .lostCount] s (s.superviseSec k f) := by
  unfold State.superviseSec
  dsimp only
  have h (r : SectionRec) : Frame [.sections, .logQueue, .lostCount] s (s.putSec k r) := (s.putSec_frame k r).wide rfl
  split
  · exact Frame.refl _ s
  · exact (h _).trans (State.moveSec_frame _ _ _ _ _)
  · exact (h _).trans (State.moveSec_frame _ _ _ _ _)
  · split
    · exact (h _).trans (State.moveSec_frame _ _ _ _ _)
    · exact h _
  · split
    · exact (h _).trans (State.moveSec_frame _ _ _ _ _)
    · exact h _

theorem State.superviseWrite_frame (g : Fin 12) (b : WriteBurst) :
    Frame [.sections, .logQueue, .lostCount] s (s.superviseWrite g b) := by
  unfold State.superviseWrite
  split
  · exact s.superviseSec_frame _ _
  · exact Frame.refl _ s

theorem State.loseSec_frame (k : Fin 24) : Frame (.sections :: closeParts) s (s.loseSec k) :=
  (((s.moveSec_frame k _ _ _).wide rfl).trans ((State.leaveExpected_frame _ k).wide rfl)).trans
    ((State.clearGates_frame _ k).wide rfl)

theorem State.applySection_frame (k : Fin 24) (en : Bool) (t : Nat) : Frame sectionParts s (s.applySection k en t) := by
  unfold State.applySection
  split
  · unfold State.retimeSec
    dsimp only
    split
    · exact ((s.putSec_frame k _).wide rfl).trans ((State.loseSec_frame _ k).wide rfl)
    · exact (s.putSec_frame k _).wide rfl
  · unfold State.disableSec
    exact ((((s.moveSec_frame k _ _ _).wide rfl).trans ((State.leaveExpected_frame _ k).wide rfl)).trans
      ((State.clearGates_frame _ k).wide rfl)).trans ((State.clearSection_frame _ k).wide rfl)
  · exact (s.moveSec_frame k _ _ _).wide rfl
  · exact (s.putSec_frame k _).wide rfl

/-! ### The programme tracker -/


theorem tracker_frame (t : Tracker) : Frame [.programmes, .timing] s { s with tracker := t } := by
  intro p hp
  cases p <;> first | exact absurd (by decide) hp | simp [Same, State.chan, State.line]

theorem timing_frame (f : Tracker → Tracker) (h : (f s.tracker).progs = s.tracker.progs) :
    Frame [.timing] s { s with tracker := f s.tracker } := by
  intro p hp
  cases p <;> first | exact absurd (by decide) hp | simp [Same, State.chan, State.line, h]

theorem State.setHead_frame (p : Fin 6) (n : Nat) : Frame [.programmes] s (s.setHead p n) := by
  intro q hq
  cases q <;> first | exact absurd (by decide) hq | simp [Same, State.setHead, State.chan, State.line]

theorem State.lockedAdvance_frame : Frame (.timing :: blockParts) s s.lockedAdvance :=
  ((s.blockTime_frame).wide rfl).trans
    ((timing_frame _ (fun t => { t with watchdog := some (s.now + watchdogTime) }) rfl).wide rfl)

theorem State.regainReference_frame (p : Fin 6) : Frame (.timing :: blockParts) s (s.regainReference p) :=
  (((s.log_frame _ _ _ _).wide rfl).trans
    ((timing_frame _ (fun t => { t with timing := .locked, nextFree := none }) rfl).wide rfl)).trans
    (State.lockedAdvance_frame _)

theorem State.headAdvance_frame (p : Fin 6) (n : Nat) : Frame headParts s (s.headAdvance p n) := by
  unfold State.headAdvance
  dsimp only
  have h := (s.setHead_frame p n).wide (m := headParts) rfl
  split
  · split
    · exact h.trans ((State.lockedAdvance_frame _).wide rfl)
    · exact h.trans ((State.regainReference_frame _ p).wide rfl)
    · exact h
  · exact h

theorem State.programmeWrite_frame (p : Fin 6) (b : WriteBurst) : Frame headParts s (s.programmeWrite p b) := by
  unfold State.programmeWrite
  dsimp only
  split
  · exact s.headAdvance_frame _ _
  · exact Frame.refl _ s

theorem State.loseReference_frame : Frame (.timing :: blockParts) s s.loseReference := by
  unfold State.loseReference
  dsimp only
  have h1 := (timing_frame s (fun t => { t with timing := .freeRun, watchdog := none }) rfl).wide
    (m := .timing :: blockParts) rfl
  refine Frame.trans ?_ ((timing_frame _ (fun t => { t with freeCount := 1, nextFree := some (s.now + freeRunPeriod) })
    rfl).wide rfl)
  refine Frame.trans ?_ ((State.blockTime_frame _).wide rfl)
  split
  · exact h1.trans ((State.log_frame _ _ _ _ _).wide rfl)
  · exact h1

theorem State.freeRunEvent_frame : Frame (.timing :: blockParts) s s.freeRunEvent :=
  ((s.blockTime_frame).wide rfl).trans ((timing_frame _ (fun t => { t with
    freeCount := bump t.freeCount, nextFree := t.nextFree.map (· + freeRunPeriod) }) rfl).wide rfl)

/-! ### The memory path and the report unit -/

theorem State.startRead_frame (b : ReadBurst) (k : LineKind) (a : Nat) (v : Option ViewRead) (ph : ReadPhase) :
    Frame [.transaction, .response] s (s.startRead b k a v ph) := by
  intro p hp
  cases p <;> first | exact absurd (by decide) hp | simp [Same, State.startRead, State.chan, State.line]

theorem State.refuseWrite_frame (b : WriteBurst) (k : LineKind) :
    Frame [.transaction, .response, .logQueue, .lostCount] s (s.refuseWrite b k) :=
  ((s.respond_frame _).wide rfl).trans ((State.log_frame _ _ _ _ _).wide rfl)

theorem State.acceptWrite_frame (b : WriteBurst) (k : LineKind) :
    Frame [.transaction, .response, .queue, .anchor, .partState] s (s.acceptWrite b k) := by
  unfold State.acceptWrite State.captureAnchor
  dsimp only
  split <;> (intro p hp; cases p <;> first | exact absurd (by decide) hp | simp [Same, State.respond, State.chan, State.line])

theorem State.takeConsumer_frame (v : Word) :
    Frame [.draws, .logIndices, .classCounts, .attn] s (s.takeConsumer v) := by
  have hp (xs : List Nat) (p : Report × Nat) : ∃ u n, xs.foldl passSlot p = ({ p.1 with unconsumed := u }, n) := by
    induction xs generalizing p with
    | nil => exact ⟨p.1.unconsumed, p.2, rfl⟩
    | cons x xs ih =>
      have h1 : ∃ u n, passSlot p x = ({ p.1 with unconsumed := u }, n) := by
        unfold passSlot
        split
        · dsimp only
          split
          · exact ⟨_, _, rfl⟩
          · exact ⟨_, _, rfl⟩
        · exact ⟨p.1.unconsumed, p.2, rfl⟩
      obtain ⟨u, n, h1⟩ := h1
      obtain ⟨u', n', h2⟩ := ih (passSlot p x)
      refine ⟨u', n', ?_⟩
      rw [List.foldl_cons, h2, h1]
  unfold State.takeConsumer
  dsimp only
  obtain ⟨u, n, h⟩ := hp (slotsPassed s.report.logLen s.report.consumer (v.toNat % s.report.logLen)) (s.report, s.free)
  rw [h]
  obtain ⟨q, hq⟩ := Report.choose_eq ({ s.report with unconsumed := u, consumer := v.toNat % s.report.logLen } : Report).evalAttn
  rw [hq]
  intro p hp
  cases p <;> first | exact absurd (by decide) hp | simp [Same, Report.evalAttn, State.chan, State.line]

theorem State.burstError_frame (r : ErrSource) (a : Nat) (d : Word) :
    Frame [.memErrors, .logQueue, .lostCount] s (s.burstError r a d) :=
  ((s.memError_frame).wide rfl).trans ((State.log_frame _ _ _ _ _).wide rfl)

/-! ### The plan unit -/

theorem plan_frame (p : PlanUnit) :
    Frame [.anchor, .partState, .generation, .memErrors, .lastError, .descriptors, .change, .staged] s
      { s with plan := p } := by
  intro q hq
  cases q <;> first | exact absurd (by decide) hq | simp [Same, State.chan, State.line]

theorem State.takeWord0_frame (w : Word) : Frame [.change, .logQueue, .lostCount] s (s.takeWord0 w) := by
  unfold State.takeWord0
  dsimp only
  split
  · exact Frame.refl _ s
  · split
    · exact (s.log_frame _ _ _ _).wide rfl
    · intro q hq
      cases q <;> first | exact absurd (by decide) hq | simp [Same, State.chan, State.line]

theorem State.beginUpdate_frame (c : Change) : Frame [.change] s (s.beginUpdate c) := by
  unfold State.beginUpdate
  split
  · exact s.finish_frame _
  · split
    · exact s.finish_frame _
    · split
      · exact s.finish_frame _
      · exact (s.setStage_frame _).trans ((State.planOut_frame _ _).mono (by simp))

theorem State.decideChange_frame (c : Change) : Frame [.change] s (s.decideChange c) := by
  unfold State.decideChange
  split
  · exact s.finish_frame _
  · split
    · exact s.beginUpdate_frame c
    · exact s.setStage_frame _

theorem State.takeArgs_frame (c : Change) : Frame [.change] s (s.takeArgs c) := by
  unfold State.takeArgs
  dsimp only
  refine Frame.trans ?_ (State.decideChange_frame _ _)
  intro q hq
  cases q <;> first | exact absurd (by decide) hq | simp [Same, State.chan, State.line]

theorem State.fetchFailed_frame (a : Nat) :
    Frame [.change, .memErrors, .logQueue, .lostCount] s (s.fetchFailed a) :=
  ((s.burstError_frame _ _ _).wide rfl).trans ((State.finish_frame _ _).wide rfl)

theorem State.beginLoad_frame : Frame [.change, .staged] s s.beginLoad := by
  refine Frame.trans ((s.setStage_frame .loading).wide rfl) ?_
  intro q hq
  cases q <;> first | exact absurd (by decide) hq | simp [Same, State.beginLoad, State.chan, State.line]

theorem State.writeState_frame : Frame [] s s.writeState := s.planOut_frame _

theorem State.writeGen_frame : Frame [] s s.writeGen := s.planOut_frame _

/-- The halt of a QUIESCE (R174). -/
theorem State.haltPart_frame : Frame (.partState :: playParts) s s.haltPart := by
  unfold State.haltPart
  exact ((((s.stopAll_frame).wide rfl).trans ((State.setPartState_frame _ _).wide rfl)).trans
    ((State.mark_frame _ _).mono (by simp))).trans
    (((State.writeState_frame _).mono (by simp)).trans ((State.finish_frame _ _).wide rfl))

theorem resumeLine_frame (k : Fin 6) : Frame lineParts s (resumeLine s k) := by
  unfold resumeLine
  split
  · exact s.requestBreakin_frame _ _
  · exact Frame.refl _ s

/-- A resumption (R175). -/
theorem State.resumePart_frame : Frame (.partState :: .taking :: lineParts) s s.resumePart := by
  unfold State.resumePart
  dsimp only
  have h0 := ((s.setPartState_frame .running).wide (m := .partState :: .taking :: lineParts) rfl).trans
    ((State.mark_frame _ 0).mono (by simp))
  have h1 (u : State) : Frame (.partState :: .taking :: lineParts) u { u with gather := { u.gather with taking := true } } := by
    intro p hp
    cases p <;> first | exact absurd (by decide) hp | simp [Same]
  have h2 (u : State) : Frame (.partState :: .taking :: lineParts) u ((List.finRange 6).foldl resumeLine u) :=
    Frame.foldl _ (fun s k => (resumeLine_frame s k).wide rfl) _ u
  exact ((h0.trans (h1 _)).trans (h2 _)).trans
    (((State.writeState_frame _).mono (by simp)).trans ((State.finish_frame _ _).wide rfl))

theorem State.logClamped_frame (n : Nat) : Frame [.logQueue, .lostCount] s (s.logClamped n) := by
  unfold State.logClamped
  split
  · exact s.log_frame _ _ _ _
  · exact Frame.refl _ s

end Sys2Proof.Machine
end

