-- ==== Sys2Proof/Laws/Memory.lean ====
section
/-! SUPPORT. Memory: a read after a write, the canonical form kept by every operation over memory, and what a completed
write leaves in memory. -/

namespace Sys2Proof.Machine

/-- A byte read after a write of one byte. -/
theorem Memory.read_write (m : Memory) (x : Nat) (w : Byte) (lo : Nat) (h : Memory.wfFrom lo m = true) (y : Nat) :
    Memory.read (Memory.write m x w) y = if y = x then w else Memory.read m y := by
  induction m generalizing lo with
  | nil => by_cases hw : w = unlisted <;> by_cases hy : y = x <;> simp_all [Memory.write, Memory.read]
  | cons c m ih =>
    obtain ⟨a, v⟩ := c
    simp only [Memory.wfFrom, Bool.and_eq_true, decide_eq_true_eq, bne_iff_ne] at h
    have below : ∀ lo' (m' : Memory), Memory.wfFrom lo' m' = true → ∀ z < lo', Memory.read m' z = unlisted := by
      intro lo' m'
      induction m' generalizing lo' with
      | nil => intros; rfl
      | cons d m' ih' =>
        obtain ⟨b, u⟩ := d
        intro hw z hz
        simp only [Memory.wfFrom, Bool.and_eq_true, decide_eq_true_eq, bne_iff_ne] at hw
        rw [Memory.read, if_neg (by omega)]
        exact ih' (b + 1) hw.2 z (by omega)
    simp only [Memory.write]
    split
    · have hx : Memory.read m x = unlisted := below (a + 1) m h.2 x (by omega)
      split
      · by_cases hy : y = x
        · subst hy; rw [Memory.read, if_neg (by omega), hx]; simp_all
        · simp [hy]
      · by_cases hy : y = x <;> simp [Memory.read, hy]
    · split
      · split
        · by_cases hy : y = x
          · subst hy; rw [below (a + 1) m h.2 y (by omega)]; simp_all
          · rw [if_neg hy, Memory.read, if_neg (by omega)]
        · by_cases hy : y = x
          · subst hy; subst_vars; simp [Memory.read]
          · have : y ≠ a := by omega
            simp [Memory.read, hy, this]
      · rw [Memory.read, Memory.read, ih (a + 1) h.2]
        by_cases hy : y = a
        · simp [hy]; omega
        · simp [hy]

theorem Memory.wfFrom_mono {lo lo' : Nat} {m : Memory} (h : Memory.wfFrom lo m = true) (hl : lo' ≤ lo) :
    Memory.wfFrom lo' m = true := by
  cases m with
  | nil => rfl
  | cons c m =>
    obtain ⟨a, v⟩ := c
    simp only [Memory.wfFrom, Bool.and_eq_true, decide_eq_true_eq] at h ⊢
    exact ⟨⟨by omega, h.1.2⟩, h.2⟩

theorem Memory.wfFrom_write {m : Memory} {lo : Nat} (h : Memory.wfFrom lo m = true) (x : Nat) (w : Byte) (hx : lo ≤ x) :
    Memory.wfFrom lo (Memory.write m x w) = true := by
  induction m generalizing lo with
  | nil =>
    by_cases hw : w = unlisted
    · simp [Memory.write, hw, Memory.wfFrom]
    · simp [Memory.write, hw, Memory.wfFrom, hx]
  | cons c m ih =>
    obtain ⟨a, v⟩ := c
    have h' := h
    simp only [Memory.wfFrom, Bool.and_eq_true, decide_eq_true_eq, bne_iff_ne] at h
    simp only [Memory.write]
    split
    · split
      · exact h'
      · simp only [Memory.wfFrom, Bool.and_eq_true, decide_eq_true_eq, bne_iff_ne]
        exact ⟨⟨hx, by assumption⟩, ⟨by omega, h.1.2⟩, h.2⟩
    · split
      · split
        · exact Memory.wfFrom_mono h.2 (by omega)
        · simp only [Memory.wfFrom, Bool.and_eq_true, decide_eq_true_eq, bne_iff_ne]
          exact ⟨⟨h.1.1, by assumption⟩, h.2⟩
      · simp only [Memory.wfFrom, Bool.and_eq_true, decide_eq_true_eq, bne_iff_ne]
        exact ⟨h.1, ih h.2 (by omega)⟩

/-- A write keeps the canonical form. -/
theorem Memory.wf_write {m : Memory} (h : Memory.wf m = true) (x : Nat) (w : Byte) :
    Memory.wf (Memory.write m x w) = true := Memory.wfFrom_write h x w (by omega)

/-- Writing several bytes keeps the canonical form. -/
theorem Memory.wf_writeCells {m : Memory} (h : Memory.wf m = true) (cells : List (Nat × Byte)) :
    Memory.wf (Memory.writeCells m cells) = true := by
  unfold Memory.writeCells
  induction cells generalizing m with
  | nil => exact h
  | cons c cs ih => exact ih (Memory.wf_write h c.1 c.2)

/-- Memory after RESET has its canonical form: it lists nothing. -/
theorem State.reset_wf : Memory.wf State.reset.mem = true := rfl

/-- A byte that no cell of a burst addresses is unchanged by writing the burst. -/
theorem Memory.read_writeCells_other {m : Memory} (h : Memory.wf m = true) (cells : List (Nat × Byte)) (a : Nat)
    (ha : a ∉ cells.map Prod.fst) : Memory.read (Memory.writeCells m cells) a = Memory.read m a := by
  induction cells generalizing m with
  | nil => rfl
  | cons c cs ih =>
    simp only [List.map_cons, List.mem_cons, not_or] at ha
    have := ih (Memory.wf_write h c.1 c.2) ha.2
    rw [Memory.writeCells, List.foldl_cons, ← Memory.writeCells, this, Memory.read_write m c.1 c.2 0 h, if_neg ha.1]

/-- After writing cells of distinct addresses, every one of them is in memory. -/
theorem Memory.read_writeCells_mem {m : Memory} (h : Memory.wf m = true) {cells : List (Nat × Byte)}
    (hn : (cells.map Prod.fst).Nodup) {c : Nat × Byte} (hc : c ∈ cells) :
    Memory.read (Memory.writeCells m cells) c.1 = c.2 := by
  induction cells generalizing m with
  | nil => cases hc
  | cons d ds ih =>
    simp only [List.map_cons, List.nodup_cons] at hn
    rw [Memory.writeCells, List.foldl_cons, ← Memory.writeCells]
    rcases List.mem_cons.mp hc with rfl | hc
    · rw [Memory.read_writeCells_other (Memory.wf_write h c.1 c.2) ds c.1 hn.1, Memory.read_write m c.1 c.2 0 h, if_pos rfl]
    · exact ih (Memory.wf_write h d.1 d.2) hn.2 hc

/-- Consecutive bytes have distinct addresses. -/
theorem cellsFrom_nodup (a : Nat) (l : List Byte) : ((cellsFrom a l).map Prod.fst).Nodup := by
  have below : ∀ (l : List Byte) (b : Nat), ∀ x ∈ (cellsFrom b l).map Prod.fst, b ≤ x := by
    intro l
    induction l with
    | nil => intro b x hx; cases hx
    | cons v vs ih =>
      intro b x hx
      simp only [cellsFrom, List.map_cons, List.mem_cons] at hx
      rcases hx with rfl | hx
      · omega
      · have := ih (b + 1) x hx; omega
  induction l generalizing a with
  | nil => simp [cellsFrom]
  | cons v vs ih =>
    simp only [cellsFrom, List.map_cons, List.nodup_cons]
    exact ⟨fun hx => by have := below vs (a + 1) a hx; omega, ih (a + 1)⟩

/-- A completed burst frees the port, and writes its bytes unless it was answered with an error. -/
theorem State.complete_stored (s : State) (err : Bool) (h : Memory.wf s.mem = true)
    (hn : (s.portCells.map Prod.fst).Nodup) : Stored err s.portCells s (s.complete err) := by
  cases err with
  | true => intro a _; rfl
  | false =>
    exact ⟨fun c hc => Memory.read_writeCells_mem h hn hc, fun a ha => Memory.read_writeCells_other h _ a ha⟩

/-- What a completed write stores stays in memory as long as memory stays as it is. -/
theorem Stored.mem_eq {err : Bool} {cells : List (Nat × Byte)} {s t u : State} (h : Stored err cells s t)
    (hm : u.mem = t.mem) : Stored err cells s u := by
  cases err with
  | true => exact fun a ha => by rw [hm]; exact h a ha
  | false => exact ⟨fun c hc => by rw [hm]; exact h.1 c hc, fun a ha => by rw [hm]; exact h.2 a ha⟩

end Sys2Proof.Machine
end

