-- ==== Sys2Proof/Laws/Commands.lean ====
section
/-! SUPPORT. What the effect of each command may change, before the end of every command. -/

namespace Sys2Proof.Machine

variable (s : State)

/-! ### The system port -/

theorem State.captureAnchor_frame (b : WriteBurst) : Frame [.anchor, .partState] s (s.captureAnchor b) := by
  unfold State.captureAnchor
  split
  · intro p hp
    cases p <;> first | exact absurd (by decide) hp | simp [Same, State.chan, State.line]
  · exact Frame.refl _ s

theorem State.holdTxn_frame (x : Txn) : Frame [.transaction, .response] s (s.holdTxn x) := by
  intro p hp
  cases p <;> first | exact absurd (by decide) hp | simp [Same, State.holdTxn, State.chan, State.line]

theorem State.presentWrite_frame (b : WriteBurst) :
    Frame [.transaction, .response, .queue, .anchor, .partState, .logQueue, .lostCount] s (s.presentWrite b) := by
  unfold State.presentWrite
  dsimp only
  split
  · exact (s.refuseWrite_frame b _).wide rfl
  · split
    · exact (s.holdTxn_frame _).wide rfl
    · exact (s.acceptWrite_frame b _).wide rfl

theorem State.acceptHeld_frame :
    Frame [.transaction, .response, .queue, .anchor, .partState, .logQueue, .lostCount] s s.acceptHeld := by
  unfold State.acceptHeld
  split
  · exact s.presentWrite_frame _
  · exact Frame.refl _ s

theorem State.presentOutput_frame (b : ReadBurst) (g : Fin 12) :
    Frame (.transaction :: .response :: closeParts) s (s.presentOutput b g) := by
  unfold State.presentOutput
  dsimp only
  refine Frame.trans ((s.outputRead_frame g ((s.grp g).outputPos b.addr)).wide rfl) ?_
  split
  · exact (State.respond_frame _ _).wide rfl
  · exact (State.startRead_frame _ _ _ _ _ _).wide rfl
  · exact (State.startRead_frame _ _ _ _ _ _).wide rfl

theorem State.presentRead_frame (b : ReadBurst) :
    Frame (.transaction :: .response :: closeParts) s (s.presentRead b) := by
  unfold State.presentRead
  split
  · exact (s.respond_frame _).wide rfl
  · split
    · exact (s.startRead_frame _ _ _ _ _).wide rfl
    · exact (s.startRead_frame _ _ _ _ _).wide rfl
  · split
    · exact s.presentOutput_frame _ _
    · exact (s.startRead_frame _ _ _ _ _).wide rfl
  · exact (s.startRead_frame _ _ _ _ _).wide rfl

theorem State.closeGather_txn (x : Option Txn) (ga : Gather) (st : CloseStatus) :
    State.closeGather { s with path := { s.path with txn := x } } ga st =
      { s.closeGather ga st with path := { (s.closeGather ga st).path with txn := x } } := by
  unfold State.closeGather
  dsimp only
  split <;> rfl

/-- The gather engine's decision of an OUTPUT read does not depend on the transaction in progress. -/
theorem State.outputRead_txn (x : Option Txn) (g : Fin 12) (n : Nat) :
    State.outputRead { s with path := { s.path with txn := x } } g n =
      ({ (s.outputRead g n).1 with path := { (s.outputRead g n).1.path with txn := x } }, (s.outputRead g n).2) := by
  have ho : State.openAt { s with path := { s.path with txn := x } } g n = s.openAt g n := rfl
  have hg : State.grp { s with path := { s.path with txn := x } } g = s.grp g := rfl
  have hc : State.closingCount { s with path := { s.path with txn := x } } g n = s.closingCount g n := rfl
  have hp (ga : Gather) : State.putOpen { s with path := { s.path with txn := x } } ga =
      { s.putOpen ga with path := { (s.putOpen ga).path with txn := x } } := rfl
  unfold State.outputRead
  simp only [ho, hg, hc, State.closeGather_txn, hp]
  split
  · split
    · rfl
    · split <;> rfl
  · split <;> rfl

/-- What a presented read does depends on no transaction in progress, which it replaces. -/
theorem State.presentRead_txn (x : Option Txn) (b : ReadBurst) :
    State.presentRead { s with path := { s.path with txn := x } } b = s.presentRead b := by
  unfold State.presentRead State.presentOutput
  simp only [State.outputRead_txn]
  rfl

theorem State.classifyDeferred_frame : Frame (.transaction :: .response :: closeParts) s s.classifyDeferred := by
  unfold State.classifyDeferred
  split
  · exact s.presentRead_frame _
  · exact Frame.refl _ s

/-- The activation step has a plan to install exactly where it is due (R33, R172). -/
theorem State.drained_isSome : s.drained.isSome = true ↔ s.installDue := by
  have hr : s.readInProgress = false ↔ ∀ r, s.path.txn ≠ some (.read r) := by
    unfold State.readInProgress
    split <;> simp_all
  unfold State.drained State.installDue
  rw [← hr]
  split <;> simp_all

/-- What a transaction presented at an idle port sees of the activation step (R172). -/
theorem State.portIdle.notDrained (h : s.portIdle) : s.drained = none := by
  have := mt s.drained_isSome.mp h.2.2
  simpa using this

theorem State.releaseRead_frame : Frame [.transaction] s s.releaseRead := by
  unfold State.releaseRead
  split
  · intro p hp
    cases p <;> first | exact absurd (by decide) hp | simp [Same, State.chan, State.line]
  · exact Frame.refl _ s

theorem State.noteLost_frame (e : QEntry) (err : Bool) : Frame errorParts s (s.noteLost e err) := by
  unfold State.noteLost
  split
  · exact ((s.log_frame _ _ _ _).wide rfl).trans ((State.memError_frame _).wide rfl)
  · exact Frame.refl _ s

/-- What the watchers of a write's region may change. -/
def watchParts : List Part := .sections :: (headParts ++ gatherParts)

theorem State.watchRegion_frame (e : QEntry) : Frame watchParts s (s.watchRegion e) := by
  unfold State.watchRegion
  split
  · exact (s.programmeWrite_frame _ _).wide rfl
  · exact ((s.superviseWrite_frame _ _).wide rfl).trans ((State.gatherWrite_frame _ _ _).wide rfl)
  all_goals exact Frame.refl _ s

theorem State.watchWords_frame (e : QEntry) :
    Frame [.change, .logQueue, .lostCount, .draws, .logIndices, .classCounts, .attn] s (s.watchWords e) := by
  unfold State.watchWords
  extract_lets s1
  have h1 : Frame [.change, .logQueue, .lostCount, .draws, .logIndices, .classCounts, .attn] s s1 := by
    simp only [s1]
    split
    · exact (s.takeWord0_frame _).wide rfl
    · exact Frame.refl _ s
  refine h1.trans ?_
  split
  · exact (s1.takeConsumer_frame _).wide rfl
  · exact Frame.refl _ s1

theorem State.popHead_frame : Frame [.queue] s s.popHead := by
  unfold State.popHead
  split
  · exact Frame.refl _ s
  · intro p hp
    cases p <;> first | exact absurd (by decide) hp | simp [Same, State.chan, State.line]

theorem State.takeHead_frame (err : Bool) : Frame (changedBy (.writeTaken err)) s (s.takeHead err) := by
  unfold State.takeHead
  split
  · exact ((((s.complete_frame err).wide rfl).trans ((State.noteLost_frame _ _ _).wide rfl)).trans
      (((State.watchRegion_frame _ _).wide rfl).trans ((State.watchWords_frame _ _).wide rfl))).trans
      ((State.popHead_frame _).wide rfl)
  · exact Frame.refl _ s

theorem State.givePool_frame : Frame (.queue :: gatherParts) s s.givePool := by
  unfold State.givePool
  split
  · split
    · exact ((s.endWait_frame).wide rfl).trans ((State.openGather_frame _ _).wide rfl)
    · exact (s.endWait_frame).wide rfl
  · exact Frame.refl _ s

theorem State.miss_frame (z : State) (c : Fin 4) (k : Fin 24) (u : Int) (late : Bool) (code : Nat) :
    Frame [.channels, .missStates, .logQueue, .lostCount] s (s.miss z c k u late code) := by
  unfold State.miss
  dsimp only
  have h (ch : Chan) (b : Bool) : Frame [.channels, .missStates, .logQueue, .lostCount] s
      (((s.setChan c ch).markIf b (mirrorOfChan c)).setArmed c false) :=
    (((s.setChan_frame c ch).wide rfl).trans ((State.markIf_frame _ _ _).mono (by simp))).trans
      ((State.setArmed_frame _ _ _).wide rfl)
  split
  · exact (h _ _).trans ((State.log_frame _ _ _ _ _).wide rfl)
  · exact h _ _

theorem State.countClipped_frame (c : Fin 4) (any : Bool) : Frame [.channels] s (s.countClipped c any) := by
  unfold State.countClipped
  dsimp only
  split
  · exact (s.setChan_frame c _).trans ((State.markIf_frame _ _ _).mono (by simp))
  · exact Frame.refl _ s

theorem State.mixView_frame (z : State) (v : ViewRead) (xs : List Word) :
    Frame [.channels, .missStates, .logQueue, .lostCount] s (s.mixView z v xs).1 := by
  unfold State.mixView
  dsimp only
  split
  · exact Frame.refl _ s
  · split
    · exact Frame.refl _ s
    · unfold State.mixAnnounced
      dsimp only
      split
      · exact Frame.refl _ s
      · exact ((s.countClipped_frame _ _).wide rfl).trans ((State.setArmed_frame _ _ _).wide rfl)
      · exact s.miss_frame _ _ _ _ _ _
      · exact s.miss_frame _ _ _ _ _ _
    · exact Frame.refl _ s

theorem State.drawSight_frame : Frame [.draws] s s.drawSight := by
  unfold State.drawSight
  split
  · intro p hp
    cases p <;> first | exact absurd (by decide) hp | simp [Same, State.chan, State.line]
  · exact Frame.refl _ s

/-- With no block-time event due, a view read sees this state and draws nothing (R93). -/
theorem State.sight_of_not_due (h : s.eventDue = false) : s.sight = s ∧ s.drawSight = s := by
  simp [State.sight, State.drawSight, h]

/-- What a view read sees differs from this state at the playout unit and the mixer only (R93). -/
theorem State.sight_eq : ∃ p m, s.sight = { s with playout := p, mixer := m } := by
  unfold State.sight
  split
  · exact ⟨_, _, rfl⟩
  · exact ⟨_, _, rfl⟩

/-- A burst that writes nothing leaves memory as it was. -/
theorem State.complete_read_frame (err : Bool) (h : s.portCells = []) : Frame [] s (s.complete err) := by
  intro p _
  cases p <;> simp [Same, State.complete, State.freePort, h, Memory.writeCells, State.chan, State.line]

theorem State.serveRead_frame (err : Bool) : Frame (changedBy (.readServed err)) s (s.serveRead err) := by
  unfold State.serveRead State.readOnPort
  split
  · rename_i r hr
    have hp : s.portCells = [] := by
      split at hr
      · rename_i h1 _; simp [State.portCells, h1]
      · simp at hr
    split
    · exact (((s.complete_read_frame err hp).mono (by simp)).trans ((State.respond_frame _ _).wide rfl)).trans
        ((State.burstError_frame _ _ _ _).wide rfl)
    · refine Frame.trans ((s.complete_read_frame err hp).mono (by simp)) ?_
      unfold State.serveWords
      split
      · split
        · exact (((State.drawSight_frame _).wide rfl).trans ((State.mixView_frame _ _ _ _).wide rfl)).trans
            ((State.respond_frame _ _).wide rfl)
        · exact (State.respond_frame _ _).wide rfl
      · exact (State.respond_frame _ _).wide rfl
  · exact Frame.refl _ s

/-! ### The part's own bursts -/

theorem State.noteResult_frame (g : Fin 12) (n : Nat) : Frame [.transaction] s (s.noteResult g n) := by
  unfold State.noteResult
  split
  · intro p hp
    cases p <;> first | exact absurd (by decide) hp | simp [Same, State.chan, State.line]
  · exact Frame.refl _ s

theorem State.dropResult_frame : Frame [.results] s s.dropResult := by
  intro p hp
  cases p <;> first | exact absurd (by decide) hp | simp [Same, State.dropResult, State.chan, State.line]

theorem State.resultWritten_frame (err : Bool) : Frame (changedBy (.resultWriteComplete err)) s (s.resultWritten err) := by
  unfold State.resultWritten
  split
  · rename_i ga _ _
    have h := (((s.complete_frame err).wide (m := changedBy (.resultWriteComplete err)) rfl).trans
      ((State.dropResult_frame _).wide rfl)).trans ((State.noteResult_frame _ ga.group ga.pos).wide rfl)
    dsimp only
    split
    · exact h.trans ((State.burstError_frame _ _ _ _).wide rfl)
    · exact h
  · exact Frame.refl _ s

theorem State.endClip_frame (f : ClipFetch) (err : Bool) (h : s.portCells = []) : Frame errorParts s (s.endClip f err) := by
  unfold State.endClip
  split
  · exact ((s.complete_read_frame err h).mono (by simp)).trans ((State.burstError_frame _ _ _ _).wide rfl)
  · exact (s.complete_read_frame err h).mono (by simp)

theorem State.clipOnPort_cells {f : ClipFetch} (h : s.clipOnPort = some f) : s.portCells = [] := by
  unfold State.clipOnPort at h
  split at h
  · rename_i hp; simp [State.portCells, hp]
  · simp at h

theorem State.clipLineRead_frame (err : Bool) : Frame (.channels :: errorParts) s (s.clipLineRead err) := by
  unfold State.clipLineRead
  split
  · rename_i f hf
    split
    · dsimp only
      have h := (s.endClip_frame f err (s.clipOnPort_cells hf)).wide (m := .channels :: errorParts) rfl
      split
      · exact h.trans ((State.setChan_frame _ _ _).wide rfl)
      · exact h
    · exact Frame.refl _ s
  · exact Frame.refl _ s

theorem State.listLineRead_frame (err : Bool) : Frame (playParts ++ errorParts) s (s.listLineRead err) := by
  unfold State.listLineRead
  split
  · rename_i f hf
    split
    · dsimp only
      have h := (s.endClip_frame f err (s.clipOnPort_cells hf)).wide (m := playParts ++ errorParts) rfl
      split
      · exact h.trans (((State.setChan_frame _ _ _).wide rfl).trans ((State.walk_frame _ _).wide rfl))
      · exact h
    · exact Frame.refl _ s
  · exact Frame.refl _ s

theorem State.mirrorWritten_frame (err : Bool) : Frame [.memory, .memErrors] s (s.mirrorWritten err) := by
  unfold State.mirrorWritten
  split
  · exact ((s.complete_frame err).wide rfl).trans ((State.memError_frame _).wide rfl)
  · exact (s.complete_frame err).wide rfl

theorem report_frame (r : Report) (l : List Part)
    (h : Part.within [.logQueue, .lostCount, .logIndices, .classTags, .classCounts, .logHeader, .attn] l = true)
    (hb : r.mirrorBase = s.report.mirrorBase) (hc : r.logBase = s.report.logBase) (hd : r.logLen = s.report.logLen)
    (he : r.attnMask = s.report.attnMask) : Frame l s { s with report := r } := by
  refine Frame.wide (l := [.logQueue, .lostCount, .logIndices, .classTags, .classCounts, .logHeader, .attn]) ?_ h
  intro p hp
  cases p <;> first | exact absurd (by decide) hp | simp [Same, hb, hc, hd, he, State.chan, State.line]

theorem State.recordWritten_frame (err : Bool) :
    Frame ([.memory, .logIndices, .classTags, .classCounts, .attn] ++ errorParts) s (s.recordWritten err) := by
  unfold State.recordWritten
  split
  · rename_i e _ _
    dsimp only
    split
    · refine Frame.trans (((s.complete_frame err).wide rfl).trans ((State.memError_frame _).wide rfl)) ?_
      unfold Report.lostHead
      obtain ⟨q, hq⟩ := Report.choose_eq { (s.complete err).memError.report with queue := (s.complete err).memError.report.queue.tail, lost := bump (s.complete err).memError.report.lost, req := .idle }
      rw [hq]
      intro p hp
      cases p <;> first | exact absurd (by decide) hp | simp [Same, State.chan, State.line]
    · refine Frame.trans ((s.complete_frame err).wide rfl) ?_
      unfold Report.wrote
      generalize hr : ({ (s.complete err).report with
        queue := (s.complete err).report.queue.tail
        tags := setTag (s.complete err).report.tags (s.complete err).report.producer e.kind.cls
        unconsumed := (s.complete err).report.unconsumed.set e.kind.cls.bit
          ((s.complete err).report.unconsumed.get e.kind.cls.bit + 1)
        producer := ((s.complete err).report.producer + 1) % (s.complete err).report.logLen
        req := .idle } : Report).evalAttn = r1
      obtain ⟨q, hq⟩ := Report.choose_eq r1
      dsimp only
      rw [hr, hq, ← hr]
      intro p hp
      cases p <;> first | exact absurd (by decide) hp | simp [Same, Report.evalAttn, State.chan, State.line]
  · exact Frame.refl _ s

theorem State.headerWritten_frame (err : Bool) : Frame [.memory, .memErrors, .logHeader] s (s.headerWritten err) := by
  unfold State.headerWritten
  split
  · rename_i h _
    dsimp only
    split
    · refine Frame.trans (((s.complete_frame err).wide rfl).trans ((State.memError_frame _).wide rfl)) ?_
      unfold Report.headerFailed
      obtain ⟨q, hq⟩ := Report.choose_eq { (s.complete err).memError.report with req := .idle }
      rw [hq]
      intro p hp
      cases p <;> first | exact absurd (by decide) hp | simp [Same, State.chan, State.line]
    · refine Frame.trans ((s.complete_frame err).wide rfl) ?_
      unfold Report.headerWrote
      obtain ⟨q, hq⟩ := Report.choose_eq { (s.complete err).report with header := some (h.1, h.2), req := .idle }
      rw [hq]
      intro p hp
      cases p <;> first | exact absurd (by decide) hp | simp [Same, State.chan, State.line]
  · exact Frame.refl _ s

/-! ### Gathers -/

theorem State.expireGather_frame (g : Fin 12) (n : Nat) : Frame closeParts s (s.expireGather g n) := by
  unfold State.expireGather
  split
  · exact s.closeGather_frame _ _
  · exact Frame.refl _ s

/-! ### Changes -/

theorem State.argsOnPort_cells (h : s.argsOnPort = true) : s.portCells = [] := by
  unfold State.argsOnPort at h
  simp only [Bool.and_eq_true, decide_eq_true_eq] at h
  simp [State.portCells, h.1]

theorem State.argsRead_frame (err : Bool) (h : s.portCells = []) : Frame (.change :: errorParts) s (s.argsRead err) := by
  unfold State.argsRead
  split
  · exact ((s.complete_read_frame err h).mono (by simp)).trans ((State.fetchFailed_frame _ _).wide rfl)
  · exact ((s.complete_read_frame err h).mono (by simp)).trans ((State.takeArgs_frame _ _).wide rfl)

/-- What a load may change before its swap's activation. -/
def loadParts : List Part := [.change, .staged, .lastError] ++ errorParts ++ flushParts

theorem staged_frame (st : Option Staged) (o : List PlanBurst) :
    Frame [.staged] s { s with plan := { s.plan with staged := st, out := o } } := by
  intro p hp
  cases p <;> first | exact absurd (by decide) hp | simp [Same, State.chan, State.line]

theorem State.setLastError_frame (e : LastError) : Frame [.lastError] s (s.setLastError e) := by
  refine Frame.trans (t := { s with plan := { s.plan with lastError := e } }) ?_ ((State.markIf_frame _ _ _).mono (by simp))
  intro p hp
  cases p <;> first | exact absurd (by decide) hp | simp [Same, State.chan, State.line]

theorem State.rejectPlan_frame (c : PlanCheck) (e : Nat) : Frame loadParts s (s.rejectPlan c e) :=
  (((staged_frame s none s.plan.out).wide rfl).trans ((State.setLastError_frame _ _).wide rfl)).trans
    (((State.log_frame _ _ _ _ _).wide rfl).trans ((State.finishWith_frame _ _ _ _).wide rfl))

theorem State.loadFailed_frame (off : Nat) : Frame loadParts s (s.loadFailed off) :=
  (((staged_frame s none s.plan.out).wide rfl).trans ((State.setLastError_frame _ _).wide rfl)).trans
    ((State.fetchFailed_frame _ _).wide rfl)

theorem State.beginSwap_frame (t : PlanTables) : Frame loadParts s (s.beginSwap t) :=
  ((s.setStage_frame _).wide rfl).trans ((State.flushPool_frame _).wide rfl)

theorem State.checkStaged_frame (st : Staged) : Frame loadParts s (s.checkStaged st) := by
  unfold State.checkStaged
  split
  · exact s.rejectPlan_frame _ _
  · exact s.beginSwap_frame _

theorem State.readNext_frame (st : Staged) : Frame loadParts s (s.readNext st) := by
  unfold State.readNext
  split
  · exact (staged_frame s _ _).wide rfl
  · exact (staged_frame s _ s.plan.out).wide rfl

theorem State.lineLoaded_frame (st : Staged) (l : StagedLine) (bs : List Byte) :
    Frame loadParts s (s.lineLoaded st l bs) := by
  unfold State.lineLoaded
  dsimp only
  split
  · exact s.readNext_frame _
  · split
    · split
      · exact s.readNext_frame _
      · exact s.rejectPlan_frame _ _
    · exact ((staged_frame s _ s.plan.out).wide rfl).trans (State.checkStaged_frame _ _)

theorem State.lineOnPort_cells {p : Staged × StagedLine} (h : s.lineOnPort = some p) : s.portCells = [] := by
  unfold State.lineOnPort at h
  split at h
  · rename_i hp _; simp [State.portCells, hp]
  · simp at h

theorem State.planLineRead_frame (err : Bool) : Frame loadParts s (s.planLineRead err) := by
  unfold State.planLineRead
  split
  · rename_i p hp
    have h := (s.complete_read_frame err (s.lineOnPort_cells hp)).mono (m := loadParts) (by simp)
    split
    · exact h.trans (State.loadFailed_frame _ _)
    · exact h.trans (State.lineLoaded_frame _ _ _ _)
  · exact Frame.refl _ s

theorem State.swapStop_frame : Frame playParts s s.swapStop := by
  unfold State.swapStop
  split
  · exact (s.stopAll_frame).trans ((State.setStage_frame _ _).wide rfl)
  · exact Frame.refl _ s

theorem State.installTables_frame (t : PlanTables) :
    Frame [.regions, .descriptors, .staged, .reportBases, .attnMask, .attn, .sections, .programmes, .timing, .groups,
      .taking, .channels] s (s.installTables t) := by
  intro p hp
  cases p <;> first
    | exact absurd (by decide) hp
    | simp [Same, State.installTables, Report.swapped, Report.evalAttn, State.line]

theorem reloadLine_frame (t : PlanTables) (k : Fin 6) : Frame lineParts s (reloadLine t s k) := s.applyLine_frame _ _ _

theorem State.markAll_frame : Frame [] s s.markAll := Frame.report ⟨_, s.report.lastWritten, s.report.req, rfl⟩

theorem State.logLoaded_frame (b : PartState) (n : Nat) : Frame [.logQueue, .lostCount] s (s.logLoaded b n) := by
  unfold State.logLoaded
  dsimp only
  split
  · exact (s.log_frame _ _ _ _).trans (State.log_frame _ _ _ _ _)
  · exact s.log_frame _ _ _ _

theorem State.activate_frame (t : PlanTables) (n : Nat) : Frame activationParts s (s.activate t n) := by
  unfold State.activate
  dsimp only
  have h1 := ((s.installTables_frame t).wide (m := activationParts) rfl).trans
    (Frame.foldl (reloadLine t) (fun s k => (reloadLine_frame s t k).wide rfl) (List.finRange 6) (s.installTables t))
  have h2 := h1.trans ((State.setPartState_frame _ .running).wide rfl)
  have h3 (u : State) : Frame activationParts u
      { u with plan := { u.plan with generation := wrap16 u.plan.generation, lastError := .none } } := by
    intro p hp
    cases p <;> first | exact absurd (by decide) hp | simp [Same, State.chan, State.line]
  have h4 := (h2.trans (h3 _)).trans (((State.logLoaded_frame _ s.plan.partState n).wide rfl).trans
    ((State.markAll_frame _).mono (by simp)))
  split
  · exact (h4.trans ((State.writeGen_frame _).mono (by simp))).trans ((State.finish_frame _ _).wide rfl)
  · exact (h4.trans (((State.writeState_frame _).mono (by simp)).trans ((State.writeGen_frame _).mono (by simp)))).trans
      ((State.finish_frame _ _).wide rfl)

theorem State.activateStaged_frame : Frame (changedBy .activationStep) s s.activateStaged := by
  unfold State.activateStaged
  split
  · exact ((s.activate_frame _ _).wide rfl).trans ((State.classifyDeferred_frame _).wide rfl)
  · exact Frame.refl _ s

theorem State.applyChannel_frame (c : Fin 4) (d : ChanDefaults) : Frame [.channels] s (s.applyChannel c d) :=
  (s.setChan_frame c _).trans ((State.mark_frame _ _).mono (by simp))

theorem State.updating_cells {k : Fin 7} (h : s.updating k = true) : s.portCells = [] := by
  unfold State.updating at h
  simp only [Bool.and_eq_true] at h
  have h2 := h.2
  split at h2
  · rename_i hp; simp [State.portCells, hp]
  · simp at h2

/-- A line of an UPDATE's entry read, given what handing the whole entry over may change. -/
theorem State.entryLineRead_frame (k : Fin 7) (err : Bool) (l : List Part) (hl : Part.within errorParts l = true)
    (hc : Part.within [.change] l = true) (hp : s.portCells = [])
    (hh : ∀ (u : State) (i : Nat) (b : List Byte), Frame l u (u.handEntry k i b)) :
    Frame l s (s.entryLineRead k err) := by
  have hf : Part.within [.change, .memErrors, .logQueue, .lostCount] l = true := by
    simp only [Part.within, errorParts, List.all_cons, List.all_nil, Bool.and_true, Bool.and_eq_true] at hl hc ⊢
    exact ⟨hc, hl⟩
  unfold State.entryLineRead
  dsimp only
  have h := (s.complete_read_frame err hp).mono (m := l) (by simp)
  split
  · exact h.trans ((State.fetchFailed_frame _ _).wide hf)
  · split
    · exact h.trans (((State.setStage_frame _ _).wide hc).trans ((State.planOut_frame _ _).mono (by simp)))
    · exact h.trans (hh _ _ _)

/-- Handing over an entry of one of the four tables. -/
theorem State.handEntry_frame (k : Fin 7) (i : Nat) (b : List Byte) (l : List Part)
    (hc : Part.within [.change] l = true) (hlog : Part.within [.logQueue, .lostCount] l = true)
    (h3 : k = 3 → Part.within sectionParts l = true) (h4 : k = 4 → Part.within flushParts l = true)
    (h5 : k = 5 → Part.within [.channels] l = true) (h6 : k = 6 → Part.within lineParts l = true) :
    Frame l s (s.handEntry k i b) := by
  have fin (u : State) (r : ResultCode) : Frame l u (u.finish r) := (u.finish_frame r).wide hc
  unfold State.handEntry
  split
  · dsimp only
    exact (((s.applySection_frame _ _ _).wide (h3 rfl)).trans ((State.logClamped_frame _ _).wide hlog)).trans (fin _ _)
  · dsimp only
    split
    · exact (((s.applyGroup_frame _ _).wide (h4 rfl)).trans ((State.logClamped_frame _ _).wide hlog)).trans (fin _ _)
    · exact fin _ _
  · dsimp only
    exact (((s.applyChannel_frame _ _).wide (h5 rfl)).trans ((State.logClamped_frame _ _).wide hlog)).trans (fin _ _)
  · dsimp only
    exact (((s.applyLine_frame _ _ _).wide (h6 rfl)).trans ((State.logClamped_frame _ _).wide hlog)).trans (fin _ _)
  · exact fin _ _

theorem State.updateSection_frame (err : Bool) (hp : s.portCells = []) :
    Frame (changedBy (.updateSection err)) s (s.entryLineRead 3 err) :=
  s.entryLineRead_frame 3 err _ rfl rfl hp fun u i b =>
    u.handEntry_frame 3 i b _ rfl rfl (fun _ => rfl) (fun h => absurd h (by decide)) (fun h => absurd h (by decide)) (fun h => absurd h (by decide))

theorem State.updateGroup_frame (err : Bool) (hp : s.portCells = []) :
    Frame (changedBy (.updateGroup err)) s (s.entryLineRead 4 err) :=
  s.entryLineRead_frame 4 err _ rfl rfl hp fun u i b =>
    u.handEntry_frame 4 i b _ rfl rfl (fun h => absurd h (by decide)) (fun _ => rfl) (fun h => absurd h (by decide)) (fun h => absurd h (by decide))

theorem State.updateChannel_frame (err : Bool) (hp : s.portCells = []) :
    Frame (changedBy (.updateChannel err)) s (s.entryLineRead 5 err) :=
  s.entryLineRead_frame 5 err _ rfl rfl hp fun u i b =>
    u.handEntry_frame 5 i b _ rfl rfl (fun h => absurd h (by decide)) (fun h => absurd h (by decide)) (fun _ => rfl) (fun h => absurd h (by decide))

theorem State.updateLine_frame (err : Bool) (hp : s.portCells = []) :
    Frame (changedBy (.updateLine err)) s (s.entryLineRead 6 err) :=
  s.entryLineRead_frame 6 err _ rfl rfl hp fun u i b =>
    u.handEntry_frame 6 i b _ rfl rfl (fun h => absurd h (by decide)) (fun h => absurd h (by decide)) (fun h => absurd h (by decide)) (fun _ => rfl)

theorem State.changeEnded_frame (err : Bool) : Frame ([.memory, .change] ++ errorParts) s (s.changeEnded err) := by
  unfold State.changeEnded
  dsimp only
  have hd (u : State) : Frame ([.memory, .change] ++ errorParts) u { u with plan := { u.plan with change := none } } := by
    intro p hp
    cases p <;> first | exact absurd (by decide) hp | simp [Same, State.chan, State.line]
  split
  · exact (((s.complete_frame err).wide rfl).trans ((State.burstError_frame _ _ _ _).wide rfl)).trans (hd _)
  · exact ((s.complete_frame err).wide rfl).trans (hd _)

theorem State.fieldWritten_frame (err : Bool) : Frame (.memory :: errorParts) s (s.fieldWritten err) := by
  unfold State.fieldWritten
  split
  · split
    · exact ((s.complete_frame err).wide rfl).trans ((State.burstError_frame _ _ _ _).wide rfl)
    · exact (s.complete_frame err).wide rfl
  · exact Frame.refl _ s

/-! ### The board -/

theorem State.released_frame (m : BitVec 2) (l : BitVec 6) :
    Frame [.resetLine, .timebase, .memorySize, .lines] s (s.released m l) := by
  intro p hp
  cases p <;> first | exact absurd (by decide) hp | simp [Same, State.released, State.chan, State.line]

theorem State.resetState_frame : Frame (changedBy .reset) s s.resetState := by
  intro p hp
  cases p <;> first | exact absurd (by decide) hp | simp [Same, State.resetState, State.chan, State.line]

end Sys2Proof.Machine
end

