-- ==== Sys2Proof/Laws/Outcome.lean ====
section
/-! SUPPORT. What statements say of the outcome of a command, carried through the end of every command: the log, the bursts
ready at the PLAN requester, exact pieces of state. -/

namespace Sys2Proof.Machine

variable {s t u : State} {l : List Part}

/-- A piece that a frame does not list is the same. -/
theorem Frame.same (h : Frame l s t) (p : Part) (hp : Part.within [p] l = false) : Same p s t := by
  refine h p fun hm => ?_
  simp [Part.within] at hp
  exact hp hm

/-- The log is as it was where a frame lists neither of its parts. -/
theorem Frame.logNow (h : Frame l s t) (h1 : Part.within [.logQueue] l = false) (h2 : Part.within [.lostCount] l = false) :
    t.logNow = s.logNow := by
  have a := h.same .logQueue h1
  have b := h.same .lostCount h2
  simp only [Same] at a b
  simp [State.logNow, a, b]

/-- The records that fall due read of the state only the plan in force, the log's indices, its queue and lost count. -/
theorem State.logged_congr (h1 : t.inForce = s.inForce) (h2 : t.report.unconsumedNum = s.report.unconsumedNum)
    (h3 : t.report.logLen = s.report.logLen) (h4 : t.logNow = s.logNow) (es : List LogRec) : t.logged es = s.logged es := by
  simp only [State.logNow, Prod.mk.injEq] at h4
  have hf : fallsDue t.report = fallsDue s.report := by
    funext q e; simp [fallsDue, h2, h3]
  simp [State.logged, h1, hf, h4.1, h4.2]

/-- A frame that lists no piece the log depends on leaves what falls due as it was. -/
theorem Frame.logged (h : Frame l s t)
    (hl : (Part.within [.logQueue] l || Part.within [.lostCount] l || Part.within [.partState] l ||
      Part.within [.logIndices] l || Part.within [.reportBases] l) = false) (es : List LogRec) : t.logged es = s.logged es := by
  simp only [Bool.or_eq_false_iff] at hl
  have a := h.same .partState hl.1.1.2
  have b := h.same .logIndices hl.1.2
  have c := h.same .reportBases hl.2
  simp only [Same] at a b c
  refine State.logged_congr ?_ ?_ c.2.2 (h.logNow hl.1.1.1.1 hl.1.1.1.2) es
  · simp [State.inForce, a]
  · simp [Report.unconsumedNum, b.1, b.2, c.2.2]

/-- Records that fall due in a state after others. -/
theorem State.logged_append (h1 : t.inForce = s.inForce) (h2 : t.report.unconsumedNum = s.report.unconsumedNum)
    (h3 : t.report.logLen = s.report.logLen) (es fs : List LogRec) (h4 : t.logNow = s.logged es) :
    t.logged fs = s.logged (es ++ fs) := by
  have hf : fallsDue t.report = fallsDue s.report := by
    funext q e; simp [fallsDue, h2, h3]
  by_cases h : s.inForce = true
  · simp only [State.logNow, State.logged, h, if_true] at h4
    simp [State.logged, h1, h, hf, h4]
  · simp only [State.logNow, State.logged, h] at h4
    simp [State.logged, h1, h]
    simpa using h4

theorem Frame.logged_append (h : Frame l s t)
    (hl : (Part.within [.partState] l || Part.within [.logIndices] l || Part.within [.reportBases] l) = false)
    (es fs : List LogRec) (h4 : t.logNow = s.logged es) : t.logged fs = s.logged (es ++ fs) := by
  simp only [Bool.or_eq_false_iff] at hl
  have a := h.same .partState hl.1.1
  have b := h.same .logIndices hl.1.2
  have c := h.same .reportBases hl.2
  simp only [Same] at a b c
  refine State.logged_append ?_ ?_ c.2.2 es fs h4
  · simp [State.inForce, a]
  · simp [Report.unconsumedNum, b.1, b.2, c.2.2]

@[simp] theorem State.logged_nil (s : State) : s.logged [] = s.logNow := by
  simp [State.logged, State.logNow]

/-- A record that falls due after others have. -/
theorem State.log_after (s t : State) {l : List Part} (h : Frame l s t)
    (hl : (Part.within [.partState] l || Part.within [.logIndices] l || Part.within [.reportBases] l) = false)
    (es : List LogRec) (h4 : t.logNow = s.logged es) (k : LogKind) (n : Nat) (d1 d2 : Word) :
    (t.log k n d1 d2).logNow = s.logged (es ++ [t.record k n d1 d2]) := by
  rw [State.log_logNow, h.logged_append hl es _ h4]

/-! ### The end of every command -/

@[simp] theorem State.settle_logNow (s : State) : s.settle.logNow = s.logNow := s.settle_frame.logNow rfl rfl

@[simp] theorem State.presentClip_mem (s : State) : s.presentClip.mem = s.mem := by
  unfold State.presentClip; split <;> [rfl; split <;> rfl]

@[simp] theorem State.presentAll_mem (s : State) : s.presentAll.mem = s.mem := s.presentClip_mem

@[simp] theorem State.arbitrate_mem (s : State) : s.arbitrate.mem = s.mem := by
  unfold State.arbitrate; split <;> [rfl; split <;> rfl]

/-- The end of a command leaves memory as it is. -/
@[simp] theorem State.settle_mem (s : State) : s.settle.mem = s.mem := by simp [State.settle]

@[simp] theorem State.presentClip_out (s : State) : s.presentClip.plan.out = s.plan.out := by
  unfold State.presentClip; split <;> [rfl; split <;> rfl]

@[simp] theorem State.presentAll_out (s : State) : s.presentAll.plan.out = s.plan.out := s.presentClip_out

@[simp] theorem State.presentClip_port (s : State) : s.presentClip.arb.port = s.arb.port := by
  unfold State.presentClip; split <;> [rfl; split <;> rfl]

@[simp] theorem State.presentAll_port (s : State) : s.presentAll.arb.port = s.arb.port := s.presentClip_port

/-- A burst that is ready at the PLAN requester, or on the port, stays one of these. -/
theorem State.arbitrate_planHas (s : State) (b : PlanBurst) (h : s.planHas b) : s.arbitrate.planHas b := by
  unfold State.arbitrate
  split
  · exact h
  · rename_i hn
    have h' : b ∈ s.plan.out := by
      rcases h with h | h
      · exact h
      · simp [hn] at h
    split
    · rename_i r _
      cases r <;> simp only [State.planHas, State.grant, reduceCtorEq, if_false, if_true] <;> try exact Or.inl h'
      cases ho : s.plan.out with
      | nil => simp [ho] at h'
      | cons x xs =>
        rw [ho] at h'
        rcases List.mem_cons.mp h' with rfl | h'
        · right; simp [State.grantedBurst, ho]
        · left; simpa using h'
    · exact h

theorem State.settle_planHas (s : State) (b : PlanBurst) (h : s.planHas b) : s.settle.planHas b := by
  have h1 : s.presentAll.planHas b := by simpa [State.planHas] using h
  have h2 := State.arbitrate_planHas _ b h1
  simpa [State.settle, State.planHas] using h2

@[simp] theorem State.presentClip_report (s : State) : s.presentClip.report = s.report := by
  unfold State.presentClip; split <;> [rfl; split <;> rfl]

theorem State.presentAll_mirrorDue (s : State) (m : Nat) : s.presentAll.mirrorDue m ↔ s.mirrorDue m := by
  have h1 : s.presentAll.report.dirty = s.report.dirty ∧ s.presentAll.report.mirrorBase = s.report.mirrorBase := by
    show (if s.presentClip.inForce then s.presentClip.report.choose else s.presentClip.report).dirty = _ ∧
      (if s.presentClip.inForce then s.presentClip.report.choose else s.presentClip.report).mirrorBase = _
    obtain ⟨q, hq⟩ := s.report.choose_eq
    split <;> simp [hq]
  simp [State.mirrorDue, h1]

/-- A mirror record that is to be written, or on the port, stays one of these. -/
theorem State.arbitrate_mirrorDue (s : State) (m : Nat) (h : s.mirrorDue m) : s.arbitrate.mirrorDue m := by
  unfold State.arbitrate
  split
  · exact h
  · rename_i hn
    have h' : s.report.dirty.getLsbD m = true := by
      rcases h with h | ⟨l, h⟩
      · exact h
      · simp [hn] at h
    split
    · rename_i r _
      cases r with
      | mirror =>
        cases hd : s.report.nextDirty with
        | none => left; simpa [State.grant, State.reportAfter, hd] using h'
        | some j =>
          by_cases hj : j = m
          · subst hj; right; exact ⟨s.mirrorBytes j, by simp [State.grant, State.grantedBurst, State.reportAfter, hd]⟩
          · left
            have hm : m < 47 := by
              by_contra hc
              rw [BitVec.getLsbD_of_ge _ _ (by omega)] at h'
              exact absurd h' (by simp)
            have : j ≠ m := hj
            simp [State.grant, State.reportAfter, hd, h', hm, BitVec.getLsbD_twoPow]
            omega
      | _ => left; exact h'
    · exact h

theorem State.settle_mirrorDue (s : State) (m : Nat) (h : s.mirrorDue m) : s.settle.mirrorDue m := by
  have h1 := (s.presentAll_mirrorDue m).mpr h
  have h2 := State.arbitrate_mirrorDue _ m h1
  exact (State.presentAll_mirrorDue _ m).mpr h2

@[simp] theorem State.settle_plan_change (s : State) : s.settle.plan.change = s.plan.change :=
  s.settle_frame.same .change rfl

/-- A line record that a command leaves alone is exactly the same. -/
theorem Frame.line_eq (h : Frame l s t) (h1 : Part.within [.lines] l = false) (h2 : Part.within [.requests] l = false)
    (k : Fin 6) : t.line k = s.line k := by
  have a := h.same .lines h1
  have b := h.same .requests h2
  simp only [Same] at a b
  have a := a k
  have b := b k
  revert a b
  generalize t.line k = x
  generalize s.line k = y
  intro a b
  cases x; cases y
  simp only [LineRec.still, LineRec.mk.injEq] at a ⊢
  simp_all

@[simp] theorem State.settle_line (s : State) (k : Fin 6) : s.settle.line k = s.line k := s.settle_frame.line_eq rfl rfl k

/-- The write-back of a change whose result is given. -/
theorem State.finishWith_answered (s : State) (r : ResultCode) (a b : Nat) (h : s.plan.change.isSome = true) :
    (s.finishWith r a b).answered r a b := by
  obtain ⟨c, hc⟩ := Option.isSome_iff_exists.mp h
  simp [State.answered, State.finishWith, hc, State.stage, State.planHas]

theorem State.settle_answered (s : State) (r : ResultCode) (a b : Nat) (h : s.answered r a b) : s.settle.answered r a b :=
  ⟨by simpa [State.stage] using h.1, s.settle_planHas _ h.2⟩

end Sys2Proof.Machine
end

