-- ==== Sys2Proof/Laws/Records.lean ====
section
/-! SUPPORT. Each block's records read through each basic update: one lemma per record and update. -/

namespace Sys2Proof.Machine

variable (s : State)

/-! ### setSec -/

@[simp] theorem State.prog_setSec (k : Fin 24) (r : SectionRec) (i : Fin 6) : (s.setSec k r).prog i = s.prog i := rfl
@[simp] theorem State.chan_setSec (k : Fin 24) (r : SectionRec) (i : Fin 4) : (s.setSec k r).chan i = s.chan i := rfl
@[simp] theorem State.brk_setSec (k : Fin 24) (r : SectionRec) (i : Fin 24) : (s.setSec k r).brk i = s.brk i := rfl
@[simp] theorem State.armed_setSec (k : Fin 24) (r : SectionRec) (i : Fin 4) : (s.setSec k r).armed i = s.armed i := rfl
@[simp] theorem State.grp_setSec (k : Fin 24) (r : SectionRec) (i : Fin 12) : (s.setSec k r).grp i = s.grp i := rfl
@[simp] theorem State.line_setSec (k : Fin 24) (r : SectionRec) (i : Fin 6) : (s.setSec k r).line i = s.line i := rfl
@[simp] theorem State.inForce_setSec (k : Fin 24) (r : SectionRec) : (s.setSec k r).inForce = s.inForce := rfl
@[simp] theorem State.record_setSec (k : Fin 24) (r : SectionRec) (kd : LogKind) (j : Nat) (e1 e2 : Word) : (s.setSec k r).record kd j e1 e2 = s.record kd j e1 e2 := rfl

/-! ### setChan -/

@[simp] theorem State.sec_setChan (c : Fin 4) (r : Chan) (i : Fin 24) : (s.setChan c r).sec i = s.sec i := rfl
@[simp] theorem State.prog_setChan (c : Fin 4) (r : Chan) (i : Fin 6) : (s.setChan c r).prog i = s.prog i := rfl
@[simp] theorem State.brk_setChan (c : Fin 4) (r : Chan) (i : Fin 24) : (s.setChan c r).brk i = s.brk i := rfl
@[simp] theorem State.armed_setChan (c : Fin 4) (r : Chan) (i : Fin 4) : (s.setChan c r).armed i = s.armed i := rfl
@[simp] theorem State.grp_setChan (c : Fin 4) (r : Chan) (i : Fin 12) : (s.setChan c r).grp i = s.grp i := rfl
@[simp] theorem State.line_setChan (c : Fin 4) (r : Chan) (i : Fin 6) : (s.setChan c r).line i = s.line i := rfl
@[simp] theorem State.inForce_setChan (c : Fin 4) (r : Chan) : (s.setChan c r).inForce = s.inForce := rfl
@[simp] theorem State.record_setChan (c : Fin 4) (r : Chan) (kd : LogKind) (j : Nat) (e1 e2 : Word) : (s.setChan c r).record kd j e1 e2 = s.record kd j e1 e2 := rfl

/-! ### setBrk -/

@[simp] theorem State.sec_setBrk (k : Fin 24) (r : BreakRec) (i : Fin 24) : (s.setBrk k r).sec i = s.sec i := rfl
@[simp] theorem State.prog_setBrk (k : Fin 24) (r : BreakRec) (i : Fin 6) : (s.setBrk k r).prog i = s.prog i := rfl
@[simp] theorem State.chan_setBrk (k : Fin 24) (r : BreakRec) (i : Fin 4) : (s.setBrk k r).chan i = s.chan i := rfl
@[simp] theorem State.armed_setBrk (k : Fin 24) (r : BreakRec) (i : Fin 4) : (s.setBrk k r).armed i = s.armed i := rfl
@[simp] theorem State.grp_setBrk (k : Fin 24) (r : BreakRec) (i : Fin 12) : (s.setBrk k r).grp i = s.grp i := rfl
@[simp] theorem State.line_setBrk (k : Fin 24) (r : BreakRec) (i : Fin 6) : (s.setBrk k r).line i = s.line i := rfl
@[simp] theorem State.inForce_setBrk (k : Fin 24) (r : BreakRec) : (s.setBrk k r).inForce = s.inForce := rfl
@[simp] theorem State.record_setBrk (k : Fin 24) (r : BreakRec) (kd : LogKind) (j : Nat) (e1 e2 : Word) : (s.setBrk k r).record kd j e1 e2 = s.record kd j e1 e2 := rfl

/-! ### setArmed -/

@[simp] theorem State.sec_setArmed (c : Fin 4) (v : Bool) (i : Fin 24) : (s.setArmed c v).sec i = s.sec i := rfl
@[simp] theorem State.prog_setArmed (c : Fin 4) (v : Bool) (i : Fin 6) : (s.setArmed c v).prog i = s.prog i := rfl
@[simp] theorem State.chan_setArmed (c : Fin 4) (v : Bool) (i : Fin 4) : (s.setArmed c v).chan i = s.chan i := rfl
@[simp] theorem State.brk_setArmed (c : Fin 4) (v : Bool) (i : Fin 24) : (s.setArmed c v).brk i = s.brk i := rfl
@[simp] theorem State.grp_setArmed (c : Fin 4) (v : Bool) (i : Fin 12) : (s.setArmed c v).grp i = s.grp i := rfl
@[simp] theorem State.line_setArmed (c : Fin 4) (v : Bool) (i : Fin 6) : (s.setArmed c v).line i = s.line i := rfl
@[simp] theorem State.inForce_setArmed (c : Fin 4) (v : Bool) : (s.setArmed c v).inForce = s.inForce := rfl
@[simp] theorem State.record_setArmed (c : Fin 4) (v : Bool) (kd : LogKind) (j : Nat) (e1 e2 : Word) : (s.setArmed c v).record kd j e1 e2 = s.record kd j e1 e2 := rfl

/-! ### setGrp -/

@[simp] theorem State.sec_setGrp (g : Fin 12) (r : Group) (i : Fin 24) : (s.setGrp g r).sec i = s.sec i := rfl
@[simp] theorem State.prog_setGrp (g : Fin 12) (r : Group) (i : Fin 6) : (s.setGrp g r).prog i = s.prog i := rfl
@[simp] theorem State.chan_setGrp (g : Fin 12) (r : Group) (i : Fin 4) : (s.setGrp g r).chan i = s.chan i := rfl
@[simp] theorem State.brk_setGrp (g : Fin 12) (r : Group) (i : Fin 24) : (s.setGrp g r).brk i = s.brk i := rfl
@[simp] theorem State.armed_setGrp (g : Fin 12) (r : Group) (i : Fin 4) : (s.setGrp g r).armed i = s.armed i := rfl
@[simp] theorem State.line_setGrp (g : Fin 12) (r : Group) (i : Fin 6) : (s.setGrp g r).line i = s.line i := rfl
@[simp] theorem State.inForce_setGrp (g : Fin 12) (r : Group) : (s.setGrp g r).inForce = s.inForce := rfl
@[simp] theorem State.record_setGrp (g : Fin 12) (r : Group) (kd : LogKind) (j : Nat) (e1 e2 : Word) : (s.setGrp g r).record kd j e1 e2 = s.record kd j e1 e2 := rfl

/-! ### setLine -/

@[simp] theorem State.sec_setLine (k : Fin 6) (r : LineRec) (i : Fin 24) : (s.setLine k r).sec i = s.sec i := rfl
@[simp] theorem State.prog_setLine (k : Fin 6) (r : LineRec) (i : Fin 6) : (s.setLine k r).prog i = s.prog i := rfl
@[simp] theorem State.chan_setLine (k : Fin 6) (r : LineRec) (i : Fin 4) : (s.setLine k r).chan i = s.chan i := rfl
@[simp] theorem State.brk_setLine (k : Fin 6) (r : LineRec) (i : Fin 24) : (s.setLine k r).brk i = s.brk i := rfl
@[simp] theorem State.armed_setLine (k : Fin 6) (r : LineRec) (i : Fin 4) : (s.setLine k r).armed i = s.armed i := rfl
@[simp] theorem State.grp_setLine (k : Fin 6) (r : LineRec) (i : Fin 12) : (s.setLine k r).grp i = s.grp i := rfl
@[simp] theorem State.inForce_setLine (k : Fin 6) (r : LineRec) : (s.setLine k r).inForce = s.inForce := rfl
@[simp] theorem State.record_setLine (k : Fin 6) (r : LineRec) (kd : LogKind) (j : Nat) (e1 e2 : Word) : (s.setLine k r).record kd j e1 e2 = s.record kd j e1 e2 := rfl

/-! ### mark -/

@[simp] theorem State.sec_mark (m : Nat) (i : Fin 24) : (s.mark m).sec i = s.sec i := rfl
@[simp] theorem State.prog_mark (m : Nat) (i : Fin 6) : (s.mark m).prog i = s.prog i := rfl
@[simp] theorem State.chan_mark (m : Nat) (i : Fin 4) : (s.mark m).chan i = s.chan i := rfl
@[simp] theorem State.brk_mark (m : Nat) (i : Fin 24) : (s.mark m).brk i = s.brk i := rfl
@[simp] theorem State.armed_mark (m : Nat) (i : Fin 4) : (s.mark m).armed i = s.armed i := rfl
@[simp] theorem State.grp_mark (m : Nat) (i : Fin 12) : (s.mark m).grp i = s.grp i := rfl
@[simp] theorem State.line_mark (m : Nat) (i : Fin 6) : (s.mark m).line i = s.line i := rfl
@[simp] theorem State.inForce_mark (m : Nat) : (s.mark m).inForce = s.inForce := rfl
@[simp] theorem State.record_mark (m : Nat) (kd : LogKind) (j : Nat) (e1 e2 : Word) : (s.mark m).record kd j e1 e2 = s.record kd j e1 e2 := rfl

/-! ### markIf -/

@[simp] theorem State.sec_markIf (b : Bool) (m : Nat) (i : Fin 24) : (s.markIf b m).sec i = s.sec i := rfl
@[simp] theorem State.prog_markIf (b : Bool) (m : Nat) (i : Fin 6) : (s.markIf b m).prog i = s.prog i := rfl
@[simp] theorem State.chan_markIf (b : Bool) (m : Nat) (i : Fin 4) : (s.markIf b m).chan i = s.chan i := rfl
@[simp] theorem State.brk_markIf (b : Bool) (m : Nat) (i : Fin 24) : (s.markIf b m).brk i = s.brk i := rfl
@[simp] theorem State.armed_markIf (b : Bool) (m : Nat) (i : Fin 4) : (s.markIf b m).armed i = s.armed i := rfl
@[simp] theorem State.grp_markIf (b : Bool) (m : Nat) (i : Fin 12) : (s.markIf b m).grp i = s.grp i := rfl
@[simp] theorem State.line_markIf (b : Bool) (m : Nat) (i : Fin 6) : (s.markIf b m).line i = s.line i := rfl
@[simp] theorem State.inForce_markIf (b : Bool) (m : Nat) : (s.markIf b m).inForce = s.inForce := rfl
@[simp] theorem State.record_markIf (b : Bool) (m : Nat) (kd : LogKind) (j : Nat) (e1 e2 : Word) : (s.markIf b m).record kd j e1 e2 = s.record kd j e1 e2 := rfl

/-! ### log -/

@[simp] theorem State.sec_log (kind : LogKind) (n : Nat) (d1 d2 : Word) (i : Fin 24) : (s.log kind n d1 d2).sec i = s.sec i := rfl
@[simp] theorem State.prog_log (kind : LogKind) (n : Nat) (d1 d2 : Word) (i : Fin 6) : (s.log kind n d1 d2).prog i = s.prog i := rfl
@[simp] theorem State.chan_log (kind : LogKind) (n : Nat) (d1 d2 : Word) (i : Fin 4) : (s.log kind n d1 d2).chan i = s.chan i := rfl
@[simp] theorem State.brk_log (kind : LogKind) (n : Nat) (d1 d2 : Word) (i : Fin 24) : (s.log kind n d1 d2).brk i = s.brk i := rfl
@[simp] theorem State.armed_log (kind : LogKind) (n : Nat) (d1 d2 : Word) (i : Fin 4) : (s.log kind n d1 d2).armed i = s.armed i := rfl
@[simp] theorem State.grp_log (kind : LogKind) (n : Nat) (d1 d2 : Word) (i : Fin 12) : (s.log kind n d1 d2).grp i = s.grp i := rfl
@[simp] theorem State.line_log (kind : LogKind) (n : Nat) (d1 d2 : Word) (i : Fin 6) : (s.log kind n d1 d2).line i = s.line i := rfl
@[simp] theorem State.inForce_log (kind : LogKind) (n : Nat) (d1 d2 : Word) : (s.log kind n d1 d2).inForce = s.inForce := rfl
@[simp] theorem State.record_log (kind : LogKind) (n : Nat) (d1 d2 : Word) (kd : LogKind) (j : Nat) (e1 e2 : Word) : (s.log kind n d1 d2).record kd j e1 e2 = s.record kd j e1 e2 := rfl

/-! ### memError -/

@[simp] theorem State.sec_memError (i : Fin 24) : (s.memError).sec i = s.sec i := rfl
@[simp] theorem State.prog_memError (i : Fin 6) : (s.memError).prog i = s.prog i := rfl
@[simp] theorem State.chan_memError (i : Fin 4) : (s.memError).chan i = s.chan i := rfl
@[simp] theorem State.brk_memError (i : Fin 24) : (s.memError).brk i = s.brk i := rfl
@[simp] theorem State.armed_memError (i : Fin 4) : (s.memError).armed i = s.armed i := rfl
@[simp] theorem State.grp_memError (i : Fin 12) : (s.memError).grp i = s.grp i := rfl
@[simp] theorem State.line_memError (i : Fin 6) : (s.memError).line i = s.line i := rfl
@[simp] theorem State.record_memError (kd : LogKind) (j : Nat) (e1 e2 : Word) : (s.memError).record kd j e1 e2 = s.record kd j e1 e2 := rfl

/-! ### finishWith -/

@[simp] theorem State.sec_finishWith (r : ResultCode) (a b : Nat) (i : Fin 24) : (s.finishWith r a b).sec i = s.sec i := rfl
@[simp] theorem State.prog_finishWith (r : ResultCode) (a b : Nat) (i : Fin 6) : (s.finishWith r a b).prog i = s.prog i := rfl
@[simp] theorem State.chan_finishWith (r : ResultCode) (a b : Nat) (i : Fin 4) : (s.finishWith r a b).chan i = s.chan i := rfl
@[simp] theorem State.brk_finishWith (r : ResultCode) (a b : Nat) (i : Fin 24) : (s.finishWith r a b).brk i = s.brk i := rfl
@[simp] theorem State.armed_finishWith (r : ResultCode) (a b : Nat) (i : Fin 4) : (s.finishWith r a b).armed i = s.armed i := rfl
@[simp] theorem State.grp_finishWith (r : ResultCode) (a b : Nat) (i : Fin 12) : (s.finishWith r a b).grp i = s.grp i := rfl
@[simp] theorem State.line_finishWith (r : ResultCode) (a b : Nat) (i : Fin 6) : (s.finishWith r a b).line i = s.line i := rfl
@[simp] theorem State.record_finishWith (r : ResultCode) (a b : Nat) (kd : LogKind) (j : Nat) (e1 e2 : Word) : (s.finishWith r a b).record kd j e1 e2 = s.record kd j e1 e2 := rfl

/-! ### setStage -/

@[simp] theorem State.sec_setStage (st : Stage) (i : Fin 24) : (s.setStage st).sec i = s.sec i := rfl
@[simp] theorem State.prog_setStage (st : Stage) (i : Fin 6) : (s.setStage st).prog i = s.prog i := rfl
@[simp] theorem State.chan_setStage (st : Stage) (i : Fin 4) : (s.setStage st).chan i = s.chan i := rfl
@[simp] theorem State.brk_setStage (st : Stage) (i : Fin 24) : (s.setStage st).brk i = s.brk i := rfl
@[simp] theorem State.armed_setStage (st : Stage) (i : Fin 4) : (s.setStage st).armed i = s.armed i := rfl
@[simp] theorem State.grp_setStage (st : Stage) (i : Fin 12) : (s.setStage st).grp i = s.grp i := rfl
@[simp] theorem State.line_setStage (st : Stage) (i : Fin 6) : (s.setStage st).line i = s.line i := rfl
@[simp] theorem State.record_setStage (st : Stage) (kd : LogKind) (j : Nat) (e1 e2 : Word) : (s.setStage st).record kd j e1 e2 = s.record kd j e1 e2 := rfl

/-! ### planOut -/

@[simp] theorem State.sec_planOut (b : PlanBurst) (i : Fin 24) : (s.planOut b).sec i = s.sec i := rfl
@[simp] theorem State.prog_planOut (b : PlanBurst) (i : Fin 6) : (s.planOut b).prog i = s.prog i := rfl
@[simp] theorem State.chan_planOut (b : PlanBurst) (i : Fin 4) : (s.planOut b).chan i = s.chan i := rfl
@[simp] theorem State.brk_planOut (b : PlanBurst) (i : Fin 24) : (s.planOut b).brk i = s.brk i := rfl
@[simp] theorem State.armed_planOut (b : PlanBurst) (i : Fin 4) : (s.planOut b).armed i = s.armed i := rfl
@[simp] theorem State.grp_planOut (b : PlanBurst) (i : Fin 12) : (s.planOut b).grp i = s.grp i := rfl
@[simp] theorem State.line_planOut (b : PlanBurst) (i : Fin 6) : (s.planOut b).line i = s.line i := rfl
@[simp] theorem State.inForce_planOut (b : PlanBurst) : (s.planOut b).inForce = s.inForce := rfl
@[simp] theorem State.record_planOut (b : PlanBurst) (kd : LogKind) (j : Nat) (e1 e2 : Word) : (s.planOut b).record kd j e1 e2 = s.record kd j e1 e2 := rfl

/-! ### respond -/

@[simp] theorem State.sec_respond (r : Response) (i : Fin 24) : (s.respond r).sec i = s.sec i := rfl
@[simp] theorem State.prog_respond (r : Response) (i : Fin 6) : (s.respond r).prog i = s.prog i := rfl
@[simp] theorem State.chan_respond (r : Response) (i : Fin 4) : (s.respond r).chan i = s.chan i := rfl
@[simp] theorem State.brk_respond (r : Response) (i : Fin 24) : (s.respond r).brk i = s.brk i := rfl
@[simp] theorem State.armed_respond (r : Response) (i : Fin 4) : (s.respond r).armed i = s.armed i := rfl
@[simp] theorem State.grp_respond (r : Response) (i : Fin 12) : (s.respond r).grp i = s.grp i := rfl
@[simp] theorem State.line_respond (r : Response) (i : Fin 6) : (s.respond r).line i = s.line i := rfl
@[simp] theorem State.inForce_respond (r : Response) : (s.respond r).inForce = s.inForce := rfl
@[simp] theorem State.record_respond (r : Response) (kd : LogKind) (j : Nat) (e1 e2 : Word) : (s.respond r).record kd j e1 e2 = s.record kd j e1 e2 := rfl

/-! ### freePort -/

@[simp] theorem State.sec_freePort (i : Fin 24) : (s.freePort).sec i = s.sec i := rfl
@[simp] theorem State.prog_freePort (i : Fin 6) : (s.freePort).prog i = s.prog i := rfl
@[simp] theorem State.chan_freePort (i : Fin 4) : (s.freePort).chan i = s.chan i := rfl
@[simp] theorem State.brk_freePort (i : Fin 24) : (s.freePort).brk i = s.brk i := rfl
@[simp] theorem State.armed_freePort (i : Fin 4) : (s.freePort).armed i = s.armed i := rfl
@[simp] theorem State.grp_freePort (i : Fin 12) : (s.freePort).grp i = s.grp i := rfl
@[simp] theorem State.line_freePort (i : Fin 6) : (s.freePort).line i = s.line i := rfl
@[simp] theorem State.inForce_freePort : (s.freePort).inForce = s.inForce := rfl
@[simp] theorem State.record_freePort (kd : LogKind) (j : Nat) (e1 e2 : Word) : (s.freePort).record kd j e1 e2 = s.record kd j e1 e2 := rfl

/-! ### complete -/

@[simp] theorem State.sec_complete (e : Bool) (i : Fin 24) : (s.complete e).sec i = s.sec i := rfl
@[simp] theorem State.prog_complete (e : Bool) (i : Fin 6) : (s.complete e).prog i = s.prog i := rfl
@[simp] theorem State.chan_complete (e : Bool) (i : Fin 4) : (s.complete e).chan i = s.chan i := rfl
@[simp] theorem State.brk_complete (e : Bool) (i : Fin 24) : (s.complete e).brk i = s.brk i := rfl
@[simp] theorem State.armed_complete (e : Bool) (i : Fin 4) : (s.complete e).armed i = s.armed i := rfl
@[simp] theorem State.grp_complete (e : Bool) (i : Fin 12) : (s.complete e).grp i = s.grp i := rfl
@[simp] theorem State.line_complete (e : Bool) (i : Fin 6) : (s.complete e).line i = s.line i := rfl
@[simp] theorem State.inForce_complete (e : Bool) : (s.complete e).inForce = s.inForce := rfl
@[simp] theorem State.record_complete (e : Bool) (kd : LogKind) (j : Nat) (e1 e2 : Word) : (s.complete e).record kd j e1 e2 = s.record kd j e1 e2 := rfl

end Sys2Proof.Machine
end

