-- ==== Sys2Proof/Laws/Settle.lean ====
section
/-! SUPPORT. The end of every command leaves every named piece of state exactly as it is, and nothing presented or to be
presented waits for a free port. -/

namespace Sys2Proof.Machine

variable (s : State)

@[simp] theorem State.settle_pending : s.settle.pending = s.pending := s.settle_frame.same .commands rfl
@[simp] theorem State.settle_inReset : s.settle.inReset = s.inReset := s.settle_frame.same .resetLine rfl
@[simp] theorem State.settle_now : s.settle.now = s.now := s.settle_frame.same .timebase rfl
@[simp] theorem State.settle_free : s.settle.free = s.free := s.settle_frame.same .draws rfl
@[simp] theorem State.settle_memSize : s.settle.path.memSize = s.path.memSize := s.settle_frame.same .memorySize rfl
@[simp] theorem State.settle_regions : s.settle.path.regions = s.path.regions := (s.settle_frame.same .regions rfl).1
@[simp] theorem State.settle_implicit : s.settle.path.implicit = s.path.implicit := (s.settle_frame.same .regions rfl).2
@[simp] theorem State.settle_queue : s.settle.path.queue = s.path.queue := s.settle_frame.same .queue rfl
@[simp] theorem State.settle_fence : s.settle.path.fence = s.path.fence := s.settle_frame.same .fence rfl
@[simp] theorem State.settle_response : s.settle.path.response = s.path.response := s.settle_frame.same .response rfl
@[simp] theorem State.settle_anchor : s.settle.plan.anchor = s.plan.anchor := s.settle_frame.same .anchor rfl
@[simp] theorem State.settle_partState : s.settle.plan.partState = s.plan.partState := s.settle_frame.same .partState rfl
@[simp] theorem State.settle_generation : s.settle.plan.generation = s.plan.generation := s.settle_frame.same .generation rfl
@[simp] theorem State.settle_memErrors : s.settle.plan.memErrors = s.plan.memErrors := s.settle_frame.same .memErrors rfl
@[simp] theorem State.settle_lastError : s.settle.plan.lastError = s.plan.lastError := s.settle_frame.same .lastError rfl
@[simp] theorem State.settle_descr : s.settle.plan.descr = s.plan.descr := s.settle_frame.same .descriptors rfl
@[simp] theorem State.settle_staged : s.settle.plan.staged = s.plan.staged := s.settle_frame.same .staged rfl
@[simp] theorem State.settle_sections : s.settle.sections = s.sections := s.settle_frame.same .sections rfl
@[simp] theorem State.settle_progs : s.settle.tracker.progs = s.tracker.progs := s.settle_frame.same .programmes rfl
@[simp] theorem State.settle_reference : s.settle.tracker.reference = s.tracker.reference := (s.settle_frame.same .timing rfl).1
@[simp] theorem State.settle_timing : s.settle.tracker.timing = s.tracker.timing := (s.settle_frame.same .timing rfl).2.1
@[simp] theorem State.settle_watchdog : s.settle.tracker.watchdog = s.tracker.watchdog := (s.settle_frame.same .timing rfl).2.2.1
@[simp] theorem State.settle_nextFree : s.settle.tracker.nextFree = s.tracker.nextFree := (s.settle_frame.same .timing rfl).2.2.2.1
@[simp] theorem State.settle_freeCount : s.settle.tracker.freeCount = s.tracker.freeCount := (s.settle_frame.same .timing rfl).2.2.2.2
@[simp] theorem State.settle_waitOrder : s.settle.playout.waitOrder = s.playout.waitOrder := s.settle_frame.same .startOrder rfl
@[simp] theorem State.settle_recs : s.settle.mixer.recs = s.mixer.recs := s.settle_frame.same .breakIns rfl
@[simp] theorem State.settle_armedTable : s.settle.mixer.armed = s.mixer.armed := s.settle_frame.same .missStates rfl
@[simp] theorem State.settle_groups : s.settle.gather.groups = s.gather.groups := s.settle_frame.same .groups rfl
@[simp] theorem State.settle_opens : s.settle.gather.opens = s.gather.opens := s.settle_frame.same .opens rfl
@[simp] theorem State.settle_results : s.settle.gather.results = s.gather.results := s.settle_frame.same .results rfl
@[simp] theorem State.settle_waiting : s.settle.gather.waiting = s.gather.waiting := s.settle_frame.same .arrival rfl
@[simp] theorem State.settle_taking : s.settle.gather.taking = s.gather.taking := s.settle_frame.same .taking rfl
@[simp] theorem State.settle_logQueue : s.settle.report.queue = s.report.queue := s.settle_frame.same .logQueue rfl
@[simp] theorem State.settle_lost : s.settle.report.lost = s.report.lost := s.settle_frame.same .lostCount rfl
@[simp] theorem State.settle_producer : s.settle.report.producer = s.report.producer := (s.settle_frame.same .logIndices rfl).1
@[simp] theorem State.settle_consumer : s.settle.report.consumer = s.report.consumer := (s.settle_frame.same .logIndices rfl).2
@[simp] theorem State.settle_tags : s.settle.report.tags = s.report.tags := s.settle_frame.same .classTags rfl
@[simp] theorem State.settle_unconsumed : s.settle.report.unconsumed = s.report.unconsumed := s.settle_frame.same .classCounts rfl
@[simp] theorem State.settle_header : s.settle.report.header = s.report.header := s.settle_frame.same .logHeader rfl
@[simp] theorem State.settle_mirrorBase : s.settle.report.mirrorBase = s.report.mirrorBase := (s.settle_frame.same .reportBases rfl).1
@[simp] theorem State.settle_logBase : s.settle.report.logBase = s.report.logBase := (s.settle_frame.same .reportBases rfl).2.1
@[simp] theorem State.settle_logLen : s.settle.report.logLen = s.report.logLen := (s.settle_frame.same .reportBases rfl).2.2
@[simp] theorem State.settle_attnMask : s.settle.report.attnMask = s.report.attnMask := s.settle_frame.same .attnMask rfl
@[simp] theorem State.settle_attn : s.settle.report.attn = s.report.attn := s.settle_frame.same .attn rfl

@[simp] theorem State.settle_sec (k : Fin 24) : s.settle.sec k = s.sec k := by simp [State.sec]
@[simp] theorem State.settle_prog (p : Fin 6) : s.settle.prog p = s.prog p := by simp [State.prog]
@[simp] theorem State.settle_brk (k : Fin 24) : s.settle.brk k = s.brk k := by simp [State.brk]
@[simp] theorem State.settle_armed (c : Fin 4) : s.settle.armed c = s.armed c := by simp [State.armed]
@[simp] theorem State.settle_grp (g : Fin 12) : s.settle.grp g = s.grp g := by simp [State.grp]
@[simp] theorem State.settle_still (c : Fin 4) : (s.settle.chan c).still = (s.chan c).still := s.settle_frame.same .channels rfl c
@[simp] theorem State.settle_txn : s.settle.path.txn.map Txn.still = s.path.txn.map Txn.still :=
  s.settle_frame.same .transaction rfl
@[simp] theorem State.settle_inForce : s.settle.inForce = s.inForce := by simp [State.inForce]
@[simp] theorem State.settle_stage : s.settle.stage = s.stage := by simp [State.stage]
@[simp] theorem State.settle_openAt (g : Fin 12) (n : Nat) : s.settle.openAt g n = s.openAt g n := by simp [State.openAt]

@[simp] theorem State.settle_chan_st (c : Fin 4) : (s.settle.chan c).st = (s.chan c).st := by
  have h : (s.settle.chan c).still.st = (s.chan c).still.st := by rw [s.settle_still c]
  exact h
@[simp] theorem State.settle_chan_defaults (c : Fin 4) : (s.settle.chan c).defaults = (s.chan c).defaults := by
  have h : (s.settle.chan c).still.defaults = (s.chan c).still.defaults := by rw [s.settle_still c]
  exact h
@[simp] theorem State.settle_chan_owner (c : Fin 4) : (s.settle.chan c).owner = (s.chan c).owner := by
  have h : (s.settle.chan c).still.owner = (s.chan c).still.owner := by rw [s.settle_still c]
  exact h
@[simp] theorem State.settle_chan_prio (c : Fin 4) : (s.settle.chan c).prio = (s.chan c).prio := by
  have h : (s.settle.chan c).still.prio = (s.chan c).still.prio := by rw [s.settle_still c]
  exact h
@[simp] theorem State.settle_chan_mask (c : Fin 4) : (s.settle.chan c).mask = (s.chan c).mask := by
  have h : (s.settle.chan c).still.mask = (s.chan c).still.mask := by rw [s.settle_still c]
  exact h
@[simp] theorem State.settle_chan_listAddr (c : Fin 4) : (s.settle.chan c).listAddr = (s.chan c).listAddr := by
  have h : (s.settle.chan c).still.listAddr = (s.chan c).still.listAddr := by rw [s.settle_still c]
  exact h
@[simp] theorem State.settle_chan_repeats (c : Fin 4) : (s.settle.chan c).repeats = (s.chan c).repeats := by
  have h : (s.settle.chan c).still.repeats = (s.chan c).still.repeats := by rw [s.settle_still c]
  exact h
@[simp] theorem State.settle_chan_reqRep (c : Fin 4) : (s.settle.chan c).reqRep = (s.chan c).reqRep := by
  have h : (s.settle.chan c).still.reqRep = (s.chan c).still.reqRep := by rw [s.settle_still c]
  exact h
@[simp] theorem State.settle_chan_use (c : Fin 4) : (s.settle.chan c).use = (s.chan c).use := by
  have h : (s.settle.chan c).still.use = (s.chan c).still.use := by rw [s.settle_still c]
  exact h
@[simp] theorem State.settle_chan_i (c : Fin 4) : (s.settle.chan c).i = (s.chan c).i := by
  have h : (s.settle.chan c).still.i = (s.chan c).still.i := by rw [s.settle_still c]
  exact h
@[simp] theorem State.settle_chan_startPos (c : Fin 4) : (s.settle.chan c).startPos = (s.chan c).startPos := by
  have h : (s.settle.chan c).still.startPos = (s.chan c).still.startPos := by rw [s.settle_still c]
  exact h
@[simp] theorem State.settle_chan_walk (c : Fin 4) : (s.settle.chan c).walk = (s.chan c).walk := by
  have h : (s.settle.chan c).still.walk = (s.chan c).still.walk := by rw [s.settle_still c]
  exact h
@[simp] theorem State.settle_chan_endIdx (c : Fin 4) : (s.settle.chan c).endIdx = (s.chan c).endIdx := by
  have h : (s.settle.chan c).still.endIdx = (s.chan c).still.endIdx := by rw [s.settle_still c]
  exact h
@[simp] theorem State.settle_chan_headLine (c : Fin 4) : (s.settle.chan c).headLine = (s.chan c).headLine := by
  have h : (s.settle.chan c).still.headLine = (s.chan c).still.headLine := by rw [s.settle_still c]
  exact h
@[simp] theorem State.settle_chan_curLine (c : Fin 4) : (s.settle.chan c).curLine = (s.chan c).curLine := by
  have h : (s.settle.chan c).still.curLine = (s.chan c).still.curLine := by rw [s.settle_still c]
  exact h
@[simp] theorem State.settle_chan_nextLine (c : Fin 4) : (s.settle.chan c).nextLine = (s.chan c).nextLine := by
  have h : (s.settle.chan c).still.nextLine = (s.chan c).still.nextLine := by rw [s.settle_still c]
  exact h
@[simp] theorem State.settle_chan_queued (c : Fin 4) : (s.settle.chan c).queued = (s.chan c).queued := by
  have h : (s.settle.chan c).still.queued = (s.chan c).still.queued := by rw [s.settle_still c]
  exact h
@[simp] theorem State.settle_chan_pending (c : Fin 4) : (s.settle.chan c).pending = (s.chan c).pending := by
  have h : (s.settle.chan c).still.pending = (s.chan c).still.pending := by rw [s.settle_still c]
  exact h
@[simp] theorem State.settle_chan_waiting (c : Fin 4) : (s.settle.chan c).waiting = (s.chan c).waiting := by
  have h : (s.settle.chan c).still.waiting = (s.chan c).still.waiting := by rw [s.settle_still c]
  exact h
@[simp] theorem State.settle_chan_underruns (c : Fin 4) : (s.settle.chan c).underruns = (s.chan c).underruns := by
  have h : (s.settle.chan c).still.underruns = (s.chan c).still.underruns := by rw [s.settle_still c]
  exact h
@[simp] theorem State.settle_chan_lateReads (c : Fin 4) : (s.settle.chan c).lateReads = (s.chan c).lateReads := by
  have h : (s.settle.chan c).still.lateReads = (s.chan c).still.lateReads := by rw [s.settle_still c]
  exact h
@[simp] theorem State.settle_chan_saturations (c : Fin 4) : (s.settle.chan c).saturations = (s.chan c).saturations := by
  have h : (s.settle.chan c).still.saturations = (s.chan c).still.saturations := by rw [s.settle_still c]
  exact h
@[simp] theorem State.settle_chan_marksPassed (c : Fin 4) : (s.settle.chan c).marksPassed = (s.chan c).marksPassed := by
  have h : (s.settle.chan c).still.marksPassed = (s.chan c).still.marksPassed := by rw [s.settle_still c]
  exact h
@[simp] theorem State.settle_chan_useNo (c : Fin 4) : (s.settle.chan c).useNo = (s.chan c).useNo := by
  have h : (s.settle.chan c).still.useNo = (s.chan c).still.useNo := by rw [s.settle_still c]
  exact h

/-- A settled transaction that is none, a held write or an unclassified read is that. -/
theorem State.settle_txn_none (h : s.path.txn = none) : s.settle.path.txn = none := by
  have e := s.settle_txn
  rw [h] at e
  exact Option.map_eq_none_iff.mp e

theorem State.settle_txn_write (b : WriteBurst) (h : s.path.txn = some (.write b)) : s.settle.path.txn = some (.write b) := by
  have e := s.settle_txn
  rw [h] at e
  obtain ⟨x, hx, e⟩ := Option.map_eq_some_iff.mp e
  cases x with
  | write b' => rw [hx, show b' = b by simpa [Txn.still] using e]
  | unclassified b' => simp [Txn.still] at e
  | read r => simp only [Txn.still] at e; split at e <;> simp at e

theorem State.settle_txn_unclassified (b : ReadBurst) (h : s.path.txn = some (.unclassified b)) :
    s.settle.path.txn = some (.unclassified b) := by
  have e := s.settle_txn
  rw [h] at e
  obtain ⟨x, hx, e⟩ := Option.map_eq_some_iff.mp e
  cases x with
  | unclassified b' => rw [hx, show b' = b by simpa [Txn.still] using e]
  | write b' => simp [Txn.still] at e
  | read r => simp only [Txn.still] at e; split at e <;> simp at e

/-! ### What the end of every command has done -/

theorem Report.choose_choose (r : Report) : r.choose.choose = r.choose := by
  have h : r.choose = r ∨ r.choose.req ≠ .idle := by
    unfold Report.choose
    split
    · by_cases h1 : r.headerDue = true
      · simp [h1]
      · by_cases h2 : (!r.queue.isEmpty && r.slotFree) = true
        · rw [if_neg h1, if_pos h2]; simp
        · rw [if_neg h1, if_neg h2]; simp
    · simp
  rcases h with h | h
  · rw [h, h]
  · generalize r.choose = q at *
    unfold Report.choose
    split
    · exact absurd ‹_› h
    · rfl

/-- With nothing presented after it, the CLIP requester found no offer (R65). -/
theorem foldOffer_none (l : List (Fin 4)) (b : Option (ClipFetch × Int)) (h : l.foldl (betterOffer s) b = none) :
    b = none ∧ ∀ c ∈ l, s.offer c = none := by
  induction l generalizing b with
  | nil => exact ⟨h, by simp⟩
  | cons c l ih =>
    obtain ⟨h1, h2⟩ := ih _ h
    have : b = none ∧ s.offer c = none := by
      unfold betterOffer at h1
      split at h1
      · exact ⟨h1, ‹_›⟩
      · split at h1
        · exact absurd h1 (by simp)
        · dsimp only at h1
          split at h1
          · split at h1 <;> exact absurd h1 (by simp)
          · split at h1 <;> exact absurd h1 (by simp)
    exact ⟨this.1, fun d hd => (List.mem_cons.mp hd).elim (fun e => e ▸ this.2) (h2 d)⟩

theorem State.chosenOffer_none (h : s.chosenOffer = none) (c : Fin 4) : s.offer c = none :=
  (foldOffer_none s _ none (by simpa [State.chosenOffer] using h)).2 c (List.mem_finRange c)

theorem State.presentClip_none (h : s.presentClip.arb.clip = none) : s.presentClip = s ∧ s.chosenOffer = none := by
  unfold State.presentClip at *
  cases hc : s.arb.clip with
  | some f => simp [hc] at h
  | none =>
    cases ho : s.chosenOffer with
    | some f => simp [hc, ho] at h
    | none => simp

theorem State.presentAll_offers (h : s.presentAll.arb.clip = none) (c : Fin 4) : s.presentAll.offer c = none := by
  obtain ⟨h1, h2⟩ := s.presentClip_none h
  have : s.presentClip.offer c = none := by rw [h1]; exact s.chosenOffer_none h2 c
  exact this

theorem State.presentAll_choose (h : s.presentAll.inForce = true) : s.presentAll.report.choose = s.presentAll.report := by
  have hi : s.presentClip.inForce = true := h
  show s.presentClip.presentLog.report.choose = s.presentClip.presentLog.report
  simp only [State.presentLog, hi, if_true]
  exact s.presentClip.report.choose_choose

/-- With no winner no requester is eligible. -/
theorem State.winner_none (h : s.winner = none) (r : Requester) : s.eligible r = false := by
  unfold State.winner at h
  split at h; · simp at h
  rename_i h1
  split at h; · simp at h
  split at h; · simp at h
  split at h; · simp at h
  split at h; · simp at h
  split at h; · simp at h
  rename_i h6
  split at h; · simp at h
  rename_i h7
  split at h; · simp at h
  rename_i h8
  split at h; · simp at h
  rename_i h9
  split at h; · simp at h
  rename_i h10
  have hp : s.eligible .pass = false := by
    have : s.othersWait = false := by simp [State.othersWait, h7, h8, h9, h10]
    simpa [this] using h6
  cases r <;> simp_all

/-- A requester that has been granted is on the port. -/
theorem State.grant_port (r : Requester) (h : s.eligible r = true) : (s.grant r).arb.port ≠ none := by
  show s.grantedBurst r ≠ none
  cases r <;> simp_all [State.eligible, State.presents, State.grantedBurst, Option.isSome_iff_ne_none]

theorem State.winner_eligible (r : Requester) (h : s.winner = some r) : s.eligible r = true := by
  unfold State.winner at h
  repeat' split at h
  all_goals first | (simp at h; done) | (simp only [Option.some.injEq] at h; subst h; simp_all [State.promoted])

theorem State.presentAll_eligible (h : ∀ f, s.arb.clip = none → s.chosenOffer ≠ some f)
    (g : s.inForce = true → s.report.choose = s.report) (r : Requester) : s.presentAll.eligible r = s.eligible r := by
  have hc : s.presentClip = s := by
    unfold State.presentClip
    cases hq : s.arb.clip with
    | some f => rfl
    | none =>
      cases ho : s.chosenOffer with
      | some f => exact absurd ho (h f hq)
      | none => rfl
  have hl : s.presentLog = s := by
    unfold State.presentLog
    by_cases hi : s.inForce = true
    · rw [if_pos hi, g hi]
    · rw [if_neg hi]
  have : s.presentAll = s.noteWaits := by rw [State.presentAll, hc, hl]
  rw [this]
  cases r <;> rfl

/-- The end of every command (R35, R36, log entry 14): the port is busy or no requester is eligible, and nothing is left to
present. -/
theorem State.settle_done : (s.settle.arb.port ≠ none ∨ ∀ r, s.settle.eligible r = false) ∧
    (s.settle.arb.clip = none → ∀ d, s.settle.offer d = none) ∧
    (s.settle.inForce = true → s.settle.report.choose = s.settle.report) := by
  refine ⟨?_, fun h d => State.presentAll_offers _ h d, fun h => State.presentAll_choose _ h⟩
  have hp : s.settle.arb.port = s.presentAll.arbitrate.arb.port := by
    show (s.presentAll.arbitrate.presentAll).arb.port = _
    generalize s.presentAll.arbitrate = u
    show u.presentClip.arb.port = _
    unfold State.presentClip
    cases u.arb.clip with
    | some f => rfl
    | none => cases u.chosenOffer <;> rfl
  cases hb : s.presentAll.arb.port with
  | some b => left; rw [hp]; unfold State.arbitrate; rw [hb]; show s.presentAll.arb.port ≠ none; rw [hb]; simp
  | none =>
    cases hw : s.presentAll.winner with
    | some r =>
      left; rw [hp]
      simp only [State.arbitrate, hb, hw]
      exact State.grant_port _ r (State.winner_eligible _ r hw)
    | none =>
      right
      intro r
      have ha : s.presentAll.arbitrate = s.presentAll := by unfold State.arbitrate; rw [hb, hw]
      show (s.presentAll.arbitrate.presentAll).eligible r = false
      rw [ha, State.presentAll_eligible]
      · exact State.winner_none _ hw r
      · intro f hf
        obtain ⟨h1, h2⟩ := s.presentClip_none hf
        have : s.presentAll.chosenOffer = s.presentClip.chosenOffer := rfl
        rw [this, h1, h2]; simp
      · exact State.presentAll_choose s

end Sys2Proof.Machine
end

