-- ==== Sys2Proof/Laws/Lines.lean ====
section
/-! SUPPORT. The incident unit's operations: what they leave in the line's record and what they log. -/

namespace Sys2Proof.Machine

variable (s : State)

@[simp] theorem State.putLine_line (k : Fin 6) (l : LineRec) : (s.putLine k l).line k = l := by simp [State.putLine]

@[simp] theorem State.putLine_line_ne {j k : Fin 6} (l : LineRec) (h : k ≠ j) : (s.putLine k l).line j = s.line j := by
  simp [State.putLine, h]

@[simp] theorem State.logLine_line (k j : Fin 6) (o : LineState) (c : LineCause) : (s.logLine k o c).line j = s.line j := by
  simp [State.logLine]

@[simp] theorem State.putLine_now (k : Fin 6) (l : LineRec) : (s.putLine k l).now = s.now := rfl

@[simp] theorem State.logLine_now (k : Fin 6) (o : LineState) (c : LineCause) : (s.logLine k o c).now = s.now := rfl

@[simp] theorem State.record_putLine (k : Fin 6) (l : LineRec) (kd : LogKind) (j : Nat) (e1 e2 : Word) :
    (s.putLine k l).record kd j e1 e2 = s.record kd j e1 e2 := rfl

/-- A line record replaced logs nothing. -/
@[simp] theorem State.putLine_logNow (k : Fin 6) (l : LineRec) : (s.putLine k l).logNow = s.logNow :=
  (s.putLine_frame k l).logNow rfl rfl

theorem State.logged_putLine (k : Fin 6) (l : LineRec) (es : List LogRec) : (s.putLine k l).logged es = s.logged es :=
  (s.putLine_frame k l).logged rfl es

@[simp] theorem State.setRequest_line (k : Fin 6) (r : ReqStatus) :
    (s.setRequest k r).line k = { s.line k with request := r } := by simp [State.setRequest]

/-- The part of a line record that requests leave alone. -/
theorem LineRec.eq_of_still {l m : LineRec} (h : l.still = m.still) : l = { m with request := l.request } := by
  cases l; cases m
  simp only [LineRec.still, LineRec.mk.injEq] at h ⊢
  simp_all

/-- A step that changes no line's record but request statuses. -/
theorem Frame.line_still {l : List Part} {t : State} (h : Frame l s t) (hl : Part.within [.lines] l = false) (k : Fin 6) :
    t.line k = { s.line k with request := (t.line k).request } := by
  have := h.same .lines hl
  simp only [Same] at this
  exact LineRec.eq_of_still (this k)

/-- Two line records are the same but for their request status and channel. -/
def LineRec.sameLine (l m : LineRec) : Prop := { l with request := .none, reqChannel := none } =
  { m with request := .none, reqChannel := none }

theorem LineRec.sameLine.eq {l m : LineRec} (h : l.sameLine m) :
    l = { m with request := l.request, reqChannel := l.reqChannel } := by
  cases l; cases m
  simp only [LineRec.sameLine, LineRec.mk.injEq] at h ⊢
  simp_all

/-- A request changes a line's request status and channel alone. -/
theorem State.requestBreakin_line (k : Fin 6) (j : Fin 3) : ((s.requestBreakin k j).line k).sameLine (s.line k) := by
  unfold State.requestBreakin
  dsimp only
  split
  · rename_i c a m p rep _
    have h := (State.lineRequest_frame (s.setLine k { s.line k with reqChannel := toFin? 4 c }) k c a m p rep).line_still
      _ rfl k
    have h' : (((s.setLine k { s.line k with reqChannel := toFin? 4 c }).lineRequest k c a m p rep).1.line k).sameLine
        (s.line k) := by
      rw [h]; simp [LineRec.sameLine]
    split
    · simp only [State.logRefusedAction, State.line_log, State.setRequest_line]
      exact h'
    · simp only [State.setRequest_line]
      exact h'
  · rfl

theorem State.rerequest_line (k : Fin 6) : ((s.rerequest k).line k).sameLine (s.line k) := by
  unfold State.rerequest
  dsimp only
  split
  · split
    · exact s.requestBreakin_line k _
    · rfl
  · rfl

theorem handleAction_line (k : Fin 6) (j : Fin 3) : ((handleAction k s j).line k).sameLine (s.line k) := by
  have hl (a : Action) (n : Nat) : ((s.logRefusedAction k j.val a n).line k).sameLine (s.line k) := by
    simp only [State.logRefusedAction, State.line_log]; rfl
  unfold handleAction
  dsimp only
  split
  · rfl
  · split
    · split
      · exact s.requestBreakin_line k j
      · rfl
    · exact hl _ _
  · split
    · rfl
    · exact hl _ _
  · split
    · rfl
    · exact hl _ _
  · exact hl _ _

theorem handleActions_line (k : Fin 6) (js : List (Fin 3)) :
    ((js.foldl (handleAction k) s).line k).sameLine (s.line k) := by
  induction js generalizing s with
  | nil => rfl
  | cons j js ih => exact (ih (handleAction k s j)).trans (handleAction_line s k j)

/-- A line's record after it is withdrawn (R155). -/
theorem State.withdrawLine_line (k : Fin 6) : (s.withdrawLine k).line k =
    { s.line k with state := .quiet, deadline := none, request := .none, acked := false } := by
  unfold State.withdrawLine
  dsimp only
  rw [State.putLine_line]
  split
  · split
    · have h := (State.withdrawRequest_frame (s.putLine k { s.line k with state := .quiet, deadline := none }) k
        ‹Fin 4›).line_still _ rfl k
      rw [h]
      simp
    · simp
  · simp

/-- The first BREAKIN of a line (R150). -/
theorem LineRec.firstBreakin_eq (l : LineRec) : l.breakinSlot = l.firstBreakin := by
  have hf : (List.finRange 3 : List (Fin 3)) = [0, 1, 2] := by decide
  unfold LineRec.breakinSlot LineRec.firstBreakin LineRec.isBreakin
  simp only [hf, List.find?]
  generalize l.actions.get 0 = a
  generalize l.actions.get 1 = b
  generalize l.actions.get 2 = c
  cases a <;> cases b <;> cases c <;> rfl

/-- Whether lines may request (R159, R171). -/
theorem State.breakinOpen_iff : s.breakinOpen = true ↔ s.linesMayRequest := by
  unfold State.breakinOpen State.linesMayRequest
  cases h : s.stage with
  | none => simp
  | some st => cases st <;> simp

/-- An action that requests no BREAKIN is handled by its record alone (R150). -/
theorem handleAction_records (k : Fin 6) (j : Fin 3) (h : (s.line k).firstBreakin ≠ some j ∨ ¬s.linesMayRequest) :
    Frame [.logQueue, .lostCount] s (handleAction k s j) ∧ (handleAction k s j).lines = s.lines ∧
    (handleAction k s j).gather = s.gather ∧ (handleAction k s j).now = s.now ∧
    (handleAction k s j).logNow = s.logged (s.refusedAction k j).toList := by
  have hr : ∀ r, Frame [.logQueue, .lostCount] s (s.logRefusedAction k j.val ((s.line k).actions.get j) r) ∧
      (s.logRefusedAction k j.val ((s.line k).actions.get j) r).logNow = s.logged [s.record .actionRefused k.val
        (w4 j.val ((s.line k).actions.get j).kind r 0) ((s.line k).actions.get j).detail2] := fun r =>
    ⟨s.log_frame _ _ _ _, by rw [State.logRefusedAction, State.log_logNow]⟩
  unfold handleAction State.refusedAction
  rw [LineRec.firstBreakin_eq]
  dsimp only
  cases ha : (s.line k).actions.get j with
  | empty => simp [Frame.refl]
  | breakin c a m p r =>
    rw [ha] at hr
    dsimp only
    by_cases hj : (s.line k).firstBreakin = some j
    · have ho : s.breakinOpen = false := by
        rcases h with h | h
        · exact absurd hj h
        · rw [← Bool.not_eq_true]; exact fun e => h (s.breakinOpen_iff.mp e)
      simp [hj, ho, Frame.refl]
    · rw [if_neg hj, if_neg hj]
      exact ⟨(hr 2).1, rfl, rfl, rfl, (hr 2).2⟩
  | forceOpen g b m =>
    rw [ha] at hr
    dsimp only
    split
    · simp [Frame.refl]
    · exact ⟨(hr 1).1, rfl, rfl, rfl, (hr 1).2⟩
  | focus g m b =>
    rw [ha] at hr
    dsimp only
    split
    · simp [Frame.refl]
    · exact ⟨(hr 1).1, rfl, rfl, rfl, (hr 1).2⟩
  | unknown n =>
    rw [ha] at hr
    exact ⟨(hr 3).1, rfl, rfl, rfl, (hr 3).2⟩

end Sys2Proof.Machine
end

