-- ==== Sys2Proof/Laws/Gathers.lean ====
section
/-! SUPPORT. What a close of a gather does, whole, and what several closes at one moment do. -/

namespace Sys2Proof.Machine

variable (s : State)

theorem Gather.hasKey_iff (ga : Gather) (g : Fin 12) (n : Nat) : ga.hasKey g n = true ↔ ga.group = g ∧ ga.pos = n := by
  simp [Gather.hasKey]

/-- The OPEN record of a key has that key. -/
theorem State.openAt_key {s : State} {g : Fin 12} {n : Nat} {ga : Gather} (h : s.openAt g n = some ga) :
    ga.group = g ∧ ga.pos = n := by
  have := List.find?_some h
  simpa [Gather.hasKey_iff] using this

/-- The group record after a close: the status counted, and what the kind of the group keeps (R110). -/
theorem State.groupAfterClose_eq (ga : Gather) (st : CloseStatus) :
    s.groupAfterClose ga st = { s.grp ga.group with
      counts := (s.grp ga.group).counts.set st.idx (min ((s.grp ga.group).counts.get st.idx + 1) 65535)
      lastWinner := if (s.grp ga.group).kind = .select then ga.vote.best.or (s.grp ga.group).lastWinner
        else (s.grp ga.group).lastWinner
      gates := if (s.grp ga.group).kind = .rank then Table.ofFn (fun b => s.gateAfter ga b)
        else (s.grp ga.group).gates } := by
  unfold State.groupAfterClose
  dsimp only
  split
  · rename_i h
    split <;> rename_i hb <;> simp [h, hb, bump]
  · rename_i h
    simp [h, bump]

/-- The state of a close before its log record. -/
def State.closedQuiet (ga : Gather) (st : CloseStatus) : State :=
  let s1 := s.putGrp ga.group (s.groupAfterClose ga st)
  { s1 with gather := { s1.gather with
      opens := s.gather.opens.filter fun x => !x.hasKey ga.group ga.pos
      results := s.gather.results ++ [{ ga with status := some st, deadline := none, result := s.resultLine ga st }] } }

theorem State.closeGather_eq (ga : Gather) (st : CloseStatus) :
    s.closeGather ga st =
      if st.abnormal then (s.closedQuiet ga st).logAbnormal ga st (card (s.expectedSet ga.group)) else s.closedQuiet ga st := rfl

theorem State.closedQuiet_frame (ga : Gather) (st : CloseStatus) : Frame [.groups, .opens, .results] s (s.closedQuiet ga st) :=
  ((s.putGrp_frame _ _).wide rfl).trans ((opens_frame _ _ _).wide rfl)

theorem State.closedQuiet_grp (ga : Gather) (st : CloseStatus) (g : Fin 12) :
    (s.closedQuiet ga st).grp g = if g = ga.group then s.groupAfterClose ga st else s.grp g := by
  simp only [State.closedQuiet, State.grp, State.putGrp, State.mark, State.setGrp]
  rw [Table.get_set]
  by_cases h : ga.group = g
  · simp [h]
  · rw [if_neg h, if_neg (fun e => h e.symm)]

/-- A close does what `ClosedAs` says (R110). -/
theorem State.closeGather_closed (ga : Gather) (st : CloseStatus) : ClosedAs s (s.closeGather ga st) ga st := by
  have hk : (fun x : Gather => !x.hasKey ga.group ga.pos) = fun x => !(decide (x.group = ga.group) && decide (x.pos = ga.pos)) := by
    funext x; simp [Gather.hasKey]
  have ho : (s.closedQuiet ga st).gather.opens =
      s.gather.opens.filter fun x => !(decide (x.group = ga.group) && decide (x.pos = ga.pos)) := by
    rw [← hk]; rfl
  have hl : (s.closedQuiet ga st).logNow = s.logNow := (s.closedQuiet_frame ga st).logNow rfl rfl
  rw [State.closeGather_eq]
  unfold ClosedAs
  split
  · refine ⟨ho, rfl, ?_, fun g hg => ?_, ?_⟩
    · show (s.closedQuiet ga st).grp ga.group = _
      rw [State.closedQuiet_grp, if_pos rfl, State.groupAfterClose_eq]
    · show (s.closedQuiet ga st).grp g = _
      rw [State.closedQuiet_grp, if_neg hg]
    · rw [State.logAbnormal, State.log_logNow, (s.closedQuiet_frame ga st).logged rfl]
      rfl
  · refine ⟨ho, rfl, ?_, fun g hg => ?_, ?_⟩
    · rw [State.closedQuiet_grp, if_pos rfl, State.groupAfterClose_eq]
    · rw [State.closedQuiet_grp, if_neg hg]
    · rw [hl, State.logged_nil]

/-- A close that is not logged changes the group table, the OPEN records and the result list only. -/
theorem State.closeGather_quiet_frame (ga : Gather) (st : CloseStatus) (h : st.abnormal = false) :
    Frame [.groups, .opens, .results] s (s.closeGather ga st) := by
  rw [State.closeGather_eq, if_neg (by simp [h])]
  exact s.closedQuiet_frame ga st

theorem ClosedAs.settle {s t : State} {ga : Gather} {st : CloseStatus} (h : ClosedAs s t ga st) : ClosedAs s t.settle ga st := by
  obtain ⟨a, b, c, d, e⟩ := h
  exact ⟨by simpa using a, by simpa using b, by simpa using c, by simpa using d, by simpa using e⟩

/-- Closes one after another do what `ClosesInOrder` says. -/
theorem closeFold_inOrder (st : CloseStatus) (l : List Gather) :
    ClosesInOrder st l s (l.foldl (fun x ga => x.closeGather ga st) s) := by
  induction l generalizing s with
  | nil => exact Frame.refl _ _
  | cons ga l ih => exact ⟨_, s.closeGather_closed ga st, s.closeGather_frame ga st, ih _⟩

theorem ClosesInOrder.trans {st : CloseStatus} {l : List Gather} {s t u : State} (h : ClosesInOrder st l s t) (g : Frame [] t u) :
    ClosesInOrder st l s u := by
  induction l generalizing s with
  | nil => exact Frame.trans h g
  | cons ga l ih => obtain ⟨v, a, b, c⟩ := h; exact ⟨v, a, b, ih c⟩

theorem keyLe_iff (a b : Gather) : keyLe a b = true ↔ closesBefore a b := by simp [keyLe, closesBefore]

theorem insertKey_perm (a : Gather) (l : List Gather) : (insertKey a l).Perm (a :: l) := by
  induction l with
  | nil => exact List.Perm.refl _
  | cons b l ih =>
    unfold insertKey
    split
    · exact List.Perm.refl _
    · exact (ih.cons b).trans (List.Perm.swap a b l)

theorem sortKeys_perm (l : List Gather) : (sortKeys l).Perm l := by
  induction l with
  | nil => exact List.Perm.refl _
  | cons a l ih => exact (insertKey_perm a _).trans (ih.cons a)

theorem insertKey_sorted (a : Gather) {l : List Gather} (h : l.Pairwise closesBefore) : (insertKey a l).Pairwise closesBefore := by
  induction l with
  | nil => simp [insertKey]
  | cons b l ih =>
    obtain ⟨hb, hl⟩ := List.pairwise_cons.mp h
    unfold insertKey
    split
    · rename_i hk
      have hab := (keyLe_iff a b).mp hk
      refine List.pairwise_cons.mpr ⟨fun x hx => ?_, h⟩
      rcases List.mem_cons.mp hx with rfl | hx
      · exact hab
      · have := hb x hx
        unfold closesBefore at *
        omega
    · rename_i hk
      have hba : closesBefore b a := by
        have : ¬closesBefore a b := fun h => hk ((keyLe_iff a b).mpr h)
        unfold closesBefore at *
        omega
      refine List.pairwise_cons.mpr ⟨fun x hx => ?_, ih hl⟩
      rcases List.mem_cons.mp ((insertKey_perm a l).mem_iff.mp hx) with rfl | hx
      · exact hba
      · exact hb x hx

theorem sortKeys_sorted (l : List Gather) : (sortKeys l).Pairwise closesBefore := by
  induction l with
  | nil => exact List.Pairwise.nil
  | cons a l ih => exact insertKey_sorted a ih

/-- The flush of the gathers that `f` picks out (R115, R116). -/
theorem flushFold_closesAll (f : Gather → Bool) :
    s.closesAll ((sortKeys (s.gather.opens.filter f)).foldl flushOne s) f .flushed :=
  ⟨_, sortKeys_perm _, sortKeys_sorted _, closeFold_inOrder s .flushed _⟩

/-- What a close leaves of what decides the next completion. -/
theorem State.closeGather_expects (ga : Gather) (st : CloseStatus) :
    (s.closeGather ga st).sections = s.sections ∧ ∀ g, ((s.closeGather ga st).grp g).set = (s.grp g).set := by
  have h := s.closeGather_closed ga st
  refine ⟨(s.closeGather_frame ga st) .sections (by decide), fun g => ?_⟩
  by_cases hg : g = ga.group
  · subst hg; rw [h.2.2.1]
  · rw [h.2.2.2.1 g hg]

theorem State.covered_congr {s t : State} (ga : Gather) (h1 : t.sections = s.sections) (h2 : ∀ g, (t.grp g).set = (s.grp g).set) :
    t.covered ga = s.covered ga := by
  simp [State.covered, State.isCandidate, State.sec, h1, h2]

theorem checkFold (k : Fin 24) (l : List Gather) (t : State) (h1 : t.sections = s.sections)
    (h2 : ∀ g, (t.grp g).set = (s.grp g).set) :
    l.foldl (checkComplete k) t =
      (l.filter fun ga => has (s.grp ga.group).set k && s.covered ga).foldl (fun x ga => x.closeGather ga .complete) t := by
  induction l generalizing t with
  | nil => rfl
  | cons ga l ih =>
    rw [List.foldl_cons, List.filter_cons]
    have he : checkComplete k t ga = if (has (s.grp ga.group).set k && s.covered ga) = true then t.closeGather ga .complete else t := by
      unfold checkComplete; rw [h2, State.covered_congr ga h1 h2]
    rw [he]
    split
    · obtain ⟨a, b⟩ := t.closeGather_expects ga .complete
      exact ih _ (a.trans h1) fun g => (b g).trans (h2 g)
    · exact ih _ h1 h2

/-- The completions after a section has left the expected sets (R10, R108). -/
theorem State.leaveExpected_closesAll (k : Fin 24) (f : Gather → Bool)
    (hf : ∀ ga, f ga = (has (s.grp ga.group).set k && s.covered ga)) : s.closesAll (s.leaveExpected k) f .complete := by
  have hf : f = fun ga => has (s.grp ga.group).set k && s.covered ga := funext hf
  subst hf
  refine ⟨_, (sortKeys_perm _).filter _, (sortKeys_sorted _).filter _, ?_⟩
  rw [State.leaveExpected, checkFold s k _ s rfl fun _ => rfl]
  exact closeFold_inOrder s .complete _

/-- A gather is covered once section `k` is not eligible exactly when it was covered without `k`. -/
theorem State.covered_without {s t : State} (k : Fin 24) (ga : Gather) (h1 : ∀ j, j ≠ k → t.sec j = s.sec j)
    (h2 : (t.sec k).state.eligible = false) (h3 : (t.grp ga.group).set = (s.grp ga.group).set) :
    (has (t.grp ga.group).set k && t.covered ga) = s.leftCovered k ga := by
  unfold State.leftCovered State.covered State.isCandidate
  rw [h3]
  congr 1
  apply Bool.eq_iff_iff.mpr
  simp only [List.all_eq_true, List.mem_finRange, true_implies, Bool.or_eq_true, Bool.not_eq_true', Bool.and_eq_false_iff,
    decide_eq_true_eq]
  refine forall_congr' fun j => ?_
  by_cases hj : j = k
  · subst hj; simp [h2]
  · simp [hj, h1 j hj, or_assoc]

end Sys2Proof.Machine
end

