-- ==== Sys2Proof/Laws/Joins.lean ====
section
/-! SUPPORT. What a join, a release and a block-time step of the break-in mixer do to each section's record, to the log and to the
mirror. -/

namespace Sys2Proof.Machine

variable (s : State)

/-! ### One section's record replaced -/

@[simp] theorem State.putBrk_brk (k : Fin 24) (b : BreakRec) : (s.putBrk k b).brk k = b := by simp [State.putBrk]
@[simp] theorem State.putBrk_brk_ne {j k : Fin 24} (b : BreakRec) (h : k ≠ j) : (s.putBrk k b).brk j = s.brk j := by
  simp [State.putBrk, h]
@[simp] theorem State.putBrk_chan (k : Fin 24) (b : BreakRec) (c : Fin 4) : (s.putBrk k b).chan c = s.chan c := rfl
@[simp] theorem State.putBrk_playout (k : Fin 24) (b : BreakRec) : (s.putBrk k b).playout = s.playout := rfl
@[simp] theorem State.putBrk_path (k : Fin 24) (b : BreakRec) : (s.putBrk k b).path = s.path := rfl
@[simp] theorem State.putBrk_lines (k : Fin 24) (b : BreakRec) : (s.putBrk k b).lines = s.lines := rfl
@[simp] theorem State.putBrk_sections (k : Fin 24) (b : BreakRec) : (s.putBrk k b).sections = s.sections := rfl
@[simp] theorem State.putBrk_sec (k : Fin 24) (b : BreakRec) (j : Fin 24) : (s.putBrk k b).sec j = s.sec j := rfl
@[simp] theorem State.putBrk_plan (k : Fin 24) (b : BreakRec) : (s.putBrk k b).plan = s.plan := rfl
@[simp] theorem State.putBrk_armed (k : Fin 24) (b : BreakRec) (c : Fin 4) : (s.putBrk k b).armed c = s.armed c := rfl
@[simp] theorem State.putBrk_inForce (k : Fin 24) (b : BreakRec) : (s.putBrk k b).inForce = s.inForce := rfl
@[simp] theorem State.putBrk_record (k : Fin 24) (b : BreakRec) (kd : LogKind) (n : Nat) (e1 e2 : Word) :
    (s.putBrk k b).record kd n e1 e2 = s.record kd n e1 e2 := rfl
@[simp] theorem State.putBrk_logNow (k : Fin 24) (b : BreakRec) : (s.putBrk k b).logNow = s.logNow :=
  (s.putBrk_frame k b).logNow rfl rfl
@[simp] theorem State.putBrk_logged (k : Fin 24) (b : BreakRec) (es : List LogRec) : (s.putBrk k b).logged es = s.logged es :=
  (s.putBrk_frame k b).logged rfl es

/-! ### One section of a join -/

@[simp] theorem State.dropSuspended_mixer (k : Fin 24) (e : Option (Fin 4)) (c : Fin 4) (p : Nat) :
    (s.dropSuspended k e c p).mixer = s.mixer := by cases e <;> rfl
@[simp] theorem State.dropSuspended_playout (k : Fin 24) (e : Option (Fin 4)) (c : Fin 4) (p : Nat) :
    (s.dropSuspended k e c p).playout = s.playout := by cases e <;> rfl
@[simp] theorem State.dropSuspended_path (k : Fin 24) (e : Option (Fin 4)) (c : Fin 4) (p : Nat) :
    (s.dropSuspended k e c p).path = s.path := by cases e <;> rfl
@[simp] theorem State.dropSuspended_lines (k : Fin 24) (e : Option (Fin 4)) (c : Fin 4) (p : Nat) :
    (s.dropSuspended k e c p).lines = s.lines := by cases e <;> rfl
@[simp] theorem State.dropSuspended_sections (k : Fin 24) (e : Option (Fin 4)) (c : Fin 4) (p : Nat) :
    (s.dropSuspended k e c p).sections = s.sections := by cases e <;> rfl
@[simp] theorem State.dropSuspended_brk (k : Fin 24) (e : Option (Fin 4)) (c : Fin 4) (p : Nat) (j : Fin 24) :
    (s.dropSuspended k e c p).brk j = s.brk j := by cases e <;> rfl
@[simp] theorem State.dropSuspended_chan (k : Fin 24) (e : Option (Fin 4)) (c : Fin 4) (p : Nat) (d : Fin 4) :
    (s.dropSuspended k e c p).chan d = s.chan d := by cases e <;> rfl

theorem State.dropSuspended_logNow (k : Fin 24) (e : Option (Fin 4)) (c : Fin 4) (p : Nat) :
    (s.dropSuspended k e c p).logNow =
      s.logged (e.toList.map fun d => s.record .sectionDropped k.val (w4 d.val (s.chan d).prio c.val p) 0) := by
  cases e with
  | none => simp [State.dropSuspended]
  | some d => simp [State.dropSuspended, State.logDropped, State.log_logNow]

@[simp] theorem joinSection_playout (c : Fin 4) (p : Nat) (k : Fin 24) : (joinSection c p s k).playout = s.playout := by
  unfold joinSection; dsimp only
  repeat' split
  all_goals first | rfl | simp
@[simp] theorem joinSection_path (c : Fin 4) (p : Nat) (k : Fin 24) : (joinSection c p s k).path = s.path := by
  unfold joinSection; dsimp only
  repeat' split
  all_goals first | rfl | simp
@[simp] theorem joinSection_lines (c : Fin 4) (p : Nat) (k : Fin 24) : (joinSection c p s k).lines = s.lines := by
  unfold joinSection; dsimp only
  repeat' split
  all_goals first | rfl | simp
@[simp] theorem joinSection_sections (c : Fin 4) (p : Nat) (k : Fin 24) : (joinSection c p s k).sections = s.sections := by
  unfold joinSection; dsimp only
  repeat' split
  all_goals first | rfl | simp
@[simp] theorem joinSection_armed (c : Fin 4) (p : Nat) (k : Fin 24) (d : Fin 4) :
    (joinSection c p s k).armed d = s.armed d := by
  unfold joinSection; dsimp only
  repeat' split
  all_goals first | rfl | simp [State.armed]; rfl

/-- The record of a section that a join decides, and no other (R84). -/
theorem joinSection_brk (c : Fin 4) (p : Nat) (k j : Fin 24) :
    (joinSection c p s k).brk j =
      if j = k ∧ (s.sec k).state ≠ .disabled then s.joinRec (s.brk k) c p else s.brk j := by
  unfold joinSection State.joinRec
  dsimp only
  by_cases hd : (s.sec k).state = .disabled
  · simp [hd]
  · by_cases hj : j = k
    · subst hj
      rw [if_neg hd, if_pos ⟨rfl, hd⟩]
      cases ha : (s.brk j).active with
      | none => simp
      | some a =>
        dsimp only
        by_cases h1 : (s.chan a).prio < p
        · simp [h1]
        · cases he : (s.brk j).suspended with
          | none =>
            by_cases h2 : p < (s.chan a).prio
            · simp [h1, h2, he, State.mayWait]
            · simp [h1, h2, State.logRefused]
          | some e =>
            by_cases h2 : p < (s.chan a).prio
            · by_cases h3 : (s.chan e).prio < p
              · simp [h1, h2, h3, he, State.mayWait, State.prioOf]
              · simp [h1, h2, h3, he, State.mayWait, State.prioOf, State.logRefused]
            · simp [h1, h2, State.logRefused]
    · have hk : k ≠ j := fun h => hj h.symm
      rw [if_neg hd, if_neg (fun h => hj h.1)]
      repeat' split
      all_goals simp [hk, State.logRefused]

/-- What a join logs of a section (R85). -/
theorem joinSection_logNow (c : Fin 4) (p : Nat) (k : Fin 24) :
    (joinSection c p s k).logNow =
      s.logged (if (s.sec k).state = .disabled then [] else s.joinLog (s.brk k) c p k) := by
  unfold joinSection State.joinLog
  dsimp only
  by_cases hd : (s.sec k).state = .disabled
  · simp [hd]
  · rw [if_neg hd, if_neg hd]
    cases ha : (s.brk k).active with
    | none => simp
    | some a =>
      dsimp only
      by_cases h1 : (s.chan a).prio < p
      · simp [h1, State.dropSuspended_logNow]
      · cases he : (s.brk k).suspended with
        | none =>
          by_cases h2 : p < (s.chan a).prio
          · simp [h1, h2, he, State.mayWait, State.dropSuspended_logNow]
          · simp [h1, h2, he, ha, State.logRefused, State.log_logNow, State.prioOf, refCode]
        | some e =>
          by_cases h2 : p < (s.chan a).prio
          · by_cases h3 : (s.chan e).prio < p
            · simp [h1, h2, h3, he, State.mayWait, State.prioOf, State.dropSuspended_logNow]
            · simp [h1, h2, h3, he, ha, State.mayWait, State.prioOf, State.logRefused, State.log_logNow, refCode]
          · simp [h1, h2, he, ha, State.logRefused, State.log_logNow, State.prioOf, refCode]

theorem State.joinRec_congr {s t : State} (h : t.playout = s.playout) (b : BreakRec) (c : Fin 4) (p : Nat) :
    t.joinRec b c p = s.joinRec b c p := by
  have hc : t.chan = s.chan := by funext d; simp [State.chan, h]
  unfold State.joinRec State.mayWait
  rw [hc]

theorem State.joinLog_congr {s t : State} (h : t.playout = s.playout) (hn : t.now = s.now) (b : BreakRec) (c : Fin 4) (p : Nat)
    (k : Fin 24) : t.joinLog b c p k = s.joinLog b c p k := by
  have hc : t.chan = s.chan := by funext d; simp [State.chan, h]
  unfold State.joinLog State.mayWait State.record
  rw [hc, hn]

/-! ### A join -/

/-- The sections of a list, taken in order by a join. -/
theorem joinFold (c : Fin 4) (p : Nat) (l : List (Fin 24)) (hl : l.Nodup) (t : State) :
    t = l.foldl (joinSection c p) s →
    t.playout = s.playout ∧ t.path = s.path ∧ t.lines = s.lines ∧ t.sections = s.sections ∧ (∀ d, t.armed d = s.armed d) ∧
    (∀ j, t.brk j = if j ∈ l ∧ (s.sec j).state ≠ .disabled then s.joinRec (s.brk j) c p else s.brk j) ∧
    t.logNow = s.logged (l.flatMap fun k => if (s.sec k).state = .disabled then [] else s.joinLog (s.brk k) c p k) := by
  induction l generalizing s with
  | nil => rintro rfl; simp
  | cons k l ih =>
    intro ht
    obtain ⟨hk, hl⟩ := List.nodup_cons.mp hl
    obtain ⟨a, b, d, e, f, g, h⟩ := ih (joinSection c p s k) hl ht
    have hp : (joinSection c p s k).playout = s.playout := joinSection_playout s c p k
    have hs (j : Fin 24) : (joinSection c p s k).sec j = s.sec j := by simp [State.sec]
    have hf := joinSection_frame s c p k
    have hn : (joinSection c p s k).now = s.now := hf.same .timebase rfl
    refine ⟨a.trans hp, b.trans (by simp), d.trans (by simp), e.trans (by simp), fun x => (f x).trans (by simp), ?_, ?_⟩
    · intro j
      rw [g j, hs j, joinSection_brk, State.joinRec_congr hp]
      by_cases hj : j = k
      · subst hj; simp [hk]
      · simp [hj]
    · rw [h, hf.logged_append rfl _ _ (joinSection_logNow s c p k), List.flatMap_cons]
      congr 2
      refine List.flatMap_congr fun j hj => ?_
      have hne : j ≠ k := fun x => hk (x ▸ hj)
      rw [hs j, joinSection_brk, State.joinLog_congr hp hn]
      simp [hne]

theorem mem_members (m : SecSet) (k : Fin 24) : k ∈ members m ↔ has m k = true := by simp [members, has]

theorem members_nodup (m : SecSet) : (members m).Nodup := (List.nodup_finRange 24).filter _

/-- A list's records, by the sections of a set, are those of all sections by cases. -/
theorem flatMap_members {α : Type} (m : SecSet) (f : Fin 24 → List α) :
    (members m).flatMap f = (List.finRange 24).flatMap fun k => if has m k then f k else [] := by
  unfold members has
  induction List.finRange 24 with
  | nil => rfl
  | cons k l ih =>
    rw [List.filter_cons, List.flatMap_cons, ← ih]
    by_cases h : m.getLsbD k.val = true
    · rw [if_pos h, if_pos h, List.flatMap_cons]
    · rw [if_neg h, if_neg h, List.nil_append]

/-- Everything a join does, but for the mirror (R84, R85). -/
theorem State.join_spec (c : Fin 4) (m : SecSet) (p : Nat) (t : State) : t = s.join c m p →
    t.playout = s.playout ∧ t.path = s.path ∧ t.lines = s.lines ∧ t.sections = s.sections ∧
    t.armed c = false ∧ (∀ d, d ≠ c → t.armed d = s.armed d) ∧
    (∀ j, t.brk j = if has m j && (s.sec j).state != .disabled then s.joinRec (s.brk j) c p else s.brk j) ∧
    t.logNow = s.logged ((List.finRange 24).flatMap fun k =>
      if has m k && (s.sec k).state != .disabled then s.joinLog (s.brk k) c p k else []) := by
  rintro rfl
  obtain ⟨a, b, d, e, f, g, h⟩ := joinFold s c p (members m) (members_nodup m) _ rfl
  refine ⟨a, b, d, e, by simp [State.join], ?_, ?_, ?_⟩
  · intro x hx
    have : ((List.foldl (joinSection c p) s (members m)).setArmed c false).armed x =
        (List.foldl (joinSection c p) s (members m)).armed x := by
      simp [State.armed, State.setArmed, Ne.symm hx]
    exact this.trans (f x)
  · intro j
    refine (g j).trans ?_
    simp only [mem_members]
    by_cases h1 : has m j = true <;> by_cases h2 : (s.sec j).state = .disabled <;> simp [h1, h2]
  · have : ((List.foldl (joinSection c p) s (members m)).setArmed c false).logNow =
        (List.foldl (joinSection c p) s (members m)).logNow := rfl
    refine this.trans (h.trans ?_)
    rw [flatMap_members]
    congr 2
    funext k
    by_cases h1 : has m k = true <;> by_cases h2 : (s.sec k).state = .disabled <;> simp [h1, h2]

/-! ### A release -/

@[simp] theorem releaseSection_playout (c : Fin 4) (k : Fin 24) : (releaseSection c s k).playout = s.playout := by
  unfold releaseSection; dsimp only
  repeat' split
  all_goals rfl
@[simp] theorem releaseSection_path (c : Fin 4) (k : Fin 24) : (releaseSection c s k).path = s.path := by
  unfold releaseSection; dsimp only
  repeat' split
  all_goals rfl
@[simp] theorem releaseSection_lines (c : Fin 4) (k : Fin 24) : (releaseSection c s k).lines = s.lines := by
  unfold releaseSection; dsimp only
  repeat' split
  all_goals rfl
@[simp] theorem releaseSection_sections (c : Fin 4) (k : Fin 24) : (releaseSection c s k).sections = s.sections := by
  unfold releaseSection; dsimp only
  repeat' split
  all_goals rfl
@[simp] theorem releaseSection_plan (c : Fin 4) (k : Fin 24) : (releaseSection c s k).plan = s.plan := by
  unfold releaseSection; dsimp only
  repeat' split
  all_goals rfl

/-- The record of a section that a release decides, and no other (R86). -/
theorem releaseSection_brk (c : Fin 4) (k j : Fin 24) :
    (releaseSection c s k).brk j = if j = k then s.releasedRec c k else s.brk j := by
  unfold releaseSection State.releasedRec
  dsimp only
  by_cases hj : j = k
  · subst hj
    rw [if_pos rfl]
    repeat' split
    all_goals simp_all [State.delta, State.duck]
  · have hk : k ≠ j := fun h => hj h.symm
    rw [if_neg hj]
    repeat' split
    all_goals simp [hk]

theorem releaseFold (c : Fin 4) (l : List (Fin 24)) (hl : l.Nodup) (t : State) :
    t = l.foldl (releaseSection c) s →
    t.playout = s.playout ∧ t.path = s.path ∧ t.lines = s.lines ∧ t.sections = s.sections ∧ t.plan = s.plan ∧
    ∀ j, t.brk j = if j ∈ l then s.releasedRec c j else s.brk j := by
  induction l generalizing s with
  | nil => rintro rfl; simp
  | cons k l ih =>
    intro ht
    obtain ⟨hk, hl⟩ := List.nodup_cons.mp hl
    obtain ⟨a, b, d, e, f, g⟩ := ih (releaseSection c s k) hl ht
    refine ⟨a.trans (by simp), b.trans (by simp), d.trans (by simp), e.trans (by simp), f.trans (by simp), fun j => ?_⟩
    rw [g j]
    have hp : (releaseSection c s k).playout = s.playout := releaseSection_playout s c k
    by_cases hj : j = k
    · subst hj; simp [hk, releaseSection_brk]
    · have : (releaseSection c s k).releasedRec c j = s.releasedRec c j := by
        simp only [State.releasedRec, releaseSection_brk, if_neg hj, State.chan, hp]
      simp [hj, this, releaseSection_brk]

/-- Everything a release with ramps does, but for the mirror (R86). -/
theorem State.release_spec (c : Fin 4) :
    (s.release c).playout = s.playout ∧ (s.release c).path = s.path ∧ (s.release c).lines = s.lines ∧
    (s.release c).sections = s.sections ∧ (s.release c).plan = s.plan ∧ ∀ k, (s.release c).brk k = s.releasedRec c k := by
  obtain ⟨a, b, d, e, f, g⟩ := releaseFold s c (List.finRange 24) (List.nodup_finRange 24) _ rfl
  exact ⟨a, b, d, e, f, fun k => (g k).trans (by simp)⟩

end Sys2Proof.Machine
end

