-- ==== Sys2Proof/Laws/Walk.lean ====
section
/-! SUPPORT. The channel records through the operations of the playout unit: begins, ends and the list walk. The walk's bound on its
entries never stops it: `walk_unfold` gives it entry by entry. -/

namespace Sys2Proof.Machine

variable (s : State)

/-! ### Channel records -/

@[simp] theorem State.putChan_chan (c : Fin 4) (r : Chan) : (s.putChan c r).chan c = r := by simp [State.putChan]
@[simp] theorem State.putChan_chan_ne {c d : Fin 4} (r : Chan) (h : c ≠ d) : (s.putChan c r).chan d = s.chan d := by
  simp [State.putChan, h]
@[simp] theorem State.setRequest_playout (k : Fin 6) (st : ReqStatus) : (s.setRequest k st).playout = s.playout := rfl
@[simp] theorem State.setRequest_chan (k : Fin 6) (st : ReqStatus) (c : Fin 4) : (s.setRequest k st).chan c = s.chan c := rfl
@[simp] theorem State.setRequest_path (k : Fin 6) (st : ReqStatus) : (s.setRequest k st).path = s.path := rfl
@[simp] theorem State.setRequest_mixer (k : Fin 6) (st : ReqStatus) : (s.setRequest k st).mixer = s.mixer := rfl
@[simp] theorem State.tellOwner_playout (o : Option Owner) (st : ReqStatus) : (s.tellOwner o st).playout = s.playout := by
  unfold State.tellOwner; split <;> rfl
@[simp] theorem State.tellOwner_chan (o : Option Owner) (st : ReqStatus) (c : Fin 4) : (s.tellOwner o st).chan c = s.chan c := by
  simp [State.chan]
@[simp] theorem State.tellOwner_path (o : Option Owner) (st : ReqStatus) : (s.tellOwner o st).path = s.path := by
  unfold State.tellOwner; split <;> rfl
@[simp] theorem State.tellOwner_mixer (o : Option Owner) (st : ReqStatus) : (s.tellOwner o st).mixer = s.mixer := by
  unfold State.tellOwner; split <;> rfl
@[simp] theorem State.logChan_chan (c : Fin 4) (o : ChanState) (u : ChanCause) (d : Fin 4) :
    (s.logChan c o u).chan d = s.chan d := rfl
@[simp] theorem State.logChan_path (c : Fin 4) (o : ChanState) (u : ChanCause) : (s.logChan c o u).path = s.path := rfl
@[simp] theorem State.release_chan (c d : Fin 4) : (s.release c).chan d = s.chan d := by
  simp [State.chan, (s.release_spec c).1]
@[simp] theorem State.release_path (c : Fin 4) : (s.release c).path = s.path := (s.release_spec c).2.1
@[simp] theorem State.join_chan (c : Fin 4) (m : SecSet) (p : Nat) (d : Fin 4) : (s.join c m p).chan d = s.chan d := by
  simp [State.chan, (s.join_spec c m p _ rfl).1]
@[simp] theorem State.join_path (c : Fin 4) (m : SecSet) (p : Nat) : (s.join c m p).path = s.path :=
  (s.join_spec c m p _ rfl).2.1
@[simp] theorem State.checkFence_chan (c : Fin 4) : s.checkFence.chan c = s.chan c := by
  unfold State.checkFence; split <;> rfl

@[simp] theorem State.requestLine_useNo (c : Fin 4) (k : Nat) (d : Fin 4) :
    ((s.requestLine c k).chan d).useNo = (s.chan d).useNo := by
  unfold State.requestLine
  dsimp only
  split
  · by_cases h : c = d
    · subst h; simp
    · simp [h]
  · rfl

/-! ### Ends -/

theorem Chan.noStarts_candidates {ch : Chan} (h : ch.noStarts) : ch.candidates = [] := by
  simp [Chan.candidates, h.1, h.2]

/-- The start of `handsTo` stands before every other candidate (R74). -/
theorem Start.before_of_handsTo {ch : Chan} {st : Start} (h : ch.handsTo st) {x : Start} (hx : x ∈ ch.candidates) :
    x = st ∨ (st.before x = true ∧ x.before st = false) := by
  have hm : x ∈ ch.pending ∨ ch.queued = some x := by simpa [Chan.candidates] using hx
  rcases h.2 x hm with e | e | ⟨e, ⟨j, h1, h2⟩ | ⟨j, k, h1, h2, h3⟩⟩
  · exact .inl e
  · right
    have h1 : st.prio ≠ x.prio := by omega
    simp [Start.before, h1, h1.symm, e, Nat.le_of_lt e]
  · right; simp [Start.before, e, h1, h2]
  · right
    simp [Start.before, e, h1, h2]; omega

theorem bestStart_mem {l : List Start} {b : Start} (h : bestStart l = some b) : b ∈ l := by
  induction l generalizing b with
  | nil => simp [bestStart] at h
  | cons a l ih =>
    unfold bestStart at h
    cases hb : bestStart l with
    | none => simp [hb] at h; simp [h]
    | some c =>
      simp only [hb] at h
      split at h
      · simp at h; subst h; exact List.mem_cons_of_mem _ (ih hb)
      · simp at h; simp [h]

/-- The start that stands before every other candidate is the one a handout takes (R74). -/
theorem bestStart_of_handsTo {ch : Chan} {st : Start} (h : ch.handsTo st) : bestStart ch.candidates = some st := by
  have hm : st ∈ ch.candidates := by simpa [Chan.candidates] using h.1
  have hall : ∀ x ∈ ch.candidates, x = st ∨ (st.before x = true ∧ x.before st = false) := fun x hx =>
    Start.before_of_handsTo h hx
  generalize ch.candidates = l at *
  induction l with
  | nil => simp at hm
  | cons a l ih =>
    have hl : ∀ x ∈ l, x = st ∨ (st.before x = true ∧ x.before st = false) := fun x hx => hall x (List.mem_cons_of_mem _ hx)
    unfold bestStart
    by_cases hs : st ∈ l
    · rw [ih hs hl]
      dsimp only
      rcases hall a (by simp) with e | e
      · subst e; split <;> rfl
      · rw [if_pos e.1]
    · have ha : a = st := by
        rcases List.mem_cons.mp hm with e | e
        · exact e.symm
        · exact absurd e hs
      cases hb : bestStart l with
      | none => simp [ha]
      | some b =>
        dsimp only
        rcases hl b (bestStart_mem hb) with e | e
        · exact absurd (e ▸ bestStart_mem hb) hs
        · rw [if_neg (by rw [ha, e.2]; simp), ha]

/-- The request statuses after an owner is told. -/
theorem State.tellOwner_line (o : Option Owner) (st : ReqStatus) (k : Fin 6) :
    (s.tellOwner o st).line k = if o = some (.line k) then { s.line k with request := st } else s.line k := by
  unfold State.tellOwner
  split
  · rename_i j
    by_cases h : j = k
    · subst h; simp [State.setRequest]
    · simp [State.setRequest, h]
  · rename_i h
    rw [if_neg]
    rintro rfl
    exact h k rfl

@[simp] theorem State.release_line (c : Fin 4) (k : Fin 6) : (s.release c).line k = s.line k := by
  simp [State.line, (s.release_spec c).2.2.1]

theorem State.checkFence_fence : s.checkFence.path.fence =
    if ∀ d, (s.chan d).st.live = false ∧ (s.chan d).waiting = none then .down else s.path.fence := by
  unfold State.checkFence State.noStarts
  by_cases h : ∀ d, (s.chan d).st.live = false ∧ (s.chan d).waiting = none
  · rw [if_pos h, if_pos]
    simp [h]
  · rw [if_neg h, if_neg]
    simpa using h

/-- The end of a use after which nothing begins (R73). -/
theorem State.endUse_ends (c : Fin 4) (u : ChanCause) (h : (s.chan c).noStarts) :
    s.ends (s.endUse c u) c u.endStatus ∧
      (s.endUse c u).logNow = s.logged [s.record .channelState c.val (w4 (s.chan c).st.code 0 u.code 15) (wInt (s.chan c).i)] := by
  have hc : bestStart ((s.chan c).ended).candidates = none := by
    rw [Chan.noStarts_candidates (by exact h)]; rfl
  have e : s.endUse c u = State.checkFence
      (let z := ((((s.release c).tellOwner (s.chan c).owner u.endStatus).putChan c (s.chan c).ended).logChan c (s.chan c).st u)
       { z with playout := { z.playout with waitOrder := z.playout.waitOrder.filter fun d => d != c } }) := by
    unfold State.endUse State.handout
    simp [hc]
  generalize hz : ((((s.release c).tellOwner (s.chan c).owner u.endStatus).putChan c (s.chan c).ended).logChan c (s.chan c).st u) = z at e
  have hzc : z.chan c = (s.chan c).ended := by rw [← hz]; simp
  have hzd (d : Fin 4) (hd : d ≠ c) : z.chan d = s.chan d := by rw [← hz]; simp [Ne.symm hd]
  have hf : Frame playParts s z := by
    rw [← hz]
    exact ((((s.release_frame c).wide rfl).trans ((State.tellOwner_frame _ _ _).wide rfl)).trans
      ((State.putChan_frame _ c _).wide rfl)).trans ((State.logChan_frame _ _ _ _).wide rfl)
  refine ⟨⟨?_, ?_, ?_, ?_, ?_⟩, ?_⟩
  · rw [e]; simp only [State.checkFence_chan]; exact hzc
  · intro d hd; rw [e]; simp only [State.checkFence_chan]; exact hzd d hd
  · intro k
    have : (s.endUse c u).brk k = z.brk k := by
      rw [e]; unfold State.checkFence; split <;> rfl
    rw [this, ← hz]
    have : ((((s.release c).tellOwner (s.chan c).owner u.endStatus).putChan c (s.chan c).ended).logChan c (s.chan c).st u).brk k =
        (s.release c).brk k := by simp [State.brk, State.logChan, State.putChan]
    rw [this, (s.release_spec c).2.2.2.2.2 k]
  · intro k
    have : (s.endUse c u).line k = z.line k := by
      rw [e]; unfold State.checkFence; split <;> rfl
    rw [this, ← hz]
    have : ((((s.release c).tellOwner (s.chan c).owner u.endStatus).putChan c (s.chan c).ended).logChan c (s.chan c).st u).line k =
        ((s.release c).tellOwner (s.chan c).owner u.endStatus).line k := rfl
    rw [this, State.tellOwner_line, State.release_line]
  · rw [e, State.checkFence_fence]
    have hp : z.path = s.path := by rw [← hz]; simp [State.putChan]
    simp only [State.checkFence_chan]
    show _ = _
    simp only [hp]
  · have hl : (s.endUse c u).logNow = z.logNow := by
      rw [e]; unfold State.checkFence; split <;> rfl
    rw [hl, ← hz]
    unfold State.logChan
    rw [State.log_logNow]
    have hf2 : Frame [.breakIns, .requests, .channels] s (((s.release c).tellOwner (s.chan c).owner u.endStatus).putChan c (s.chan c).ended) :=
      (((s.release_frame c).wide rfl).trans ((State.tellOwner_frame _ _ _).wide rfl)).trans ((State.putChan_frame _ c _).wide rfl)
    rw [hf2.logged rfl]
    have hn : (((s.release c).tellOwner (s.chan c).owner u.endStatus).putChan c (s.chan c).ended).now = s.now :=
      hf2.same .timebase rfl
    simp only [State.record, hn, State.putChan_chan]
    rfl

/-! ### No use number falls -/

/-- The window of a begin (R63, R67). -/
theorem Chan.fresh_window (ch : Chan) (h : ch.walk.st = .running) : ch.freshWindow = Table.ofFn fun j =>
    let low := ch.i - 8
    let x := low + ((j.val : Int) - low) % 32
    ⟨some x, if x < 0 then .silent else .empty, none, 0, [], []⟩ := by
  simp [Chan.freshWindow, Chan.freshSlot, Chan.freshState, h]

theorem State.requestLine_still (c : Fin 4) (k : Nat) (d : Fin 4) : ((s.requestLine c k).chan d).still = (s.chan d).still := by
  unfold State.requestLine
  dsimp only
  split
  · by_cases h : c = d
    · subst h; simp [Chan.still]
    · simp [h]
  · rfl

/-- The record of a channel on which a start begins (R67). -/
theorem State.beginNow_begins (c : Fin 4) (st : Start) (o : ChanState) (u : ChanCause) : s.begins (s.beginNow c st o u) c st := by
  have hc : (s.beginNow c st o u).chan c = (((s.putChan c ((s.chan c).begun st (s.alignRow (s.chan c).defaults.ramp))).requestLine c 0).requestLine c 1).chan c := by
    unfold State.beginNow
    dsimp only
    split <;> simp only [State.finish, State.chan_finishWith, State.logChan_chan, State.join_chan]
  have hs : ((s.beginNow c st o u).chan c).still = ((s.chan c).begun st (s.alignRow (s.chan c).defaults.ramp)).still := by
    rw [hc, State.requestLine_still, State.requestLine_still]; simp
  have hu : ((s.beginNow c st o u).chan c).useNo = (s.chan c).useNo + 1 := by
    have := congrArg Chan.useNo hs; simpa [Chan.still, Chan.begun, Chan.discard] using this
  have hq : ((s.beginNow c st o u).chan c).queued = (s.chan c).queued := by
    have := congrArg Chan.queued hs; simpa [Chan.still, Chan.begun, Chan.discard] using this
  have hp : ((s.beginNow c st o u).chan c).pending = (s.chan c).pending := by
    have := congrArg Chan.pending hs; simpa [Chan.still, Chan.begun, Chan.discard] using this
  refine ⟨by rw [hu]; omega, ?_⟩
  rw [hs, hu, hq, hp]
  simp only [Chan.begun, Chan.discard, Chan.still, State.alignRow]
  rw [Chan.fresh_window _ rfl]
  congr 1
  simp only [Table.get_ofFn]
  congr 1
  funext j
  dsimp only [Slot.still]
  split <;> simp

theorem State.beginNow_useNo (c : Fin 4) (st : Start) (o : ChanState) (u : ChanCause) (d : Fin 4) :
    ((s.beginNow c st o u).chan d).useNo = (s.chan d).useNo + (if d = c then 1 else 0) := by
  have h : ((s.beginNow c st o u).chan d).useNo =
      ((s.putChan c ((s.chan c).begun st (s.alignRow (s.chan c).defaults.ramp))).chan d).useNo := by
    unfold State.beginNow
    dsimp only
    split <;> simp only [State.finish, State.chan_finishWith, State.logChan_chan, State.join_chan, State.requestLine_useNo]
  rw [h]
  by_cases hd : d = c
  · subst hd; simp [Chan.begun, Chan.discard]
  · simp [hd, Ne.symm hd]

theorem beginWaiting_useNo (c d : Fin 4) : (s.chan d).useNo ≤ ((beginWaiting s c).chan d).useNo := by
  unfold beginWaiting
  split
  · rw [State.beginNow_useNo]; omega
  · exact le_rfl

theorem foldBegins_useNo (l : List (Fin 4)) (d : Fin 4) : (s.chan d).useNo ≤ ((l.foldl beginWaiting s).chan d).useNo := by
  induction l generalizing s with
  | nil => exact le_rfl
  | cons c l ih => exact (beginWaiting_useNo s c d).trans (ih _)

theorem State.raiseFence_useNo (d : Fin 4) : (s.chan d).useNo ≤ (s.raiseFence.chan d).useNo := by
  unfold State.raiseFence
  split
  · split
    · exact le_rfl
    · exact foldBegins_useNo
        { s with path := { s.path with fence := .up }, playout := { s.playout with waitOrder := [] } } _ d
  · exact le_rfl

theorem State.requestBegin_useNo (c : Fin 4) (st : Start) (d : Fin 4) :
    (s.chan d).useNo ≤ ((s.requestBegin c st).chan d).useNo := by
  unfold State.requestBegin
  dsimp only
  split
  · rw [State.beginNow_useNo]; omega
  · refine le_trans ?_ (State.raiseFence_useNo _ d)
    by_cases h : c = d
    · subst h; simp [State.chan, State.setChan]
    · simp [State.chan, State.setChan, h]

theorem State.handout_useNo (c d : Fin 4) : (s.chan d).useNo ≤ ((s.handout c).chan d).useNo := by
  unfold State.handout
  split
  · refine le_trans ?_ (State.requestBegin_useNo _ _ _ d)
    by_cases h : c = d
    · subst h
      simp only [State.tellOwner_chan, State.chan_setChan, Chan.without]
      split <;> exact le_rfl
    · simp [h]
  · exact le_rfl

theorem State.endUse_useNo (c : Fin 4) (u : ChanCause) (d : Fin 4) :
    (s.chan d).useNo + (if d = c then 1 else 0) ≤ ((s.endUse c u).chan d).useNo := by
  unfold State.endUse
  dsimp only
  rw [State.checkFence_chan]
  refine le_trans ?_ (State.handout_useNo _ c d)
  by_cases h : d = c
  · subst h; simp [Chan.ended, Chan.discard]
  · simp [h, Ne.symm h]

theorem State.listError_useNo (c : Fin 4) (r : ListReason) (d : Fin 4) :
    (s.chan d).useNo + (if d = c then 1 else 0) ≤ ((s.listError c r).chan d).useNo :=
  State.endUse_useNo (s.log _ _ _ _) c _ d

/-! ### The walk's measure -/

/-- A bound on the entries that a walk still takes: each assigned index, the rest of this pass, and one more pass. -/
def Chan.walkLeft (ch : Chan) : Nat :=
  600 * (ch.i + 24 - ch.walk.next).toNat + (if ch.walk.pass then 259 else 0) + (257 - ch.walk.entry)

/-- What the walk's measure is made of, the play index, the state and the use number of a channel. -/
structure WalkView where
  st : ChanState
  i : Int
  walk : Walk
  useNo : Nat

def Chan.view (ch : Chan) : WalkView := ⟨ch.st, ch.i, ch.walk, ch.useNo⟩

theorem State.requestLine_view (c : Fin 4) (k : Nat) : ((s.requestLine c k).chan c).view = (s.chan c).view := by
  unfold State.requestLine
  dsimp only
  split <;> simp [Chan.view]

theorem State.enterLine_view (c : Fin 4) (k : Nat) : ((s.enterLine c k).chan c).view = (s.chan c).view := by
  unfold State.enterLine
  dsimp only
  rw [State.requestLine_view]
  simp [Chan.view]

theorem State.nextEntry_view (c : Fin 4) : ((s.nextEntry c).chan c).view =
    { (s.chan c).view with walk := { (s.chan c).walk with entry := (s.chan c).walk.entry + 1, block := 0 } } := by
  unfold State.nextEntry
  dsimp only
  split
  · rw [State.enterLine_view]; simp [Chan.view]
  · simp [Chan.view]

theorem Chan.view_walkLeft {a b : Chan} (h : a.view = b.view) : a.walkLeft = b.walkLeft := by
  simp only [Chan.view, WalkView.mk.injEq] at h
  simp [Chan.walkLeft, h]

theorem State.nextEntry_less (c : Fin 4) (h : (s.chan c).walk.entry < 256) :
    ((s.nextEntry c).chan c).walkLeft < (s.chan c).walkLeft := by
  have hv := State.nextEntry_view s c
  simp only [Chan.view, WalkView.mk.injEq] at hv
  simp only [Chan.walkLeft, hv]
  omega

theorem State.attachMarker_walk (c : Fin 4) (m : Marker) :
    ((s.attachMarker c m).chan c).walk = (s.chan c).walk ∧ ((s.attachMarker c m).chan c).i = (s.chan c).i := by
  unfold State.attachMarker
  dsimp only
  split
  · simp
  · unfold actMarker
    split <;> simp [State.passMark, State.putChanState]

/-- An entry ends the use, leaves the walk unready, or makes its measure smaller. -/
theorem State.takeEntry_less (c : Fin 4) (x : ListEntry) (hr : (s.chan c).walkReady = true) (he : (s.chan c).walk.entry < 256) :
    ((s.takeEntry c x).chan c).useNo ≠ (s.chan c).useNo ∨ ((s.takeEntry c x).chan c).walkReady = false ∨
      ((s.takeEntry c x).chan c).walkLeft < (s.chan c).walkLeft := by
  have hn : (s.chan c).walk.next ≤ (s.chan c).i + 23 := by
    simp only [Chan.walkReady, Bool.and_eq_true, decide_eq_true_eq] at hr; exact hr.2
  have hl (r : ListReason) : ((s.listError c r).chan c).useNo ≠ (s.chan c).useNo := by
    have := s.listError_useNo c r c
    simp at this; omega
  unfold State.takeEntry
  dsimp only
  split
  · split
    · exact .inr (.inr (s.nextEntry_less c he))
    · split
      · refine .inr (.inr ?_)
        unfold State.assignBlock
        dsimp only
        split
        · simp only [State.chan_setChan, Chan.walkLeft]
          split <;> split <;> omega
        · refine lt_of_lt_of_le (State.nextEntry_less _ c (by simpa using he)) ?_
          simp only [State.chan_setChan, Chan.walkLeft]
          split <;> split <;> omega
      · exact .inl (hl _)
  · refine .inr (.inr ?_)
    have ha := s.attachMarker_walk c (.mark ‹_› (s.chan c).walk.entry)
    refine lt_of_lt_of_eq (State.nextEntry_less _ c (by rw [ha.1]; exact he)) ?_
    simp [Chan.walkLeft, ha]
  · refine .inr (.inl ?_)
    simp [State.meetHold, Chan.walkReady]
  · unfold State.meetEnd
    dsimp only
    split
    · rename_i h
      refine .inr (.inr ?_)
      simp only [Bool.and_eq_true, decide_eq_true_eq] at h
      simp [Chan.walkLeft, h.1]
      omega
    · split
      · rename_i h
        refine .inr (.inr ?_)
        simp only [Bool.and_eq_true, decide_eq_true_eq] at h
        simp [Chan.walkLeft, h.1]
        omega
      · split
        · refine .inl ?_
          have := (s.setChan c { (s.chan c) with
            endIdx := some (s.chan c).walk.next, walk := { (s.chan c).walk with st := .finished }
            window := Chan.silenceFrom { (s.chan c) with endIdx := some (s.chan c).walk.next, walk := { (s.chan c).walk with st := .finished } }
              (s.chan c).walk.next fun _ => true }).endUse_useNo c .finish c
          simp at this; omega
        · refine .inr (.inl ?_)
          simp [Chan.walkReady]
  · exact .inl (hl _)

/-- A walk with enough entries to take goes the same way with any other such number. -/
theorem walkFor_enough (c : Fin 4) (u : Nat) (m : Nat) : ∀ (n : Nat) (s : State), (s.chan c).walkLeft < m → (s.chan c).walkLeft < n →
    walkFor c u m s = walkFor c u n s := by
  induction m with
  | zero => intro n s h; omega
  | succ m ih =>
    intro n s hm hn
    obtain ⟨n, rfl⟩ := Nat.exists_eq_succ_of_ne_zero (by omega : n ≠ 0)
    unfold walkFor
    dsimp only
    split
    · rfl
    · rename_i h1
      split
      · rfl
      · rename_i h2
        split
        · rfl
        · split
          · rfl
          · split
            · rfl
            · rename_i l _ b _
              simp only [Bool.or_eq_true, bne_iff_ne, ne_eq, Bool.not_eq_true', not_or, Bool.not_eq_false, not_not] at h1
              have hstop (w : State) (hw : (w.chan c).useNo ≠ u ∨ (w.chan c).walkReady = false) (k : Nat) : walkFor c u k w = w := by
                cases k with
                | zero => rfl
                | succ k =>
                  unfold walkFor
                  dsimp only
                  rw [if_pos]
                  rcases hw with hw | hw <;> simp [hw]
              rcases s.takeEntry_less c (parseListEntry (b.drop (16 * ((s.chan c).walk.entry % 4)))) h1.2 (by omega) with h | h | h
              · rw [hstop _ (.inl (h1.1 ▸ h)), hstop _ (.inl (h1.1 ▸ h))]
              · rw [hstop _ (.inr h), hstop _ (.inr h)]
              · exact ih n _ (by omega) (by omega)

theorem Chan.walkLeft_lt_fuel (ch : Chan) : ch.walkLeft + 1 < ch.walkFuel := by
  unfold Chan.walkLeft Chan.walkFuel
  split <;> omega

/-- A walk that is not ready stands still (R59). -/
theorem State.walk_still (c : Fin 4) (h : (s.chan c).walkReady = false) : s.walk c = s := by
  unfold State.walk
  have : 0 < (s.chan c).walkFuel := by have := (s.chan c).walkLeft_lt_fuel; omega
  obtain ⟨n, hn⟩ := Nat.exists_eq_succ_of_ne_zero (by omega : (s.chan c).walkFuel ≠ 0)
  rw [hn]
  unfold walkFor
  simp [h]

/-- The walk, entry by entry (R59, R62): what it does where it is ready. -/
theorem State.walk_unfold (c : Fin 4) (h : (s.chan c).walkReady = true) :
    s.walk c =
      if 256 ≤ (s.chan c).walk.entry then s.listError c .noEnd
      else if s.listLineInside (s.chan c).listAddr ((s.chan c).walk.entry / 4) = false then s.listError c .listOutside
      else
        match (s.chan c).bufLine ((s.chan c).walk.entry / 4) with
        | none => s
        | some l =>
          match l.bytes with
          | none => s.listError c .listRead
          | some b =>
            let t := s.takeEntry c (parseListEntry (b.drop (16 * ((s.chan c).walk.entry % 4))))
            if (t.chan c).useNo = (s.chan c).useNo then t.walk c else t := by
  have hf := (s.chan c).walkLeft_lt_fuel
  obtain ⟨n, hn⟩ := Nat.exists_eq_succ_of_ne_zero (by omega : (s.chan c).walkFuel ≠ 0)
  unfold State.walk
  rw [hn]
  conv_lhs => unfold walkFor
  simp only [bne_self_eq_false, h, Bool.not_true, Bool.or_self, Bool.false_eq_true, if_false]
  split
  · rfl
  · rename_i h2
    cases hi : s.listLineInside (s.chan c).listAddr ((s.chan c).walk.entry / 4) with
    | false => simp
    | true =>
      simp only [Bool.not_true, Bool.false_eq_true, if_false, Bool.true_eq_false]
      cases hb : (s.chan c).bufLine ((s.chan c).walk.entry / 4) with
      | none => rfl
      | some l =>
        dsimp only
        cases hl : l.bytes with
        | none => rfl
        | some b =>
          dsimp only
          generalize ht : s.takeEntry c (parseListEntry (b.drop (16 * ((s.chan c).walk.entry % 4)))) = t
          have hl := s.takeEntry_less c (parseListEntry (b.drop (16 * ((s.chan c).walk.entry % 4)))) h (by omega)
          rw [ht] at hl
          split
          · rename_i hu
            rw [hu]
            rcases hl with hl | hl | hl
            · exact absurd hu hl
            · have := t.walk_still c hl
              unfold State.walk at this
              rw [← hu, this]
              have hp : 0 < n ∨ n = 0 := by omega
              cases n with
              | zero => rfl
              | succ n => unfold walkFor; simp [hl]
            · exact walkFor_enough c _ n _ t (by omega) (by have := (t.chan c).walkLeft_lt_fuel; omega)
          · rename_i hu
            cases n with
            | zero => rfl
            | succ n => unfold walkFor; simp [hu]

/-! ### Block time -/

@[simp] theorem State.stepGains_playout (m : SecSet) : (s.stepGains m).playout = s.playout := by
  unfold State.stepGains
  induction members m generalizing s with
  | nil => rfl
  | cons k l ih => exact (ih (stepSection s k)).trans (by simp [stepSection])

@[simp] theorem State.stepGains_chan (m : SecSet) (c : Fin 4) : (s.stepGains m).chan c = s.chan c := by simp [State.chan]

/-- A channel that is not live takes no block-time event (R71). -/
theorem advanceChan_idle (c : Fin 4) (h : (s.chan c).st.live = false) : advanceChan s c = s := by
  unfold advanceChan
  simp [h]

/-- A channel whose play index cannot go on ends (R71). -/
theorem advanceChan_last (c : Fin 4) (h : (s.chan c).st.live = true) (hi : maxIndex ≤ (s.chan c).i) :
    advanceChan s c = s.endUse c .finish := by
  unfold advanceChan
  simp [h, hi]

/-- The gains' steps, and the channels that are not live, leave the playout unit as it is. -/
theorem handleChan_idle (d : Nat) (c : Fin 4) (h : (s.chan c).st.live = false) : (handleChan d s c).playout = s.playout := by
  unfold handleChan
  rw [advanceChan_idle _ c (by simpa using h)]
  simp

theorem handleChans_idle (d : Nat) (l : List (Fin 4)) (h : ∀ c ∈ l, (s.chan c).st.live = false) :
    (l.foldl (handleChan d) s).playout = s.playout := by
  induction l generalizing s with
  | nil => rfl
  | cons c l ih =>
    have e := handleChan_idle s d c (h c (by simp))
    exact (ih (handleChan d s c) fun x hx => by simpa [State.chan, e] using h x (by simp [hx])).trans e

/-- A block-time event with no channel live leaves the playout unit alone (R71). -/
theorem State.blockTime_idle (h : ∀ c, (s.chan c).st.live = false) : s.blockTime.playout = s.playout := by
  unfold State.blockTime
  rw [State.stepGains_playout]
  exact handleChans_idle { s with free := s.free + 1 } _ _ fun c _ => h c

/-- A block-time event with channel 3 alone live, at the last play index and with no other start: its use ends, no other does. -/
theorem State.blockTime_last (h : ∀ c, c ≠ 3 → (s.chan c).st.live = false) (hl : (s.chan 3).st.live = true)
    (hi : maxIndex ≤ (s.chan 3).i) (hn : (s.chan 3).noStarts) :
    (s.blockTime.chan 3).useNo = (s.chan 3).useNo + 1 ∧ ∀ c, c ≠ 3 → s.blockTime.chan c = s.chan c := by
  have hp : ([0, 1, 2].foldl (handleChan s.free) { s with free := s.free + 1 }).playout = s.playout :=
    handleChans_idle { s with free := s.free + 1 } _ _ fun c hc => h c (by rintro rfl; simp at hc)
  generalize hu : ([0, 1, 2].foldl (handleChan s.free) { s with free := s.free + 1 }) = u at hp
  have hc (c) : ((u.stepGains (stepSet s.free (3 : Fin 4).castSucc)).chan c) = s.chan c := by simp [State.chan, hp]
  have hb : ∀ c, s.blockTime.chan c = (advanceChan (u.stepGains (stepSet s.free (3 : Fin 4).castSucc)) 3).chan c := by
    intro c
    unfold State.blockTime
    rw [State.stepGains_chan, ← hu]
    rfl
  have he := (State.endUse_ends (u.stepGains (stepSet s.free (3 : Fin 4).castSucc)) 3 .finish (by rw [hc]; exact hn)).1
  rw [← advanceChan_last _ 3 (by rw [hc]; exact hl) (by rw [hc]; exact hi)] at he
  refine ⟨?_, fun c hne => ?_⟩
  · rw [hb, he.1, ← hc]
  · rw [hb, he.2.1 c hne, hc]

end Sys2Proof.Machine
end

