-- ==== Sys2Proof/Tests/Slice0.lean ====
section
/-! SUPPORT. The model's own tests: ill-formed commands refused, the manual's worked figures, one or two steps for each
command, and a state for each statement's hypotheses. Expected values come from the manual's examples or by hand from its rules. -/

namespace Sys2Proof.Machine

/-! ### Helpers -/

/-- The next state of an outcome; the state before, where it is none. -/
def after (s : State) (o : Host.Outcome State Fault Refusal) : State :=
  match o with
  | .next t => t
  | .fault _ => s
  | .refused _ => s

/-- The state after a command. -/
def ran (c : Instr) (s : State) : State := after s (exec c s)

/-- RESET released, no write accepted yet. -/
def up : State := { State.reset with inReset := false }

/-- RUNNING with the anchor at 1 MiB, a log ring of 64 slots, and no region but those given. -/
def running (regions : List Region) : State :=
  { up with
    path := { MemPath.atReset with implicit := regions }
    plan := { PlanUnit.atReset with anchor := some 1048576, partState := .running }
    report := { Report.atReset with mirrorBase := 2097152, logBase := 3145728, logLen := 64 }
    gather := { GatherEngine.atReset with taking := true } }

/-- RUNNING with no region. -/
def run0 : State := running []

/-- A word with all its byte enables. -/
def full (v : Word) : BurstWord := ⟨v, 15⟩

/-- A write burst of `n` words that all hold `v`, every byte enabled. -/
def burstOf (a n : Nat) (v : Word) : WriteBurst := ⟨a, List.replicate n (full v)⟩

/-- The state with a burst on the memory port. -/
def State.port (s : State) (b : PortBurst) : State := { s with arb := { s.arb with port := some b } }

/-- The state with a queued write at the head, on the memory port. -/
def State.head (s : State) (b : WriteBurst) (k : LineKind) : State :=
  { s with path := { s.path with queue := [⟨b, k, false, false⟩] } }.port .queueHead

/-- The state with a change in progress. -/
def State.changing (s : State) (c : Change) : State := { s with plan := { s.plan with change := some c } }

/-- The state with a section record. -/
def State.withSec (s : State) (k : Fin 24) (r : SectionRec) : State := s.setSec k r

/-- A section ONLINE since the moment 0, with a loss timeout of 50 ms. -/
def online : SectionRec := ⟨true, 50, .online, 0, some 50000, false, false, 0⟩

/-! ### Ill-formed commands -/

theorem test_unaligned_write_ill_formed : (Instr.hostWrite (burstOf 2 1 0)).wf = false := by decide
theorem test_unaligned_read_ill_formed : (Instr.hostRead ⟨65, 1⟩).wf = false := by decide
theorem test_address_beyond_32_bits_ill_formed : (Instr.hostRead ⟨4294967296, 1⟩).wf = false := by decide
theorem test_write_beyond_32_bits_ill_formed : (Instr.hostWrite (burstOf 4294967296 1 0)).wf = false := by decide
theorem test_empty_write_ill_formed : (Instr.hostWrite ⟨64, []⟩).wf = false := by decide
theorem test_empty_read_ill_formed : (Instr.hostRead ⟨64, 0⟩).wf = false := by decide
theorem test_seventeen_words_ill_formed : (Instr.hostWrite (burstOf 64 17 0)).wf = false := by decide
theorem test_seventeen_word_read_ill_formed : (Instr.hostRead ⟨64, 17⟩).wf = false := by decide
theorem test_last_word_well_formed : (Instr.hostRead ⟨4294967292, 16⟩).wf = true := by decide
theorem test_malformed_burst_faults : exec (.hostRead ⟨64, 0⟩) up = .fault .malformedBurst := by rfl
theorem test_no_word_spells_a_command : decodeTableWord 8 0 = none := by rfl

/-! ### Worked figures of chapter 05 -/

/-- R82: a duck gain of 8192 and a ramp of 4 give steps of 6144. -/
theorem test_ramp_step : rampStep 8192 4 = 6144 := by decide
theorem test_ramp_step_of_full_gain : rampStep 32768 4 = 1 := by decide
/-- R88: 32768 falls to 26624, 20480, 14336, 8192. -/
theorem test_ramp_down : [32768, 26624, 20480, 14336, 8192].map (fun g => moveGain g 8192 6144) =
    [26624, 20480, 14336, 8192, 8192] := by decide
/-- The table of worked figures. -/
theorem test_mix_announcement : mixHalf 8192 24576 20000 (-12000) = -4000 := by decide
theorem test_mix_gain_only : mixHalf 20480 0 20000 0 = 12500 := by decide
theorem test_mix_clamped : mixHalf 16384 32768 30000 30000 = 32767 := by decide
theorem test_mix_clamp_counted : clipped 16384 32768 30000 30000 = true := by decide
theorem test_mix_unity : mixHalf 32768 0 (-32768) 0 = -32768 := by decide
theorem test_mix_rounds_up_from_minus_half : mixHalf 16384 0 (-1) 0 = 0 := by decide
theorem test_mix_rounds_up_from_half : mixHalf 16384 0 1 0 = 1 := by decide
theorem test_mix_rounds_up_from_minus_three_halves : mixHalf 16384 0 (-3) 0 = -1 := by decide
/-- A read at i = 40 with start position 106 and a ring of 512 blocks. -/
theorem test_announcement_index : [150, 152, 153, 131, 200, 100, 146].map (fun n => annIndex n 106 512 40) =
    [44, 46, 47, 25, -418, -6, 40] := by decide


/-! ### The whole machine -/

theorem witness_StepTakesFrontCommand_due : State.pending { up with gather := { GatherEngine.atReset with waiting := some ⟨0, 0, 0, 0, []⟩ } } = [] ∧
    State.dueCommand { up with gather := { GatherEngine.atReset with waiting := some ⟨0, 0, 0, 0, []⟩ } } =
      some .poolRecordGiven := by decide
theorem witness_StepTakesFrontCommand_none_due : up.pending = [] ∧ up.dueCommand = none ∧ up.inReset = false := by decide
theorem witness_StepTakesFrontCommand_in_reset : State.reset.pending = [] ∧ State.reset.inReset = true := by decide
theorem test_idle_tick : step up = .next { up with now := 1 } := by rfl
theorem witness_CommandFrames : ∃ t, exec .start run0 = .next t := ⟨_, rfl⟩

theorem witness_StepKeepsMemoryPath : MemoryInv run0 ∧ ∃ t, step run0 = .next t :=
  ⟨⟨by decide, by decide, by decide, by intro b h; simp [run0, running, up, MemPath.atReset] at h,
    by intro b h; simp [run0, running, up, MemPath.atReset] at h, by decide⟩, ⟨_, rfl⟩⟩
theorem witness_StepKeepsBreakIns : BreakInv run0 ∧ ∃ t, step run0 = .next t :=
  ⟨⟨by unfold BreakRec.ok; decide, by decide⟩, ⟨_, rfl⟩⟩
theorem witness_StepKeepsClipFence : FenceInv run0 ∧ ∃ t, step run0 = .next t :=
  ⟨⟨by decide, by decide, by decide⟩, ⟨_, rfl⟩⟩
theorem witness_StepKeepsDeadlines_sections : SectionInv (run0.withSec 3 online) ∧ ∃ t, step (run0.withSec 3 online) = .next t :=
  ⟨by unfold SectionInv SectionRec.ok; decide, ⟨_, rfl⟩⟩
theorem witness_StepKeepsDeadlines_lines : TimingInv run0 ∧ LineInv run0 ∧ ∃ t, step run0 = .next t :=
  ⟨by unfold TimingInv; decide, by unfold LineInv LineRec.ok; decide, ⟨_, rfl⟩⟩
theorem witness_StepKeepsGatherPool : PoolInv run0 ∧ ∃ t, step run0 = .next t :=
  ⟨⟨by decide, by decide, by intro a h; simp [run0, running, up, GatherEngine.atReset] at h⟩, ⟨_, rfl⟩⟩

/-! ### Board -/

theorem witness_ResetSetsEveryBlock : Memory.wf run0.mem = true := by decide
theorem test_reset_clears_anchor : (ran .reset run0).plan.anchor = none ∧ (ran .reset run0).inReset = true := by decide
theorem witness_ResetSetsEveryBlock_release : State.reset.inReset = true := by decide
/-- Straps 2 stand for 512 MiB. -/
theorem test_release_samples_straps : (ran (.resetRelease 2 0) State.reset).path.memSize = 536870912 := by decide
theorem test_release_samples_inputs : ((ran (.resetRelease 0 2) State.reset).line 1).high = true ∧
    ((ran (.resetRelease 0 2) State.reset).line 0).high = false := by decide

/-- An enabled ACTIVE_HIGH line with a debounce of 20 ms. -/
def lineRec (high : Bool) (st : LineState) : LineRec :=
  { LineRec.atReset with high := high, enabled := true, debounce := 20, state := st }

/-- RUNNING with a line record. -/
def withLine (k : Fin 6) (l : LineRec) : State := run0.setLine k l

theorem witness_InputChangesLine_disabled : run0.inReset = false ∧ (run0.line 0).high ≠ true ∧ (run0.line 0).enabled = false := by
  decide
theorem witness_InputChangesLine_activation : (withLine 0 (lineRec false .quiet)).inReset = false ∧
    ((withLine 0 (lineRec false .quiet)).line 0).high ≠ true ∧ ((withLine 0 (lineRec false .quiet)).line 0).enabled = true ∧
    ((withLine 0 (lineRec false .quiet)).line 0).state = .quiet ∧
    true ≠ ((withLine 0 (lineRec false .quiet)).line 0).activeLow := by decide
/-- The line of chapter 09's sequence with its debounce deadline at 20 ms. -/
def bouncing : State := withLine 0 { lineRec true .debounce with deadline := some 20000 }
theorem witness_InputChangesLine_bounce : bouncing.inReset = false ∧ (bouncing.line 0).high ≠ false ∧
    (bouncing.line 0).enabled = true ∧ (bouncing.line 0).state = .debounce ∧ (bouncing.line 0).deadline = some 20000 ∧
    false = (bouncing.line 0).activeLow := by decide
/-- The line ACTIVE, unacknowledged, its input active. -/
def latching : State := withLine 0 (lineRec true .active)
theorem witness_InputChangesLine_latch : latching.inReset = false ∧ (latching.line 0).high ≠ false ∧
    (latching.line 0).enabled = true ∧ (latching.line 0).state = .active ∧ false = (latching.line 0).activeLow ∧
    (latching.line 0).acked = false := by decide
/-- The line ACTIVE and acknowledged, its input active. -/
def ackedLine : State := withLine 0 { lineRec true .active with acked := true }
theorem witness_InputChangesLine_withdrawn : ackedLine.inReset = false ∧ (ackedLine.line 0).high ≠ false ∧
    (ackedLine.line 0).enabled = true ∧ (ackedLine.line 0).state = .active ∧ false = (ackedLine.line 0).activeLow ∧
    (ackedLine.line 0).acked = true := by decide
/-- The line LATCHED with its request RUNNING, its input inactive. -/
def latchedLine : State := withLine 0 { lineRec false .latched with request := .running }
theorem witness_InputChangesLine_again : latchedLine.inReset = false ∧ (latchedLine.line 0).high ≠ true ∧
    (latchedLine.line 0).enabled = true ∧ (latchedLine.line 0).state = .latched ∧ true ≠ (latchedLine.line 0).activeLow ∧
    (latchedLine.line 0).request = .running := by decide
theorem test_activation_starts_debounce : ((ran (.inputEvent 0 true) (withLine 0 (lineRec false .quiet))).line 0).deadline =
    some 20000 := by decide
theorem test_bounce_logged : (ran (.inputEvent 0 false) bouncing).report.queue.map (fun r => (r.kind, r.d1.toNat, r.d2.toNat)) =
    [(.lineBounce, 0, 20), (.lineState, 65537, 0)] := by decide

/-- Line 0 in DEBOUNCE past its deadline, its first action a FOCUS that names no group. -/
def expired : State :=
  { withLine 0 { lineRec true .debounce with
      deadline := some 20000, actions := (Table.fill 3 .empty).set 0 (.focus 12 1 40) } with now := 20000 }
theorem witness_DebounceExpiryActivates : expired.inReset = false ∧ (expired.line 0).state = .debounce ∧
    (expired.line 0).deadline = some 20000 ∧ 20000 ≤ expired.now ∧ (expired.line 0).firstBreakin = none := by decide
theorem test_bad_group_refused : (ran (.debounceExpiry 0) expired).report.queue.map (fun r => (r.kind, r.d1.toNat)) =
    [(.actionRefused, 66304), (.lineState, 131585)] := by decide

/-! ### The memory path -/

/-- Group 2 of `mapped`: sections 0 to 2, 16 positions, WAIT with a retry limit of 2. -/
def group2 : Group :=
  { Group.atReset with present := true, set := 7, uplinkBase := 4194304, outputBase := 5242880, retryLimit := 2 }

/-- A RUNNING part with a region of each of several kinds, the VIEW of programme 1 as in chapter 03's example (ring at
0x03000000 of 100 blocks, view at 0x03200000), group 2 with 16 positions. -/
def mapped : State :=
  let s := running [⟨.plan, 1048576, 3072⟩, ⟨.mirror, 2097152, 3008⟩, ⟨.log, 3145728, 1024⟩, ⟨.programme 1, 50331648, 19200⟩,
    ⟨.view 1, 52428800, 460800⟩, ⟨.uplink 2, 4194304, 24576⟩, ⟨.output 2, 5242880, 1024⟩, ⟨.clip, 6291456, 65536⟩]
  { s with
    tracker := { Tracker.atReset with progs := Tracker.atReset.progs.set 1 ⟨true, 50331648, 100, 0, 0, 0⟩ }
    gather := { s.gather with groups := s.gather.groups.set 2 group2 }
    sections := Table.fill 24 online }

theorem witness_RegionClassification_covered : (⟨.log, 3145728, 1024⟩ : Region) ∈ mapped.path.allRegions ∧
    3146751 < mapped.path.memSize ∧ mapped.inForce = true ∧ 3145728 ≤ 3146751 ∧ 3146751 / 64 * 64 < 3145728 + 1024 ∧
    ∀ q ∈ mapped.path.allRegions, q.base ≤ 3146751 → 3146751 / 64 * 64 < q.base + q.size → q = ⟨.log, 3145728, 1024⟩ := by
  decide
theorem witness_RegionClassification_plain : 3146752 < mapped.path.memSize ∧ mapped.inForce = true ∧
    ∀ r ∈ mapped.path.allRegions, 3146752 < r.base ∨ r.base + r.size ≤ 3146752 / 64 * 64 := by decide
theorem witness_RegionClassification_no_plan : 134217727 < up.path.memSize ∧ up.inForce = false := by decide
theorem witness_RegionClassification_beyond : up.path.memSize ≤ 134217728 := by decide
theorem test_classify_edges : [3146751, 3146752, 134217727, 134217728].map mapped.classify = [.log, .plain, .plain, .beyondMemory] := by
  decide

/-- With no change in progress no activation step is due. -/
theorem idlePort {s : State} (h1 : s.inReset = false) (h2 : s.path.txn = none) (h3 : s.stage = none) : s.portIdle :=
  ⟨h1, h2, fun h => by obtain ⟨n, hn⟩ := h.1; simp [h3] at hn⟩

theorem witness_HostWriteAnswered_refused : (Instr.hostWrite (burstOf 52428800 16 7)).wf = true ∧ mapped.portIdle ∧
    mapped.refused (mapped.classify 52428800) := ⟨by decide, idlePort (by decide) (by decide) (by decide), trivial⟩
/-- `mapped` with 16 writes queued. -/
def filled : State := { mapped with path := { mapped.path with queue := List.replicate 16 ⟨burstOf 0 1 0, .plain, false, false⟩ } }
theorem witness_HostWriteAnswered_held : (Instr.hostWrite (burstOf 0 1 7)).wf = true ∧ filled.portIdle ∧
    ¬filled.refused (filled.classify 0) ∧ filled.noSlot :=
  ⟨by decide, idlePort (by decide) (by decide) (by decide), by rw [show filled.classify 0 = .plain by decide]; exact id,
    by unfold State.noSlot; decide⟩
theorem witness_HostWriteAnswered_accepted : (Instr.hostWrite (burstOf 0 1 7)).wf = true ∧ up.portIdle ∧
    ¬up.refused (up.classify 0) ∧ ¬up.noSlot ∧ up.plan.partState = .awaitAnchor :=
  ⟨by decide, idlePort (by decide) (by decide) (by decide), by rw [show up.classify 0 = .plain by decide]; exact id,
    by unfold State.noSlot; decide, by decide⟩
theorem test_anchor_rounded_down : (ran (.hostWrite (burstOf 1052740 1 7)) up).plan.anchor = some 1052672 := by decide
theorem test_clip_write_refused_while_live :
    (ran (.hostWrite (burstOf 6291456 1 7)) { mapped with path := { mapped.path with fence := .up } }).path.response = some .error := by
  decide

/-- `up` with a write held at the system port. -/
def holding : State := { up with path := { up.path with txn := some (.write (burstOf 64 2 9)) } }
theorem witness_HostWriteAnswered_again : (Instr.hostWrite (burstOf 64 2 9)).wf = true ∧ holding.inReset = false ∧
    holding.path.txn = some (.write (burstOf 64 2 9)) ∧ ¬holding.noSlot := ⟨by decide, by decide, by decide, by unfold State.noSlot; decide⟩
theorem test_held_write_accepted : (ran .heldWriteAccepted holding).path.response = some .accept ∧
    (ran .heldWriteAccepted holding).path.queue.length = 1 := by decide

theorem witness_HostReadPassed_beyond : (Instr.hostRead ⟨134217728, 1⟩).wf = true ∧ up.portIdle ∧
    up.classify 134217728 = .beyondMemory := ⟨by decide, idlePort (by decide) (by decide) (by decide), by decide⟩
theorem witness_HostReadPassed_passed : (Instr.hostRead ⟨134217724, 16⟩).wf = true ∧ up.portIdle ∧
    up.classify 134217724 = .plain := ⟨by decide, idlePort (by decide) (by decide) (by decide), by decide⟩
theorem witness_ViewReadTranslated : (Instr.hostRead ⟨52889596, 1⟩).wf = true ∧ mapped.portIdle ∧
    mapped.classify 52889596 = .view 1 ∧ mapped.path.baseOf (.view 1) ≤ 52889596 ∧
    52889596 < mapped.path.baseOf (.view 1) + 24 * (mapped.prog 1).ringLen * 192 ∧
    mapped.path.baseOf (.view 1) % 64 = 0 ∧ (mapped.prog 1).base % 64 = 0 :=
  ⟨by decide, idlePort (by decide) (by decide) (by decide), by decide, by decide, by decide, by decide, by decide⟩
/-- Chapter 03's short wrapping view read: 6 words at 0x032707B4. -/
theorem test_view_read : (ran (.hostRead ⟨52889524, 6⟩) mapped).path.txn =
    some (.read ⟨⟨52889524, 6⟩, .view 1, 50350772, some ⟨23, 1, 99, 1, [29, 30, 31, 16, 17, 18]⟩, true, .onPort⟩) := by decide

/-- An OPEN gather of group 2 at position 3 with sequence 5 and contributor 0. -/
def gatherRec : Gather := ⟨2, 3, 5, 0, some 200, 1, 0, none, [], Vote.opened, []⟩
/-- `mapped` with that gather OPEN. -/
def opened : State := { mapped with gather := { mapped.gather with opens := [gatherRec] } }
/-- `opened` with the read policy ON_READ. -/
def onRead : State := opened.setGrp 2 { opened.grp 2 with policy := .onRead }
/-- `opened` with one retry already given. -/
def retried : State := { opened with gather := { opened.gather with opens := [{ gatherRec with retries := 1 }] } }

theorem witness_OutputReadOfOpenGather : (Instr.hostRead ⟨5243072, 16⟩).wf = true ∧ opened.portIdle ∧
    opened.plan.partState = .running ∧ opened.classify 5243072 = .output 2 ∧
    opened.openAt 2 ((5243072 - (opened.grp 2).outputBase) / 64) = some gatherRec ∧ (opened.grp 2).policy = .wait ∧
    gatherRec.retries + 1 ≠ (opened.grp 2).retryLimit :=
  ⟨by decide, idlePort (by decide) (by decide) (by decide), by decide, by decide, by decide, by decide, by decide⟩
theorem witness_OutputReadOfOpenGather_limit : retried.portIdle ∧ retried.plan.partState = .running ∧
    retried.classify 5243072 = .output 2 ∧
    retried.openAt 2 ((5243072 - (retried.grp 2).outputBase) / 64) = some { gatherRec with retries := 1 } ∧
    (retried.grp 2).policy = .wait ∧ 1 + 1 = (retried.grp 2).retryLimit :=
  ⟨idlePort (by decide) (by decide) (by decide), by decide, by decide, by decide, by decide, by decide⟩
theorem witness_OutputReadOfOpenGather_onRead : onRead.portIdle ∧ onRead.plan.partState = .running ∧
    onRead.classify 5243072 = .output 2 ∧
    onRead.openAt 2 ((5243072 - (onRead.grp 2).outputBase) / 64) = some gatherRec ∧ (onRead.grp 2).policy = .onRead :=
  ⟨idlePort (by decide) (by decide) (by decide), by decide, by decide, by decide, by decide⟩
theorem test_retry_then_retry_limit : (ran (.hostRead ⟨5243072, 16⟩) opened).path.response = some .retry ∧
    (ran (.hostRead ⟨5243072, 16⟩) retried).gather.results.map Gather.status = [some .retryLimit] := by decide

/-- `mapped` with a held OUTPUT read that awaits no more. -/
def released : State := { mapped with path := { mapped.path with
  txn := some (.read ⟨⟨5243072, 16⟩, .output 2, 5243072, none, true, .held 2 3 0⟩) } }
theorem witness_OutputReadHeldOrPassed_read : (Instr.hostRead ⟨5243136, 16⟩).wf = true ∧ opened.portIdle ∧
    opened.plan.partState = .running ∧ opened.classify 5243136 = .output 2 ∧
    opened.openAt 2 ((5243136 - (opened.grp 2).outputBase) / 64) = none :=
  ⟨by decide, idlePort (by decide) (by decide) (by decide), by decide, by decide, by decide⟩
theorem witness_OutputReadHeldOrPassed_released : released.inReset = false ∧ released.path.txn =
    some (.read ⟨⟨5243072, 16⟩, .output 2, 5243072, none, true, .held 2 3 0⟩) := by decide
theorem test_released_read_granted : (ran .outputReadReleased released).arb.port = some .read := by decide

/-! ### Taken writes -/

/-- The queue entry of a write that covers no watched word. -/
def plainEntry (b : WriteBurst) (k : LineKind) : QEntry := ⟨b, k, false, false⟩

/-- `up` with two words queued at word 15 of line 1. -/
def wrapping : State := up.head ⟨124, [full 1, ⟨66051, 10⟩]⟩ .plain
theorem witness_WriteTakenReachesMemory : wrapping.takes (plainEntry ⟨124, [full 1, ⟨66051, 10⟩]⟩ .plain) [] ∧
    Memory.wf wrapping.mem = true ∧ (Instr.hostWrite ⟨124, [full 1, ⟨66051, 10⟩]⟩).wf = true :=
  ⟨⟨by decide, by decide, by decide, by decide⟩, by decide, by decide⟩
theorem witness_WriteTakenReachesMemory_unwatched : wrapping.takes (plainEntry ⟨124, [full 1, ⟨66051, 10⟩]⟩ .plain) [] ∧
    (plainEntry ⟨124, [full 1, ⟨66051, 10⟩]⟩ .plain).kind.plainLike ∧ (plainEntry ⟨124, [full 1, ⟨66051, 10⟩]⟩ .plain).unwatched :=
  ⟨⟨by decide, by decide, by decide, by decide⟩, trivial, ⟨by decide, by decide⟩⟩
/-- Word 1 at 124 wraps to word 0 of the line: 66051 is 0x00010203, of which bytes 1 and 3 are enabled. -/
theorem test_wrapped_bytes_in_memory : (ran (.writeTaken false) wrapping).mem = [(65, 2), (124, 1)] := by decide
theorem test_failed_write_leaves_memory : (ran (.writeTaken true) wrapping).mem = [] ∧
    (ran (.writeTaken true) wrapping).plan.memErrors = 1 := by decide

/-- Chapter 03's programme 2: ring of 64 blocks at 0x02000000, head 62, generation 41; then head 63, generation 42. -/
def ring (head gen : Nat) (b : WriteBurst) : State :=
  { run0 with tracker := { Tracker.atReset with progs := Tracker.atReset.progs.set 2 ⟨true, 33554432, 64, head, gen, 0⟩ } }.head b
    (.programme 2)
theorem witness_ProgrammeWriteAdvancesHead_last :
    (ring 62 41 (burstOf 33566688 16 0)).takes (plainEntry (burstOf 33566688 16 0) (.programme 2)) [] ∧
    (33566688 - ((ring 62 41 (burstOf 33566688 16 0)).prog 2).base) % 192 / 64 = 2 ∧
    (31 - 33566688 / 4 % 16) % 16 < (burstOf 33566688 16 0).words.length ∧
    (ring 62 41 (burstOf 33566688 16 0)).tracker.reference ≠ some 2 :=
  ⟨⟨by decide, by decide, by decide, by decide⟩, by decide, by decide, by decide⟩
theorem witness_ProgrammeWriteAdvancesHead_other :
    (ring 63 42 (burstOf 33554560 15 0)).takes (plainEntry (burstOf 33554560 15 0) (.programme 2)) [] ∧
    ¬((33554560 - ((ring 63 42 (burstOf 33554560 15 0)).prog 2).base) % 192 / 64 = 2 ∧
      (31 - 33554560 / 4 % 16) % 16 < (burstOf 33554560 15 0).words.length) :=
  ⟨⟨by decide, by decide, by decide, by decide⟩, by decide⟩
/-- W3, W6 and W7 of chapter 03's example. -/
theorem test_heads :
    [(62, 41, burstOf 33566688 16 0), (63, 42, burstOf 33554560 15 0), (63, 42, burstOf 33554620 1 0)].map
      (fun x => ((ran (.writeTaken false) (ring x.1 x.2.1 x.2.2)).prog 2).head) = [63, 63, 0] := by decide

/-- `ring` with programme 2 the reference, in a timing state. -/
def reference (tm : Timing) (wd nf : Option Nat) : State :=
  let s := ring 62 41 (burstOf 33566688 16 0)
  { s with tracker := { s.tracker with reference := some 2, timing := tm, watchdog := wd, nextFree := nf } }
theorem witness_LockedAdvanceDrivesBlockTime :
    (reference .locked (some 6000) none).takes (plainEntry (burstOf 33566688 16 0) (.programme 2)) [] ∧
    (33566688 - ((reference .locked (some 6000) none).prog 2).base) % 192 / 64 = 2 ∧
    (31 - 33566688 / 4 % 16) % 16 < (burstOf 33566688 16 0).words.length ∧
    (reference .locked (some 6000) none).tracker.timing = .locked ∧
    (reference .locked (some 6000) none).tracker.reference = some 2 :=
  ⟨⟨by decide, by decide, by decide, by decide⟩, by decide, by decide, by decide, by decide⟩
/-- `reference` with programme 3 the reference. -/
def otherReference : State :=
  let s := reference .locked (some 6000) none
  { s with tracker := { s.tracker with reference := some 3 } }
theorem witness_LockedAdvanceDrivesBlockTime_other :
    otherReference.takes (plainEntry (burstOf 33566688 16 0) (.programme 2)) [] ∧ otherReference.tracker.timing = .locked ∧
    otherReference.tracker.reference ≠ some 2 := ⟨⟨by decide, by decide, by decide, by decide⟩, by decide, by decide⟩
theorem witness_LockedAdvanceDrivesBlockTime_free : TimingInv (reference .locked (some 6000) none) ∧
    (reference .locked (some 6000) none).tracker.timing = .locked := ⟨by unfold TimingInv; decide, by decide⟩
theorem witness_FreeRunTiming_regained :
    (reference .freeRun none (some 7000)).takes (plainEntry (burstOf 33566688 16 0) (.programme 2)) [] ∧
    (plainEntry (burstOf 33566688 16 0) (.programme 2)).unwatched ∧
    (33566688 - ((reference .freeRun none (some 7000)).prog 2).base) % 192 / 64 = 2 ∧
    (31 - 33566688 / 4 % 16) % 16 < (burstOf 33566688 16 0).words.length ∧
    (reference .freeRun none (some 7000)).tracker.timing = .freeRun ∧
    (reference .freeRun none (some 7000)).tracker.reference = some 2 :=
  ⟨⟨by decide, by decide, by decide, by decide⟩, ⟨by decide, by decide⟩, by decide, by decide, by decide, by decide⟩

/-- `mapped` with a write for section 1, position 3 of group 2 at the head: line 16 + 3 of the UPLINK region. -/
def uplink (n : Nat) (v : Word) : State := mapped.head (burstOf 4195520 n v) (.uplink 2)
/-- `uplink` with section 1 in another state. -/
def uplinkOf (n : Nat) (v : Word) (st : SectionState) : State :=
  (uplink n v).setSec 1 { online with state := st, deadline := none, feederFault := true }
theorem witness_UplinkWriteHeard : (uplink 16 5).takes (plainEntry (burstOf 4195520 16 5) (.uplink 2)) [] ∧
    (4195520 - ((uplink 16 5).grp 2).uplinkBase) / 64 / ((uplink 16 5).grp 2).ringLen = (1 : Fin 24).val ∧
    ((uplink 16 5).sec 1).state ≠ .disabled := ⟨⟨by decide, by decide, by decide, by decide⟩, by decide, by decide⟩
theorem witness_UplinkWriteHeard_disabled :
    (uplinkOf 16 5 .disabled).takes (plainEntry (burstOf 4195520 16 5) (.uplink 2)) [] ∧
    ((uplinkOf 16 5 .disabled).sec 1).state = .disabled := ⟨⟨by decide, by decide, by decide, by decide⟩, by decide⟩
/-- A partial line revives a LOST section by the flags it kept (R6). -/
theorem test_revived_degraded : ((ran (.writeTaken false) (uplinkOf 4 5 .lost)).sec 1).state = .degraded := by decide
theorem test_timer_restarted : ((ran (.writeTaken false) { uplink 16 5 with now := 7000 }).sec 1).deadline = some 57000 := by
  decide

theorem witness_UplinkWriteArrives : (uplink 16 5).takes (plainEntry (burstOf 4195520 16 5) (.uplink 2)) [] ∧
    (plainEntry (burstOf 4195520 16 5) (.uplink 2)).unwatched ∧
    (4195520 - ((uplink 16 5).grp 2).uplinkBase) / 64 / ((uplink 16 5).grp 2).ringLen = (1 : Fin 24).val ∧
    (4195520 - ((uplink 16 5).grp 2).uplinkBase) / 64 % ((uplink 16 5).grp 2).ringLen = 3 ∧
    (uplink 16 5).gather.taking = true ∧ (burstOf 4195520 16 5).fullLine = true ∧ has ((uplink 16 5).grp 2).set 1 = true ∧
    ((uplink 16 5).sec 1).state ≠ .disabled :=
  ⟨⟨by decide, by decide, by decide, by decide⟩, ⟨by decide, by decide⟩, by decide, by decide, by decide, by decide, by decide,
    by decide⟩
theorem witness_UplinkWriteArrives_partial : (uplink 15 5).takes (plainEntry (burstOf 4195520 15 5) (.uplink 2)) [] ∧
    (uplink 15 5).gather.taking = true ∧ (burstOf 4195520 15 5).fullLine = false :=
  ⟨⟨by decide, by decide, by decide, by decide⟩, by decide, by decide⟩
theorem witness_UplinkWriteArrives_disabled :
    (uplinkOf 16 5 .disabled).takes (plainEntry (burstOf 4195520 16 5) (.uplink 2)) [] ∧
    (burstOf 4195520 16 5).fullLine = true ∧ ((uplinkOf 16 5 .disabled).sec 1).state = .disabled :=
  ⟨⟨by decide, by decide, by decide, by decide⟩, by decide, by decide⟩
theorem test_arrival_opens_gather :
    (ran (.writeTaken false) (uplink 16 5)).gather.opens.map (fun ga => (ga.group, ga.pos, ga.seq, ga.contributors)) =
      [(2, 3, 5, 2)] := by decide
theorem test_partial_uplink_logged : (ran (.writeTaken false) (uplink 15 5)).report.queue.map
    (fun r => (r.kind, r.subject, r.d1.toNat, r.d2.toNat)) = [(.partialUplink, 2, 200449, 4195520)] := by decide

/-- `mapped` with a write of a watched word at the head. -/
def watched (a : Nat) (v : Word) (change consumer : Bool) : State :=
  { mapped with path := { mapped.path with queue := [⟨burstOf a 1 v, .plan, change, consumer⟩] } }.port .queueHead
theorem witness_ChangeWordTaken : (watched 1048576 3 true false).takes ⟨burstOf 1048576 1 3, .plan, true, false⟩ [] ∧
    (burstOf 1048576 1 3).fullWordAt (watched 1048576 3 true false).anchorAddr = some 3 ∧ (3 : Word).toNat % 256 ≠ 0 ∧
    (watched 1048576 3 true false).plan.change = none :=
  ⟨⟨by decide, by decide, by decide, by decide⟩, by decide, by decide, by decide⟩
theorem witness_ChangeWordTaken_none : (watched 1048576 256 true false).takes ⟨burstOf 1048576 1 256, .plan, true, false⟩ [] ∧
    (burstOf 1048576 1 256).fullWordAt (watched 1048576 256 true false).anchorAddr = some 256 ∧ (256 : Word).toNat % 256 = 0 :=
  ⟨⟨by decide, by decide, by decide, by decide⟩, by decide, by decide⟩
/-- A change of kind 1 that reads its plan. -/
def loading : Change := ⟨1, 1, 0, 0, 0, .loading⟩
theorem witness_ChangeWordTaken_collision :
    ((watched 1048576 3 true false).changing loading).takes ⟨burstOf 1048576 1 3, .plan, true, false⟩ [] ∧
    (burstOf 1048576 1 3).fullWordAt ((watched 1048576 3 true false).changing loading).anchorAddr = some 3 ∧
    ((watched 1048576 3 true false).changing loading).plan.change = some loading :=
  ⟨⟨by decide, by decide, by decide, by decide⟩, by decide, by decide⟩
theorem test_change_taken : (ran (.writeTaken false) (watched 1048576 3 true false)).stage = some .arguments ∧
    (ran (.writeTaken false) (watched 1048576 3 true false)).arb.port = some (.plan .argRead) := by decide
theorem test_collision_logged : (ran (.writeTaken false) ((watched 1048576 3 true false).changing loading)).report.queue.map
    (fun r => (r.kind, r.subject, r.d1.toNat)) = [(.changeCollision, 1, 515)] := by decide

/-- `watched` for the consumer index, with records of two classes in slots 0 to 2 of the ring. -/
def unread : State :=
  let s := watched 1048640 66 false true
  { s with report := { s.report with
      attnMask := 1, producer := 3, tags := [(0, .section_), (1, .plan), (2, .section_)]
      unconsumed := ((Table.fill 6 0).set 0 2).set 5 1 } }
theorem witness_ConsumerIndexTaken : unread.takes ⟨burstOf 1048640 1 66, .plan, false, true⟩ [] ∧
    (burstOf 1048640 1 66).fullWordAt (unread.anchorAddr + 64) = some 66 ∧
    ∀ c : AttnClass, ((slotsPassed unread.report.logLen unread.report.consumer ((66 : Word).toNat % unread.report.logLen)).filter
      fun j => tagAt unread.report.tags j = some c).length ≤ unread.report.unconsumed.get c.bit :=
  ⟨⟨by decide, by decide, by decide, by decide⟩, by decide, by intro c; cases c <;> decide⟩
/-- 66 mod 64 is slot 2: slots 0 and 1 are passed, one SECTION record is left, and ATTN stays. -/
theorem test_consumer_index : (ran (.writeTaken false) unread).report.consumer = 2 ∧
    (ran (.writeTaken false) unread).report.unconsumed.xs = [1, 0, 0, 0, 0, 0] ∧
    (ran (.writeTaken false) unread).report.attn = true := by decide

/-! ### The gather engine -/

/-- An arrival from section `k` for position 3 of group 2. -/
def arrival (k : Fin 24) (seq : Nat) : Arrival := ⟨k, 2, 3, seq, le 2 seq ++ zeros 62⟩
/-- `opened` with contributors 0 and 2, so that section 1 completes it. -/
def nearly : State := { opened with gather := { opened.gather with opens := [{ gatherRec with contributors := 5 }] } }
/-- `mapped` with a CLOSING record of the key. -/
def closing : State := { mapped with gather := { mapped.gather with results := [{ gatherRec with status := some .deadline, result := zeros 64 }] } }

theorem witness_ArrivalMeetsItsKey_duplicate : opened.openAt (arrival 0 5).group (arrival 0 5).pos = some gatherRec ∧
    gatherRec.seq = (arrival 0 5).seq ∧ has gatherRec.contributors (arrival 0 5).sec = true := by decide
theorem witness_ArrivalMeetsItsKey_late : closing.openAt (arrival 0 5).group (arrival 0 5).pos = none ∧
    ∃ ga ∈ closing.gather.results, ga.group = (arrival 0 5).group ∧ ga.pos = (arrival 0 5).pos ∧ ga.seq = (arrival 0 5).seq := by
  decide
theorem witness_ArrivalMeetsItsKey_join : opened.openAt (arrival 1 5).group (arrival 1 5).pos = some gatherRec ∧
    gatherRec.seq = (arrival 1 5).seq ∧ has gatherRec.contributors (arrival 1 5).sec = false ∧
    has (opened.grp 2).set 2 = true ∧ (opened.sec 2).state.eligible = true ∧ 2 ≠ (arrival 1 5).sec ∧
    has gatherRec.contributors 2 = false := by decide
theorem witness_ArrivalMeetsItsKey_complete :
    nearly.openAt (arrival 1 5).group (arrival 1 5).pos = some { gatherRec with contributors := 5 } ∧
    ∀ k, has (nearly.grp 2).set k = true → (nearly.sec k).state.eligible = true → k = (arrival 1 5).sec ∨ has (5 : SecSet) k = true := by
  decide
theorem witness_ArrivalMeetsItsKey_superseded : opened.openAt (arrival 0 6).group (arrival 0 6).pos = some gatherRec ∧
    gatherRec.seq ≠ (arrival 0 6).seq := by decide
theorem witness_ArrivalMeetsItsKey_new : mapped.openAt (arrival 1 5).group (arrival 1 5).pos = none ∧
    mapped.gather.results = [] := by decide
theorem test_superseded_then_opened : (opened.arrive (arrival 0 6)).gather.opens.map Gather.seq = [6] ∧
    (opened.arrive (arrival 0 6)).gather.results.map (fun ga => (ga.seq, ga.status)) = [(5, some .superseded)] := by decide

/-- `mapped` with all 32 records CLOSING, or 31 CLOSING and one OPEN. -/
def fullPool : State := { mapped with gather := { mapped.gather with results := List.replicate 32 gatherRec } }
def oneOpen : State := { mapped with gather := { mapped.gather with
  opens := [{ gatherRec with pos := 9 }], results := List.replicate 31 gatherRec } }
/-- `mapped` with only section 1 expected of group 2. -/
def loneSection : State := mapped.setGrp 2 { group2 with set := 2 }
theorem witness_ArrivalOpensOrWaits_opens : mapped.openAt (arrival 1 5).group (arrival 1 5).pos = none ∧ mapped.poolUsed < 32 ∧
    has (mapped.grp 2).set 2 = true ∧ (mapped.sec 2).state.eligible = true ∧ 2 ≠ (arrival 1 5).sec := by decide
theorem witness_ArrivalOpensOrWaits_complete : loneSection.openAt (arrival 1 5).group (arrival 1 5).pos = none ∧
    loneSection.poolUsed < 32 ∧
    ∀ k, has (loneSection.grp 2).set k = true → (loneSection.sec k).state.eligible = true → k = (arrival 1 5).sec := by decide
theorem witness_ArrivalOpensOrWaits_waits : fullPool.openAt (arrival 1 5).group (arrival 1 5).pos = none ∧
    32 ≤ fullPool.poolUsed ∧ fullPool.gather.opens = [] := by decide
theorem witness_ArrivalOpensOrWaits_evicts : oneOpen.openAt (arrival 1 5).group (arrival 1 5).pos = none ∧
    32 ≤ oneOpen.poolUsed ∧ oneOpen.gather.opens ≠ [] := by decide
theorem test_evicted : (oneOpen.openOrWait (arrival 1 5)).gather.opens = [] ∧
    (oneOpen.openOrWait (arrival 1 5)).gather.results.getLast?.map (fun ga => (ga.pos, ga.status)) = some (9, some .evicted) := by
  decide

/-- An arrival that waits on the pool with a record free. -/
def poolFree : State :=
  { mapped with
    path := { mapped.path with queue := [plainEntry (burstOf 4195520 16 5) (.uplink 2)] }
    gather := { mapped.gather with waiting := some (arrival 1 5) } }
theorem witness_PoolRecordAndDeadline_pool : poolFree.inReset = false ∧ poolFree.gather.waiting = some (arrival 1 5) ∧
    poolFree.poolUsed < 32 ∧ has (poolFree.grp (arrival 1 5).group).set (arrival 1 5).sec = true ∧
    (poolFree.sec (arrival 1 5).sec).state ≠ .disabled := by decide
/-- `poolFree` with section 1 DISABLED. -/
def poolDisabled : State := poolFree.setSec 1 { online with state := .disabled }
theorem witness_PoolRecordAndDeadline_disabled : poolDisabled.inReset = false ∧
    poolDisabled.gather.waiting = some (arrival 1 5) ∧ poolDisabled.poolUsed < 32 ∧ (poolDisabled.sec 1).state = .disabled := by decide
theorem test_pool_record_given : (ran .poolRecordGiven poolFree).gather.opens.map Gather.contributors = [2] ∧
    (ran .poolRecordGiven poolFree).path.queue = [] := by decide
theorem witness_PoolRecordAndDeadline_deadline : ({ opened with now := 200 } : State).inReset = false ∧
    State.openAt { opened with now := 200 } 2 3 = some gatherRec ∧ gatherRec.deadline = some 200 ∧
    200 ≤ ({ opened with now := 200 } : State).now := by decide
theorem test_deadline_closes : (ran (.gatherDeadline 2 3) { opened with now := 200 }).gather.results.map Gather.status =
    [some .deadline] := by decide
theorem test_deadline_not_reached : (ran (.gatherDeadline 2 3) { opened with now := 199 }).gather.opens.length = 1 := by decide

/-- `closing` with its result write on the port and a read held for it. -/
def resultWriting : State := { closing with path := { closing.path with
  txn := some (.read ⟨⟨5243072, 16⟩, .output 2, 5243072, none, true, .held 2 3 1⟩) } }.port .result
theorem witness_ResultWriteFreesRecord : resultWriting.inReset = false ∧ resultWriting.arb.port = some .result ∧
    resultWriting.gather.results = [{ gatherRec with status := some .deadline, result := zeros 64 }] ∧
    Memory.wf resultWriting.mem = true ∧ resultWriting.path.txn =
      some (.read ⟨⟨5243072, 16⟩, .output 2, 5243072, none, true, .held 2 3 1⟩) := by decide
/-- `resultWriting` with a read held for another position. -/
def resultOther : State := { resultWriting with path := { resultWriting.path with
  txn := some (.read ⟨⟨5243136, 16⟩, .output 2, 5243136, none, true, .held 2 4 1⟩) } }
theorem witness_ResultWriteFreesRecord_other : resultOther.arb.port = some .result ∧
    resultOther.gather.results.map (fun ga => (ga.group, ga.pos)) = [(2, 3)] ∧
    ∀ r c, resultOther.path.txn = some (.read r) → r.phase ≠ .held 2 3 c :=
  ⟨by decide, by decide, by intro r c h; cases h; simp⟩
theorem test_result_write_frees_record : (ran (.resultWriteComplete false) resultWriting).gather.results = [] ∧
    (ran (.resultWriteComplete false) resultWriting).releaseDue = true := by decide
theorem test_result_write_error_logged : (ran (.resultWriteComplete true) resultWriting).report.queue.map
    (fun r => (r.kind, r.subject, r.d1.toNat, r.d2.toNat)) = [(.memoryError, 3, 5243072, 196610)] := by decide

/-! ### Voting and gating -/

/-- Group 0 of chapter 07's vote on hysteresis: w 4, B 20, H 10, P 60, last winner 7. -/
def voting : State := run0.setGrp 0 { Group.atReset with
  present := true, set := 448, vote := ⟨4, 20, 10, 60⟩, lastWinner := some 7 }
/-- What the first clause of BlockScoredAtJoin asks of section 7's block there, no FOCUS in force. -/
theorem witness_BlockScoredAtJoin : (voting.grp 0).kind = .select ∧
    (∀ (l : Fin 6) (j : Fin 3), (voting.line l).state ≠ .active ∧ (voting.line l).state ≠ .latched ∧
      (voting.line l).actions.get j = .empty) ∧ (502 : Int) = max 0 (min 1593
    (4 * (field [0, 2, 0, 3, 118, 0] 4 1 : Int) - (voting.grp 0).vote.errorWeight * field [0, 2, 0, 3, 118, 0] 5 1
      + (if (field [0, 2, 0, 3, 118, 0] 3 1).testBit 1 then ((voting.grp 0).vote.crcBonus : Int) else 0)
      + (if (voting.grp 0).lastWinner = some 7 then ((voting.grp 0).vote.hysteresis : Int) else 0) + (0 : Nat)
      - (if (voting.sec 7).state = .degraded then ((voting.grp 0).vote.penalty : Int) else 0))) := by decide
/-- `voting` with line 2 ACTIVE and two FOCUS actions on section 7. -/
def focusing : State := voting.setLine 2 { lineRec true .active with
  actions := ((Table.fill 3 .empty).set 0 (.focus 0 128 40)).set 2 (.focus 0 192 55) }
theorem witness_BlockScoredAtJoin_focus : (focusing.line 2).state = .active ∧
    (focusing.line 2).actions.xs = [Action.focus 0 128 40, .empty, .focus 0 192 55] ∧ has (128 : SecSet) 7 = true ∧
    has (192 : SecSet) 7 = true ∧ (40 : Nat) ≤ 55 ∧ ∀ l, l ≠ 2 → (focusing.line l).state = .quiet := by decide
/-- The larger of the two bonuses counts. -/
theorem test_focus : focusing.metric 0 7 [0, 2, 0, 3, 118, 0] = 557 := by decide
/-- The metrics of chapter 07's examples. -/
theorem test_metrics : voting.metric 0 6 [0, 2, 0, 3, 120, 3] = 488 ∧ voting.metric 0 7 [0, 2, 0, 3, 118, 0] = 502 ∧
    metricOf ⟨4, 20, 10, 60⟩ 100 2 true true false 0 = 422 ∧ metricOf ⟨4, 20, 10, 60⟩ 102 4 true false false 40 = 452 ∧
    metricOf ⟨4, 20, 10, 60⟩ 110 1 true false true 40 = 436 := by decide

/-- A stored report whose band 2 has a power code. -/
def bandReport (k : Fin 24) (e : Byte) : Report8 := ⟨k, [0, 0, e], false, false⟩
/-- The gather of chapter 08's worked case at its close at position 12. -/
def ranked : Gather :=
  { gatherRec with group := 4, pos := 12, contributors := 2864
                   reports := [bandReport 4 95, bandReport 5 72, bandReport 8 30, bandReport 9 40, bandReport 11 20] }
/-- Group 4 of that case, with band 2's parameters and gate state. -/
def group4 : Group :=
  { Group.atReset with
    present := true, kind := .rank, set := 3888, bands := (Table.fill 8 ⟨0, 0, 0, 0⟩).set 2 ⟨90, 70, 3, 2⟩
    gates := (Table.fill 8 GateBand.closed).set 2 ⟨32, ((Table.fill 24 0).set 5 1).set 9 1⟩ }
theorem witness_BlockScoredAtJoin_rank : ((run0.setGrp 4 group4).grp ranked.group).kind = .rank := by decide
/-- A band report's codes and flags, at its offsets 8 and 3. -/
theorem test_report_stored : ((run0.setGrp 4 group4).joinedRecord ranked 6 ([0, 0, 0, 2, 0, 0, 0, 0, 9, 8, 7, 6, 5, 4, 3, 2, 1])).reports.getLast? =
    some ⟨6, [9, 8, 7, 6, 5, 4, 3, 2], false, true⟩ := by decide
/-- The part of that case: line 1 ACTIVE with FORCE_OPEN of section 11 in band 2. -/
def gating : State :=
  let s := mapped.setGrp 4 group4
  s.setLine 1 { lineRec true .active with actions := (Table.fill 3 .empty).set 0 (.forceOpen 4 4 2048) }
/-- The reports of two more candidates, at the thresholds themselves: section 4 at 90, section 5 at 70. -/
def edgeRanked : Gather := { ranked with reports := [bandReport 4 90, bandReport 5 70] }
theorem witness_GatesFollowTheTable : (gating.grp ranked.group).bands.get 2 = ⟨90, 70, 3, 2⟩ ∧
    ((gating.grp ranked.group).gates.get 2).hold = ((Table.fill 24 0).set 5 1).set 9 1 ∧
    gating.isCandidate ranked.group 0 = false ∧ gating.isCandidate ranked.group 4 = true ∧ has ranked.contributors 4 = true ∧
    90 ≤ ranked.power 2 4 ∧ gating.isCandidate ranked.group 5 = true ∧ has ranked.contributors 5 = true ∧
    ranked.power 2 5 < 90 ∧ has ((gating.grp ranked.group).gates.get 2).isOpen 5 = true ∧ 70 ≤ ranked.power 2 5 ∧
    edgeRanked.power 2 4 = 90 ∧ edgeRanked.power 2 5 = 70 ∧
    gating.isCandidate ranked.group 10 = true ∧ has ranked.contributors 10 = false ∧
    gating.isCandidate ranked.group 8 = true ∧ has ranked.contributors 8 = true ∧ ranked.power 2 8 < 90 ∧
    has ((gating.grp ranked.group).gates.get 2).isOpen 8 = false := by decide
theorem witness_GatesFollowTheTable_forced : (gating.sec 11).state.eligible = true ∧ (gating.line 1).state = .active ∧
    (gating.line 1).actions.get 0 = .forceOpen ranked.group.val 4 2048 ∧ (4 : BandSet).getLsbD 2 = true ∧
    has (2048 : SecSet) 11 = true := by decide
/-- The masks and holds of the worked case: open 4 and 11, forced 11, denied 5 and 9. -/
theorem test_gate_masks : gating.gateMap ranked 2 = ⟨2064, 2048, 544⟩ := by decide
theorem test_gate_holds : ([4, 5, 8, 9, 10, 11] : List (Fin 24)).map (fun k => (gating.gateAfter ranked 2).hold.get k) =
    [3, 3, 0, 0, 0, 0] := by decide

/-! ### Served reads -/

/-- The read of 2 words at 0x03200100 of a view of section 4 at position 150 that chapter 05's example takes. -/
def viewTxn (n : Nat) : ReadTxn := ⟨⟨52429056, 2⟩, .view 1, 256, some ⟨4, 1, n, 0, [0, 1]⟩, true, .onPort⟩
/-- Memory with the words 0x00014E20 and 0x00010002 at 256. -/
def viewMem : Memory := [(256, 32), (257, 78), (258, 1), (260, 2), (262, 1)]
/-- A view read on the port, section 4's break-in record as given. -/
def serving (n : Nat) (b : BreakRec) : State :=
  { mapped with mem := viewMem, path := { mapped.path with txn := some (.read (viewTxn n)) } }.port .read |>.setBrk 4 b
theorem witness_ReadServedUnmixed : (serving 150 BreakRec.atReset).serves (viewTxn 150) ∧
    (serving 150 BreakRec.atReset).eventDue = false ∧
    ∀ v, (viewTxn 150).view = some v → ((serving 150 BreakRec.atReset).sight.brk v.sec).st = .clear :=
  ⟨⟨by decide, by decide, by decide⟩, by decide, by intro v h; cases h; decide⟩
/-- A read at the moment of the watchdog deadline, or of a free-run time, of a section that is DISABLED. -/
def servingAt (tm : Timing) (wd nf : Option Nat) : State :=
  let s := (serving 150 BreakRec.atReset).setSec 4 SectionRec.atReset
  { s with now := 6000, tracker := { s.tracker with timing := tm, watchdog := wd, nextFree := nf } }
theorem witness_ReadServedUnmixed_event : (servingAt .locked (some 6000) none).eventDue = true ∧
    (servingAt .freeRun none (some 6000)).eventDue = true ∧ (servingAt .locked (some 6001) none).eventDue = false ∧
    (servingAt .locked (some 6000) none).serves (viewTxn 150) ∧
    ∀ v, (viewTxn 150).view = some v → ((servingAt .locked (some 6000) none).sec v.sec).state = .disabled :=
  ⟨by decide, by decide, by decide, ⟨by decide, by decide, by decide⟩, by intro v h; cases h; decide⟩
theorem test_read_unmixed : (ran (.readServed false) (serving 150 BreakRec.atReset)).path.response =
    some (.data [85536, 65538]) := by decide
theorem test_read_error : (ran (.readServed true) (serving 150 BreakRec.atReset)).path.response = some .error ∧
    (ran (.readServed true) (serving 150 BreakRec.atReset)).report.queue.map (fun r => (r.kind, r.subject, r.d1.toNat)) =
      [(.memoryError, 1, 256)] := by decide

/-- A section that is SETTLING under channel 2 at gain 20480. -/
def settling : BreakRec := ⟨some 2, none, 20480, .settling, 0⟩
theorem witness_GainOnlyRead : (serving 150 settling).serves (viewTxn 150) ∧
    (viewTxn 150).view = some ⟨4, 1, 150, 0, [0, 1]⟩ ∧ (viewTxn 150).mixed = true ∧
    (serving 150 settling).plan.partState = .running ∧ ((serving 150 settling).sec 4).state ≠ .disabled ∧
    (serving 150 settling).sight.brk 4 = settling ∧ settling.st = .settling ∧ settling.gain ≤ 32768 :=
  ⟨⟨by decide, by decide, by decide⟩, by decide, by decide, by decide, by decide, by decide, by decide, by decide⟩
/-- 20000 at gain 20480 is 12500 (chapter 05's figures); the halves 1 and 1 become 1, 2 becomes 1. -/
theorem test_gain_only : (ran (.readServed false) (serving 150 settling)).path.response = some (.data [78036, 65537]) := by decide

/-- Channel 2 of chapter 05's example: i = 40, start position 106, slots 32 to 45 READY, 46 FETCHING. The ring length of
`mapped` is 100 there and 512 here. -/
def chan2 : Chan :=
  { Chan.atReset with
    st := .playing, i := 40, startPos := Table.fill 6 106, use := ⟨4, 24576, .silence⟩
    window := Table.ofFn fun j =>
      if j.val < 14 then ⟨some (32 + j.val), .ready, some 0, 3, [zeros 64, zeros 64, zeros 64], []⟩
      else if j.val = 14 then ⟨some 46, .fetching, some 0, 1, [], []⟩ else ⟨some (32 + j.val), .empty, none, 0, [], []⟩ }
/-- A read at ring position `n` of that example, the miss state ARMED or not. -/
def announcingFor (n : Nat) (ch : Chan) (armed : Bool) : State :=
  let s := (serving n ⟨some 2, none, 8192, .announcing, 0⟩).setChan 2 ch
  { s with tracker := { s.tracker with progs := s.tracker.progs.set 1 ⟨true, 0, 512, 0, 0, 0⟩ } }.setArmed 2 armed
def announcing (n : Nat) : State := announcingFor n chan2 true
/-- What every clause of AnnouncedRead asks of a read at ring position `n`. -/
def announcedReadAsks (n : Nat) (u : Int) : Prop :=
  (announcing n).serves (viewTxn n) ∧ (viewTxn n).view = some ⟨4, 1, n, 0, [0, 1]⟩ ∧ (viewTxn n).mixed = true ∧
  (announcing n).plan.partState = .running ∧ ((announcing n).sec 4).state ≠ .disabled ∧
  (announcing n).sight.brk 4 = ⟨some 2, none, 8192, .announcing, 0⟩ ∧ (announcing n).sight.chan 2 = chan2 ∧
  (announcing n).sight.armed 2 = true ∧ (announcing n).eventDue = false ∧
  u = annIndexOf n (chan2.startPos.get 1) ((announcing n).prog 1).ringLen chan2.i ∧
  ([0, 1] : List Nat).length = (viewTxn n).burst.len

theorem witness_AnnouncedRead_below : announcedReadAsks 100 (-6) :=
  ⟨⟨by decide, by decide, by decide⟩, by decide, by decide, by decide, by decide, by decide, by decide, by decide, by decide,
    by decide, by decide⟩
theorem witness_AnnouncedRead_ready : announcedReadAsks 150 44 ∧ (chan2.window.get 12).st = .ready :=
  ⟨⟨⟨by decide, by decide, by decide⟩, by decide, by decide, by decide, by decide, by decide, by decide, by decide, by decide,
    by decide, by decide⟩, by decide⟩
theorem witness_AnnouncedRead_late : announcedReadAsks 131 25 ∧ (25 : Int) < chan2.i - 8 :=
  ⟨⟨⟨by decide, by decide, by decide⟩, by decide, by decide, by decide, by decide, by decide, by decide, by decide, by decide,
    by decide, by decide⟩, by decide⟩
theorem witness_AnnouncedRead_unready : announcedReadAsks 152 46 ∧ (chan2.window.get 14).st = .fetching :=
  ⟨⟨⟨by decide, by decide, by decide⟩, by decide, by decide, by decide, by decide, by decide, by decide, by decide, by decide,
    by decide, by decide⟩, by decide⟩
theorem test_underrun : ((ran (.readServed false) (announcing 152)).chan 2).underruns = 1 ∧
    (ran (.readServed false) (announcing 152)).armed 2 = false ∧
    (ran (.readServed false) (announcing 152)).report.queue.map (fun r => (r.kind, r.subject, r.d1.toNat, r.d2.toNat)) =
      [(.underrun, 2, 302252038, 40)] := by decide
theorem test_late : ((ran (.readServed false) (announcing 131)).chan 2).lateReads = 1 := by decide
/-- A second miss in a row is counted and not logged, and the PASS policy leaves the programme. -/
theorem test_second_miss_passed :
    let t := ran (.readServed false) (announcingFor 152 { chan2 with use := ⟨4, 24576, .pass⟩ } false)
    (t.chan 2).underruns = 1 ∧ t.report.queue = [] ∧ t.path.response = some (.data [85536, 65538]) := by decide

/-! ### Joins, and block time at the sections and the channels -/

/-- `mapped` with channels 0, 2 and 3 live at the priorities 3, 6 and 5 and a section for each case of a join at priority 5:
none active (0), a lower active alone (1) or over another (2), a higher active alone (3) or over a lower (4), an equal active (5), a
higher active over an equal one (6), DISABLED (7). -/
def joinable : State :=
  let live (p : Nat) : Chan := { Chan.atReset with st := .playing, prio := p }
  let s := ((mapped.setChan 0 (live 3)).setChan 2 (live 6)).setChan 3 (live 5)
  let recs : List (Fin 24 × Option (Fin 4) × Option (Fin 4)) :=
    [(1, some 0, none), (2, some 0, some 3), (3, some 2, none), (4, some 2, some 0), (5, some 3, none), (6, some 2, some 3)]
  (recs.foldl (fun t x => t.setBrk x.1 ⟨x.2.1, x.2.2, 20000, .announcing, 0⟩) s).setSec 7 SectionRec.atReset
theorem witness_JoinTakesSections : (∀ k : Fin 24, k < 8 → has (255 : SecSet) k = true) ∧ has (255 : SecSet) 8 = false ∧
    (joinable.sec 7).state = .disabled ∧ (joinable.brk 0).active = none ∧
    (∀ k : Fin 24, k = 1 ∨ k = 2 → (joinable.brk k).active = some 0 ∧ (joinable.chan 0).prio < 5) ∧
    (∀ k : Fin 24, k = 3 ∨ k = 4 → (joinable.brk k).active = some 2 ∧ 5 < (joinable.chan 2).prio) ∧
    (joinable.brk 4).suspended = some 0 ∧ (joinable.brk 5).active = some 3 ∧ 5 = (joinable.chan 3).prio ∧
    (joinable.brk 6).active = some 2 ∧ (joinable.brk 6).suspended = some 3 ∧ joinable.inForce = true := by decide
theorem test_join : ([0, 1, 2, 3, 4, 5, 6] : List (Fin 24)).map (fun k =>
      (((joinable.join 1 255 5).brk k).active, ((joinable.join 1 255 5).brk k).suspended)) =
    [(some 1, none), (some 1, some 0), (some 1, some 0), (some 2, some 1), (some 2, some 1), (some 3, none), (some 2, some 3)] ∧
    (joinable.join 1 255 5).report.queue.map (fun r => (r.kind, r.subject)) =
      [(.sectionDropped, 2), (.sectionDropped, 4), (.sectionRefused, 5), (.sectionRefused, 6)] := by decide

/-- `mapped` with channel 2 at duck gain 8192 and ramp 4, and section 4's break-in record as given. -/
def ramping (b : BreakRec) : State :=
  (mapped.setChan 2 { Chan.atReset with defaults := ⟨8192, 24576, 4, .silence⟩, use := ⟨4, 24576, .silence⟩ }).setBrk 4 b

/-- With no channel live, no use ends at an event. -/
theorem witness_BlockTimeStepsSections_none (c : Fin 4) :
    ((ramping BreakRec.atReset).blockTime.chan c).useNo = ((ramping BreakRec.atReset).chan c).useNo := by
  rw [State.chan, State.blockTime_idle _ (by decide)]
  rfl
/-- Channel 3 alone live, at the last play index. -/
def finishing : State :=
  mapped.setChan 3 { Chan.atReset with st := .playing, owner := some .host, prio := 4, i := 2147483647, useNo := 1 }
theorem witness_BlockTimeStepsSections_ends : (finishing.chan 3).noStarts ∧
    (finishing.blockTime.chan 3).useNo ≠ (finishing.chan 3).useNo ∧
    ∀ d, d ≠ 3 → (finishing.blockTime.chan d).useNo = (finishing.chan d).useNo := by
  have hn : (finishing.chan 3).noStarts := ⟨by decide, by decide⟩
  have h := finishing.blockTime_last (by decide) (by decide) (by decide) hn
  exact ⟨hn, by rw [h.1]; omega, fun d hd => by rw [h.2 d hd]⟩
theorem witness_BlockTimeStepsSections_announcing :
    ((ramping ⟨some 2, none, 9000, .announcing, 0⟩).brk 4).st = .announcing ∧
    ((ramping ⟨some 2, none, 9000, .announcing, 0⟩).brk 4).active = some 2 := by decide
theorem witness_BlockTimeStepsSections_restoring : ((ramping ⟨none, none, 26624, .restoring, 6144⟩).brk 4).st = .restoring := by
  decide
theorem witness_BlockTimeStepsSections_clear : ((ramping BreakRec.atReset).brk 4).st = .clear := by decide
theorem witness_BlockTimeStepsSections_ramp : 32768 ≤ 32768 ∧ 1 ≤ 1 := by decide
theorem witness_BlockTimeStepsSections_settling : ((ramping ⟨some 2, none, 32768, .settling, 0⟩).brk 4).st = .settling ∧
    ((ramping ⟨some 2, none, 32768, .settling, 0⟩).brk 4).active = some 2 ∧
    8192 = ((ramping ⟨some 2, none, 32768, .settling, 0⟩).chan 2).defaults.duck ∧ 8192 ≤ 32768 ∧
    1 ≤ ((ramping ⟨some 2, none, 32768, .settling, 0⟩).chan 2).use.ramp := by decide
theorem test_settling_step : ((stepSection (ramping ⟨some 2, none, 32768, .settling, 0⟩) 4).brk 4).gain = 26624 ∧
    (stepSection (ramping ⟨some 2, none, 14336, .settling, 0⟩) 4).brk 4 = ⟨some 2, none, 8192, .announcing, 0⟩ := by decide
theorem test_restoring_step : (stepSection (ramping ⟨none, none, 26624, .restoring, 6144⟩) 4).brk 4 =
    ⟨none, none, 32768, .clear, 6144⟩ := by decide

theorem witness_BlockTimeAdvancesChannels_idle : (mapped.chan 0).waiting = none ∧ (mapped.chan 0).noStarts ∧
    (mapped.chan 0).st.live = false := ⟨by decide, ⟨by decide, by decide⟩, by decide⟩
theorem witness_BlockTimeAdvancesChannels_last : (finishing.chan 3).st.live = true ∧ 2147483647 ≤ (finishing.chan 3).i ∧
    (finishing.chan 3).noStarts := ⟨by decide, by decide, ⟨by decide, by decide⟩⟩
/-- Channel 1 in a state at index `i` with a MARK and a HOLD attached to it, its walk not running. -/
def passing (st : ChanState) (i : Int) (e : Option Int) : State :=
  mapped.setChan 1 { Chan.atReset with
    st := st, owner := some .host, prio := 4, i := i, endIdx := e
    window := Table.ofFn fun j =>
      if j = slotNo i then ⟨some i, .ready, some 6295552, 3, [], if st = .playing then [.mark 7 1, .hold] else []⟩
      else Slot.unassigned }
theorem witness_BlockTimeAdvancesChannels_passing : ((passing .playing 5 none).chan 1).st.live = true ∧
    ((passing .playing 5 none).chan 1).i < 2147483647 ∧
    (((passing .playing 5 none).chan 1).slot 5).marks = [.mark 7 1, .hold] ∧
    ((passing .playing 5 none).chan 1).endIdx ≠ some (5 + 1) ∧ ((passing .playing 2147483646 none).chan 1).i < 2147483647 ∧
    ((passing .playing 5 (some 6)).chan 1).endIdx = some (5 + 1) ∧ ((passing .playing 5 (some 6)).chan 1).noStarts ∧
    ((passing .priming (-1) none).chan 1).st = .priming ∧ ((passing .priming (-1) none).chan 1).i + 1 = 0 :=
  ⟨by decide, by decide, by decide, by decide, by decide, by decide, ⟨by decide, by decide⟩, by decide, by decide⟩
/-- The MARK is logged, then the HOLD; the slot of index -3 takes index 29. -/
theorem test_markers_passed : ((advanceChan (passing .playing 5 none) 1).chan 1).st = .held ∧
    ((advanceChan (passing .playing 5 none) 1).chan 1).marksPassed = 1 ∧
    (((advanceChan (passing .playing 5 none) 1).chan 1).window.get 29).idx = some 29 ∧
    (advanceChan (passing .playing 5 none) 1).report.queue.map (fun r => (r.kind, r.d1.toNat, r.d2.toNat)) =
      [(.markPassed, 65543, 6), (.channelState, 1174668034, 6)] := by decide +kernel
theorem test_end_index_and_index_zero : ((advanceChan (passing .playing 5 (some 6)) 1).chan 1).st = .idle ∧
    ((advanceChan (passing .priming (-1) none) 1).chan 1).st = .playing := by decide +kernel

/-! ### The timebase -/

/-- `nearly` with section 1 about to be lost at 50 ms. -/
def losing : State := { nearly with now := 50000 }
theorem witness_LossTimerExpiry : losing.inReset = false ∧ (losing.sec 1).deadline = some 50000 ∧ 50000 ≤ losing.now ∧
    PoolInv losing := ⟨by decide, by decide, by decide, by decide, by decide, by intro a h; cases h⟩
theorem test_loss_completes_gather : ((ran (.lossTimerExpiry 1) losing).sec 1).state = .lost ∧
    (ran (.lossTimerExpiry 1) losing).gather.results.map Gather.status = [some .complete] := by decide
theorem test_loss_not_reached : ((ran (.lossTimerExpiry 1) { nearly with now := 49999 }).sec 1).state = .online := by decide

theorem witness_FreeRunTiming_watchdog : ({ reference .locked (some 6000) none with now := 6000 } : State).inReset = false ∧
    (reference .locked (some 6000) none).tracker.timing = .locked ∧
    (reference .locked (some 6000) none).tracker.watchdog = some 6000 ∧
    6000 ≤ ({ reference .locked (some 6000) none with now := 6000 } : State).now ∧
    (reference .locked (some 6000) none).tracker.reference = some 2 := by decide
theorem witness_FreeRunTiming_free_run : ({ reference .freeRun none (some 7000) with now := 7000 } : State).inReset = false ∧
    (reference .freeRun none (some 7000)).tracker.timing = .freeRun ∧
    (reference .freeRun none (some 7000)).tracker.nextFree = some 7000 ∧
    7000 ≤ ({ reference .freeRun none (some 7000) with now := 7000 } : State).now := by decide
/-- Chapter 03's example: lost at 6000, the next free-run time is 7000, then 8000. -/
theorem test_reference_lost : (State.loseReference { reference .locked (some 6000) none with now := 6000 }).tracker.nextFree =
    some 7000 := by rfl
theorem test_free_run_time : (reference .freeRun none (some 7000)).freeRunEvent.tracker.nextFree = some 8000 := by
  have h := (State.blockTime_frame (s := reference .freeRun none (some 7000))).same .timing rfl
  simp only [State.freeRunEvent, h.2.2.2.1]
  decide

/-! ### Playout -/

/-- A start at 6291456, in the CLIP region of `mapped`, for section 3. -/
def aStart (reply : Bool) : Start := ⟨.host, 6291456, 8, 4, 1, reply⟩
/-- A change with a kind and its arguments, handed over. -/
def handedOver (kind : Nat) (a1 a2 a3 : Word) : Change := ⟨kind, BitVec.ofNat 32 kind, a1, a2, a3, .handover⟩
/-- A START that waits on channel 1 under a RAISING fence. -/
def waitingStart : State :=
  ({ mapped with
      path := { mapped.path with fence := .raising }
      playout := { mapped.playout with waitOrder := [1] } }.setChan 1 { Chan.atReset with waiting := some (aStart true) }).changing
    { handedOver 3 1025 6291456 8 with stage := .startWait }
theorem witness_FenceUpBeginsWaiting : waitingStart.inReset = false ∧ waitingStart.path.fence = .raising ∧
    (∀ e ∈ waitingStart.path.queue, e.kind ≠ .clip) ∧ 1 ∈ waitingStart.playout.waitOrder ∧
    (waitingStart.chan 1).waiting = some (aStart true) ∧ waitingStart.plan.change.isSome = true ∧
    0 ∉ waitingStart.playout.waitOrder := by decide
theorem witness_FenceUpBeginsWaiting_alone : waitingStart.playout.waitOrder = [1] ∧ waitingStart.unjoined 1 :=
  ⟨by decide, by unfold State.unjoined; decide⟩
theorem test_fence_up_begins : ((ran .clipFenceUp waitingStart).chan 1).st = .priming ∧
    ((ran .clipFenceUp waitingStart).chan 1).i = -3 ∧ (ran .clipFenceUp waitingStart).stage = some .writingBack := by decide

/-- Channel 1 PRIMING in its first use with index 0 FETCHING, two lines read. -/
def priming : Chan :=
  { Chan.atReset with
    st := .priming, i := -3, listAddr := 6291456, useNo := 1, walk := ⟨0, 0, 0, .running, false⟩
    window := (Table.fill 32 Slot.unassigned).set 0 ⟨some 0, .fetching, some 6295552, 3, [zeros 64, zeros 64], []⟩ }
/-- A clip burst of channel 1 on the port; the list's first entry is a CLIP of 2 blocks at 0x00601000. -/
def clipOn (use : Nat) (what : ClipWhat) (a : Nat) : State :=
  { (mapped.setChan 1 priming) with
    path := { mapped.path with fence := .up }
    mem := [(6291456, 1), (6291458, 2), (6291461, 16), (6291462, 96)] }.port (.clip ⟨1, use, what, a⟩)
theorem witness_ClipLinesComplete_block : (clipOn 1 (.block 0 2) 6295680).inReset = false ∧
    (clipOn 1 (.block 0 2) 6295680).arb.port = some (.clip ⟨1, 1, .block 0 2, 6295680⟩) ∧
    ((clipOn 1 (.block 0 2) 6295680).chan 1).st.live = true ∧ ((clipOn 1 (.block 0 2) 6295680).chan 1).useNo = 1 ∧
    (((clipOn 1 (.block 0 2) 6295680).chan 1).slot 0).idx = some 0 ∧
    (((clipOn 1 (.block 0 2) 6295680).chan 1).slot 0).st = .fetching ∧
    (((clipOn 1 (.block 0 2) 6295680).chan 1).slot 0).lines.length = 2 := by decide
theorem witness_ClipLinesComplete_over : (clipOn 0 (.block 0 2) 6295680).arb.port = some (.clip ⟨1, 0, .block 0 2, 6295680⟩) ∧
    ((clipOn 0 (.block 0 2) 6295680).chan 1).useNo ≠ 0 := by decide
theorem witness_ClipLinesComplete_list : (clipOn 1 (.list 0) 6291456).inReset = false ∧
    (clipOn 1 (.list 0) 6291456).arb.port = some (.clip ⟨1, 1, .list 0, 6291456⟩) ∧
    ((clipOn 1 (.list 0) 6291456).chan 1).st.live = true ∧ ((clipOn 1 (.list 0) 6291456).chan 1).useNo = 1 := by decide
theorem test_third_line_ready : (((ran (.clipBlockLineComplete false) (clipOn 1 (.block 0 2) 6295680)).chan 1).slot 0).st = .ready ∧
    (((ran (.clipBlockLineComplete true) (clipOn 1 (.block 0 2) 6295680)).chan 1).slot 0).st = .bad := by decide
/-- The walk assigns the CLIP's two blocks to the indices 0 and 1 and meets entry 1, which is no entry: a list error. -/
theorem test_bad_entry_ends_use : ((ran (.listLineReadComplete false) (clipOn 1 (.list 0) 6291456)).chan 1).st = .idle ∧
    (ran (.listLineReadComplete false) (clipOn 1 (.list 0) 6291456)).report.queue.map (fun r => (r.kind, r.subject)) =
      [(.listError, 1), (.channelState, 1)] := by decide +kernel

/-- Behind a block line on the port the list line that the walk awaits is presented (R64); behind a list line on the port no other
is (R60), but another channel's is (R35, R65). -/
theorem test_clip_list_line_offered :
    (clipOn 1 (.block 0 2) 6295680).presentClip.arb.clip.map ClipFetch.what = some (ClipWhat.list 0) ∧
    (clipOn 1 (.list 1) 6291520).presentClip.arb.clip = none ∧
    (((clipOn 1 (.list 1) 6291520).setChan 3 { priming with listAddr := 6292480 }).presentClip.arb.clip.map
      fun f => (f.ch, f.addr)) = some (3, 6292480) := by decide

/-- A list line with a CLIP of 2 blocks at 0x00601000, a MARK with tag 7, a HOLD and an END. -/
def listLine : List Byte := [1, 0, 2, 0, 0, 16, 96, 0] ++ zeros 8 ++ [2, 0, 7] ++ zeros 13 ++ [3] ++ zeros 15 ++ [4] ++ zeros 15
/-- A list line with a CLIP of no blocks, one outside every region, one of one block in the last line of its region, and no
entry. -/
def edgeLine : List Byte := [1] ++ zeros 15 ++ [1, 0, 1] ++ zeros 13 ++ [1, 0, 1, 0, 192, 255, 96, 0] ++ zeros 24
/-- Channel 1 PLAYING at index 5 with the indices -3 to 28 EMPTY in its window, its walk, list address, repeats and list line as
given. -/
def walking (w : Walk) (la rep : Nat) (line : Option (List Byte)) : State :=
  let l : Option ListLine := some ⟨w.entry / 4, line⟩
  mapped.setChan 1 { Chan.atReset with
    st := .playing, owner := some .host, prio := 4, listAddr := la, repeats := rep, i := 5, walk := w, headLine := l, curLine := l
    window := Table.ofFn fun j => ⟨some (if j.val ≤ 28 then (j.val : Int) else j.val - 32), .empty, none, 0, [], []⟩ }
/-- What ListWalk asks of a walk that takes an entry. -/
def walkAsks (w : Walk) (la rep : Nat) (line : Option (List Byte)) : Prop :=
  let ch := (walking w la rep line).chan 1
  ch.st.live = true ∧ ch.walk.st = .running ∧ ch.walk.next ≤ ch.i + 23 ∧ ch.walk.entry < 256 ∧
  (walking w la rep line).listLineInside ch.listAddr (ch.walk.entry / 4) = true ∧
  ch.bufLine (ch.walk.entry / 4) = some ⟨ch.walk.entry / 4, line⟩

theorem witness_ListWalk_still : (mapped.chan 1).st.live = false ∧
    ((walking ⟨0, 0, 29, .running, true⟩ 6291456 0 none).chan 1).i + 23 < 29 ∧ (mapped.chan 1).noStarts :=
  ⟨by decide, by decide, by decide, by decide⟩
theorem witness_ListWalk_entries : (∀ w ∈ ([⟨0, 0, 6, .running, true⟩, ⟨0, 1, 6, .running, true⟩, ⟨1, 0, 6, .running, true⟩,
      ⟨1, 0, 5, .running, true⟩, ⟨2, 0, 6, .running, true⟩, ⟨2, 0, 5, .running, true⟩, ⟨3, 0, 6, .running, true⟩,
      ⟨2, 0, 3, .running, true⟩, ⟨3, 0, 6, .running, false⟩, ⟨3, 0, 5, .running, false⟩] : List Walk), ∀ rep ∈ [0, 1, 15], walkAsks w 6291456 rep (some listLine)) ∧
    ((List.range 4).map fun e => parseListEntry (listLine.drop (16 * e))) = [.clip 6295552 2, .mark 7, .hold, .finish] ∧
    6295552 % 64 = 0 ∧ mapped.path.clipRegion 6295552 = some ⟨.clip, 6291456, 65536⟩ ∧ 6295552 + 192 * 2 ≤ 6291456 + 65536 ∧
    0 + 1 < 2 ∧ 2 ≤ 1 + 1 := by unfold walkAsks; decide
theorem witness_ListWalk_errors : (∀ e ∈ List.range 4, walkAsks ⟨e, 0, 6, .running, true⟩ 6291456 0 (some edgeLine)) ∧
    ((List.range 4).map fun e => parseListEntry (edgeLine.drop (16 * e))) = [.clip 0 0, .clip 0 1, .clip 6356928 1, .bad] ∧
    mapped.path.clipRegion 0 = none ∧ mapped.path.clipRegion 6356928 = some ⟨.clip, 6291456, 65536⟩ ∧
    6291456 + 65536 < 6356928 + 192 * 1 ∧ walkAsks ⟨0, 0, 6, .running, true⟩ 6291456 0 none ∧
    (walking ⟨4, 0, 6, .running, true⟩ 6356928 0 none).listLineInside 6356928 (4 / 4) = false ∧
    (mapped.setChan 1 { Chan.atReset with listAddr := 6291456 }).listLineInside 6291456 0 = true ∧ Chan.atReset.bufLine 0 = none ∧
    256 ≤ ((walking ⟨256, 0, 6, .running, true⟩ 6291456 0 none).chan 1).walk.entry := by unfold walkAsks; decide
/-- The walk assigns the CLIP's blocks to 6 and 7, attaches MARK and HOLD to 7 and stops; the next slots are SILENT. -/
theorem test_walk_to_hold :
    let ch := ((walking ⟨0, 0, 6, .running, false⟩ 6291456 0 (some listLine)).walk 1).chan 1
    (ch.walk = ⟨3, 0, 8, .stopped, true⟩) ∧ (ch.slot 6).src = some 6295552 ∧ (ch.slot 7).src = some 6295744 ∧
    (ch.slot 7).marks = [.mark 7 1, .hold] ∧ (ch.slot 8).st = .silent := by decide +kernel
/-- A HOLD met late holds the channel; the indices 3 and 4 that play has passed stay EMPTY, so that their reads are misses (R97). -/
theorem test_late_hold :
    let ch := ((walking ⟨2, 0, 3, .running, true⟩ 6291456 0 (some listLine)).walk 1).chan 1
    ch.st = .held ∧ ([3, 4, 5, 6].map fun x => (ch.slot x).st) = [.empty, .empty, .silent, .silent] := by decide +kernel
/-- END with a repeat left walks the list again; the last one ends the use at the index it meets. -/
theorem test_walk_end :
    let again := ((walking ⟨3, 0, 6, .running, true⟩ 6291456 1 (some listLine)).walk 1).chan 1
    let last := ((walking ⟨3, 0, 6, .running, true⟩ 6291456 0 (some listLine)).walk 1).chan 1
    again.repeats = 0 ∧ again.walk.next = 8 ∧ last.endIdx = some 6 ∧ last.walk.st = .finished ∧
    (((walking ⟨3, 0, 5, .running, false⟩ 6291456 1 (some listLine)).walk 1).chan 1).st = .idle := by decide +kernel
/-- Each move into line k requests line k + 1, one that is in the buffer too (R60). -/
theorem test_line_requested_again :
    let s := walking ⟨3, 0, 6, .running, true⟩ 6291456 0 none
    ((s.setChan 1 { s.chan 1 with nextLine := some ⟨2, none⟩ }).nextEntry 1 |>.chan 1).requested = [2] ∧
    ((s.setChan 1 { s.chan 1 with requested := [2] }).nextEntry 1 |>.chan 1).requested = [2] := by decide

/-! ### The part's own writes -/

theorem witness_PartWritesComplete_mirror : (run0.port (.mirror 2097152 (zeros 64))).inReset = false ∧
    Memory.wf run0.mem = true ∧ (run0.port (.mirror 2097152 (zeros 64))).arb.port = some (.mirror 2097152 (zeros 64)) ∧
    run0.inForce = true ∧ run0.plan.memErrors < 65535 := by decide
theorem witness_PartWritesComplete_field : (run0.port (.plan (.stateField .running))).arb.port = some (.plan (.stateField .running)) ∧
    1048656 = (run0.port (.plan (.stateField .running))).anchorAddr + 80 ∧ 2 = PartState.code .running := by decide
theorem witness_PartWritesComplete_header : (run0.port (.logHeader 3 0)).arb.port = some (.logHeader 3 0) := by decide
theorem witness_PartWritesComplete_writeBack :
    ((run0.port (.plan (.writeBack 256))).changing loading).arb.port = some (.plan (.writeBack 256)) := by decide
theorem test_mirror_write_in_memory : (ran (.mirrorWriteComplete false) (run0.port (.mirror 2097152 (7 :: zeros 63)))).mem =
    [(2097152, 7)] := by decide
theorem test_mirror_error_counted : (ran (.mirrorWriteComplete true) (run0.port (.mirror 2097152 (zeros 64)))).plan.memErrors = 1 := by
  decide
theorem test_state_field_written : (ran (.headerFieldWriteComplete false) (run0.port (.plan (.stateField .running)))).mem =
    [(1048656, 2)] := by decide
theorem test_header_known : (ran (.headerBurstComplete false) (run0.port (.logHeader 0 0))).report.header = some (0, 0) ∧
    (ran (.headerBurstComplete true) (run0.port (.logHeader 0 0))).report.header = none := by decide
theorem test_write_back_ends_change : (ran (.writeBackComplete false) ((run0.port (.plan (.writeBack 256))).changing loading)).plan.change = none ∧
    (ran (.writeBackComplete false) ((run0.port (.plan (.writeBack 256))).changing loading)).mem = [(1048577, 1)] := by decide

/-- A record burst on the port, the producer at the ring's last slot, attention asked for PLAN. -/
def recording : State :=
  { run0 with report := { run0.report with
    producer := 63, consumer := 9, attnMask := 32, queue := [⟨.planLoaded, 2, 7, 1, 0⟩], req := .onPort } }.port .logRecord
theorem witness_LogRecordWritten : recording.inReset = false ∧ recording.arb.port = some .logRecord ∧
    recording.report.queue = [⟨.planLoaded, 2, 7, 1, 0⟩] ∧ Memory.wf recording.mem = true ∧
    recording.report.tags.Pairwise (fun x y => x.1 < y.1) := by decide
theorem test_record_written : (ran (.logRecordWriteComplete false) recording).report.producer = 0 ∧
    (ran (.logRecordWriteComplete false) recording).report.attn = true ∧
    (ran (.logRecordWriteComplete false) recording).mem = [(3146736, 18), (3146738, 2), (3146740, 7), (3146744, 1)] := by decide
theorem test_record_lost : (ran (.logRecordWriteComplete true) recording).report.producer = 63 ∧
    (ran (.logRecordWriteComplete true) recording).report.lost = 1 := by decide

/-! ### The change protocol -/

/-- A change record read on the port, the record's words 1 to 3 in memory (1, 2 and 3, each in its lowest byte). -/
def argsRead (kind : Nat) (ps : PartState) : State :=
  { mapped with
    plan := { mapped.plan with partState := ps, descr := some (parseHeader (zeros 128)) }
    mem := [(1048580, 1), (1048584, 2), (1048588, 3)] }.port (.plan .argRead) |>.changing
      ⟨kind, BitVec.ofNat 32 kind, 0, 0, 0, .arguments⟩
theorem witness_ArgumentsDecideChange : (argsRead 3 .running).inReset = false ∧
    (argsRead 3 .running).arb.port = some (.plan .argRead) ∧
    (argsRead 3 .running).plan.change = some ⟨3, 3, 0, 0, 0, .arguments⟩ ∧ (argsRead 3 .running).inForce = true ∧
    (argsRead 3 .running).plan.partState = .running := by decide
theorem witness_ArgumentsDecideChange_bad_kind : (argsRead 9 .halted).inForce = true ∧ 8 < 9 := by decide
theorem witness_ArgumentsDecideChange_anchored : (argsRead 2 .anchored).plan.partState = .anchored ∧ 2 ≤ 8 ∧ 2 ≠ 1 := by decide
theorem witness_ArgumentsDecideChange_resume : (argsRead 8 .running).plan.partState = .running := by decide
theorem witness_ArgumentsDecideChange_halted : (argsRead 7 .halted).plan.partState = .halted ∧ (argsRead 7 .halted).inForce = true := by
  decide
theorem witness_ArgumentsDecideChange_update : (argsRead 2 .running).plan.partState = .running ∧
    updateTable (1 % 256) = some 3 ∧ (0 : Nat) < updateCount 3 ∧ updateCount 3 ≤ 24 ∧ updateTable 5 = none := by decide
/-- An UPDATE of section 0 (table byte 1, index 0) has its entry's read granted at once. -/
theorem test_update_reads_entry : (ran (.argumentReadComplete false) (argsRead 2 .running)).arb.port = some (.plan (.entryLine 0)) := by
  decide
/-- A kind that HALTED does not take is answered REFUSED_STATE: result word 0x00000600. -/
theorem test_refused_state : (ran (.argumentReadComplete false) (argsRead 7 .halted)).arb.port = some (.plan (.writeBack 1536)) ∧
    (ran (.argumentReadComplete false) (argsRead 7 .halted)).report.queue = [] := by decide

/-- `mapped` with a change handed over. -/
def handing (c : Change) : State := mapped.changing c
theorem witness_LoadReadsPlan : (handing (handedOver 1 0 0 0)).carriesOut 1 := ⟨by decide, _, rfl, by decide, by decide⟩
theorem test_reload_reads_header : (ran .reload (handing (handedOver 1 0 0 0))).arb.port = some (.plan (.loadLine 0)) := by decide

/-- A plan header: area of 3072 bytes, the region table at 128, the other tables after it, the reference byte and log ring as
given, mirror at 2 MiB and log at 3 MiB. -/
def headerBytes (ref logLen : Nat) : List Byte :=
  zeros 16 ++ le 4 3072 ++ le 4 128 ++ le 4 768 ++ le 4 864 ++ le 4 1056 ++ le 4 2592 ++ le 4 2656 ++ le 1 ref ++ zeros 3
    ++ le 4 2097152 ++ le 4 3145728 ++ le 4 logLen ++ zeros 4
/-- The header's lines as read. -/
def headerGot (ref logLen : Nat) : List (StagedLine × List Byte) := [(⟨0, 0⟩, headerBytes ref logLen), (⟨0, 64⟩, zeros 64)]
/-- A load with a line on the port. -/
def loadingLine (off : Nat) (st : Staged) : State :=
  let s := mapped.port (.plan (.loadLine off))
  { s with plan := { s.plan with staged := some st } }.changing loading
/-- `loadingLine` with zeros below the plan's header in memory, so that every table reads as zeros. -/
def lastLine (ref logLen : Nat) : State := loadingLine 2688 ⟨[⟨6, 2688⟩], headerGot ref logLen⟩

theorem witness_LoadReadsPlan_more : (loadingLine 0 ⟨headerLines, []⟩).inReset = false ∧
    (loadingLine 0 ⟨headerLines, []⟩).arb.port = some (.plan (.loadLine 0)) ∧
    (loadingLine 0 ⟨headerLines, []⟩).plan.staged = some ⟨[⟨0, 0⟩, ⟨0, 64⟩], []⟩ ∧
    (loadingLine 0 ⟨headerLines, []⟩).plan.change.isSome = true := by decide
/-- What LoadReadsPlan asks of a header for the area to hold the tables below M, with the anchor at 1 MiB and M 128 MiB. -/
def holdsTables (d : Descriptors) : Prop :=
  128 ≤ d.areaLen ∧ d.regionOff + 640 ≤ d.areaLen ∧ d.progOff + 96 ≤ d.areaLen ∧ d.secOff + 192 ≤ d.areaLen ∧
  d.groupOff + 1536 ≤ d.areaLen ∧ d.chanOff + 64 ≤ d.areaLen ∧ d.lineOff + 384 ≤ d.areaLen ∧
  1048576 + d.areaLen ≤ 134217728
theorem witness_LoadReadsPlan_header :
    (loadingLine 64 ⟨[⟨0, 64⟩], [(⟨0, 0⟩, headerBytes 255 64)]⟩).plan.staged = some ⟨[⟨0, 64⟩], [(⟨0, 0⟩, headerBytes 255 64)]⟩ ∧
    holdsTables (Staged.header ⟨[], headerGot 255 64⟩) ∧ Memory.bytes (loadingLine 64 ⟨[⟨0, 64⟩], [(⟨0, 0⟩, headerBytes 255 64)]⟩).mem 1048640 64 = zeros 64 := by
  unfold holdsTables; decide
theorem witness_LoadReadsPlan_plan_area :
    ¬holdsTables (Staged.header ⟨[], [(⟨0, 0⟩, zeros 64), (⟨0, 64⟩, zeros 64)]⟩) := by unfold holdsTables; decide
theorem test_plan_area_rejected : (ran (.planFetchComplete false) (loadingLine 64 ⟨[⟨0, 64⟩], [(⟨0, 0⟩, zeros 64)]⟩)).plan.lastError =
    .check .planArea 255 := by decide
theorem test_tables_follow_header :
    (ran (.planFetchComplete false) (loadingLine 64 ⟨[⟨0, 64⟩], [(⟨0, 0⟩, headerBytes 255 64)]⟩)).arb.port =
      some (.plan (.loadLine 128)) := by decide

theorem witness_LoadCheckedAndFlushed_rejected : (lastLine 3 64).inReset = false ∧
    (lastLine 3 64).arb.port = some (.plan (.loadLine 2688)) ∧ (lastLine 3 64).plan.staged = some ⟨[⟨6, 2688⟩], headerGot 3 64⟩ ∧
    (⟨6, 2688⟩ : StagedLine).part ≠ 0 ∧ (lastLine 3 64).plan.change.isSome = true ∧
    (lastLine 3 64).planChecks (Staged.tables ⟨[], headerGot 3 64 ++ [(⟨6, 2688⟩, zeros 64)]⟩) = some (.reference, 255) := by
  decide +kernel
theorem witness_LoadCheckedAndFlushed_passed :
    (lastLine 255 64).planChecks (Staged.tables ⟨[], headerGot 255 64 ++ [(⟨6, 2688⟩, zeros 64)]⟩) = none ∧
    Memory.bytes (lastLine 255 64).mem (1048576 + 2688) 64 = zeros 64 := by decide +kernel
theorem witness_LoadCheckedAndFlushed_groups : field [1, 1] 1 1 = 1 ∧ field [1, 2] 1 1 = 2 := by decide
theorem witness_LoadCheckedAndFlushed_quiesce : (handing (handedOver 7 0 0 0)).carriesOut 7 := ⟨by decide, _, rfl, by decide, by decide⟩
theorem test_log_length_rejected : (ran (.planFetchComplete false) (lastLine 255 63)).plan.lastError = .check .logLength 255 := by
  decide +kernel
theorem test_swap_begins : (ran (.planFetchComplete false) (lastLine 255 64)).gather.taking = false ∧
    ((ran (.planFetchComplete false) (lastLine 255 64)).stage.map Stage.code) = some 2 := by decide +kernel
theorem test_quiesce_flushes : (ran .quiesce { opened.changing (handedOver 7 0 0 0) with now := 9 }).gather.results.map Gather.status =
    [some .flushed] := by decide

/-- Channel 1 PLAYING for line 2 with section 3 under it, and a change in a stage. -/
def playing (stage : Stage) : State :=
  let ch := { priming with st := .playing, owner := some (.line 2), prio := 4, mask := 8, i := 5 }
  (({ mapped with path := { mapped.path with fence := .up } }.setChan 1 ch).setBrk 3 ⟨some 1, none, 20000, .settling, 0⟩).changing
    { handedOver 4 1 0 0 with stage := stage }
theorem witness_FlushedThenStopped_swap : (playing (.flushing 2)).inReset = false ∧ (playing (.flushing 2)).gather.results = [] ∧
    (playing (.flushing 2)).stage = some (.flushing 2) := by decide
theorem witness_FlushedThenStopped_quiesce : (playing .quiescing).gather.results = [] ∧
    (playing .quiescing).stage = some .quiescing := by decide
theorem test_swap_stops_channels : ((ran .swapChannelStop (playing (.flushing 2))).chan 1).st = .idle ∧
    (ran .swapChannelStop (playing (.flushing 2))).path.fence = .down := by decide
theorem test_quiesce_halts : (ran .quiesceStop (playing .quiescing)).plan.partState = .halted ∧
    ((ran .quiesceStop (playing .quiescing)).brk 3) = BreakRec.atReset := by decide

/-- A staged plan with a reference byte whose first region entry is PROGRAMME(0) at 0x02000000 of 64 blocks, and whose section
0 is enabled with a timeout of 50 ms. -/
def staged (ref : Nat) : Staged :=
  ⟨[], headerGot ref 64 ++ [(⟨1, 128⟩, [2, 0, 0, 0, 0, 0, 0, 2]), (⟨2, 768⟩, [64]), (⟨3, 832⟩, zeros 32 ++ [1, 0, 50])]⟩
/-- A swap whose queue has drained. -/
def drainedState (ref : Nat) : State :=
  let s := mapped.changing { loading with stage := .draining 1 }
  { s with plan := { s.plan with staged := some (staged ref) }, now := 1000 }
theorem witness_ActivationInstallsPlan : (drainedState 0).inReset = false ∧ (drainedState 0).stage = some (.draining 1) ∧
    (drainedState 0).plan.staged = some (staged 0) ∧ (drainedState 0).path.queue = [] ∧
    (drainedState 0).readInProgress = false ∧ (staged 0).tables.find 2 0 = some ⟨2, 0, 33554432, 0⟩ ∧
    (staged 0).tables.find 2 1 = none ∧ (staged 0).tables.d.reference = 0 := by decide +kernel
theorem witness_ActivationInstallsPlan_free_run : (drainedState 255).stage = some (.draining 1) ∧
    6 ≤ (staged 255).tables.d.reference := by decide +kernel
/-- A staged plan with group 0, its UPLINK and OUTPUT regions, and line 0. -/
def stagedGroup : Staged :=
  ⟨[], headerGot 255 64 ++ [(⟨1, 128⟩, [4, 0, 0, 0, 0, 0, 16, 2] ++ zeros 8 ++ [5, 0, 0, 0, 0, 0, 32, 2]), (⟨2, 768⟩, [64]),
    (⟨3, 832⟩, zeros 192), (⟨4, 1024⟩, zeros 32 ++ [1, 1, 16, 0]), (⟨5, 2560⟩, zeros 64), (⟨6, 2624⟩, zeros 32 ++ [1, 20])]⟩
theorem witness_ActivationInstallsPlan_group : (stagedGroup.tables.group 0).1.present = true ∧
    groupKindOf (stagedGroup.tables.group 0).1.kind = some .select ∧ stagedGroup.tables.find 4 0 = some ⟨4, 0, 34603008, 0⟩ ∧
    stagedGroup.tables.find 5 0 = some ⟨5, 0, 35651584, 0⟩ ∧ (stagedGroup.tables.group 1).1.present = false ∧
    (parseLine (entryOf 6 stagedGroup.tables.lines 0)).1.enabled = true ∧
    (mapped.line 0).high = (parseLine (entryOf 6 stagedGroup.tables.lines 0)).1.activeLow ∧
    ∀ k, (mapped.line k).request = .none := by decide +kernel
/-- `drainedState` with a read that waits for the step. -/
def deferring (b : ReadBurst) : State :=
  let s := drainedState 0
  { s with path := { s.path with txn := some (.unclassified b) } }
theorem witness_installDue : (drainedState 0).inReset = false ∧ (drainedState 0).path.txn = none ∧ (drainedState 0).installDue ∧
    (Instr.hostWrite (burstOf 52428800 1 7)).wf = true ∧ (Instr.hostRead ⟨134217728, 1⟩).wf = true :=
  ⟨by decide, by decide, ⟨⟨1, rfl⟩, ⟨_, rfl⟩, rfl, fun _ h => nomatch h⟩, by decide, by decide⟩
theorem witness_ActivationInstallsPlan_deferred : (deferring ⟨134217728, 1⟩).inReset = false ∧
    (deferring ⟨134217728, 1⟩).stage = some (.draining 1) ∧ (deferring ⟨134217728, 1⟩).path.queue = [] ∧
    (deferring ⟨134217728, 1⟩).readInProgress = false ∧
    (deferring ⟨134217728, 1⟩).path.txn = some (.unclassified ⟨134217728, 1⟩) := by decide
/-- A write to the old plan's VIEW region is not refused while the step is due; a read of it is answered by the new table (R172). -/
theorem test_deferred_until_step :
    (ran (.hostWrite (burstOf 52428800 1 7)) (drainedState 0)).path.txn = some (.write (burstOf 52428800 1 7)) ∧
    (ran .activationStep (ran (.hostRead ⟨52428800, 1⟩) (drainedState 0))).path.txn =
      some (.read ⟨⟨52428800, 1⟩, .plain, 52428800, none, true, .waiting⟩) := by decide +kernel
theorem test_activation : (ran .activationStep (drainedState 0)).sec 0 = ⟨true, 50, .unseen, 1000, some 51000, false, false, 0⟩ ∧
    ((ran .activationStep (drainedState 0)).sec 1).state = .disabled ∧
    (ran .activationStep (drainedState 0)).tracker.watchdog = some 5000 ∧
    (ran .activationStep (drainedState 255)).tracker.nextFree = some 2000 := by decide +kernel

/-- An UPDATE of an entry whose last line is on the port; the tables of the plan in force stand as `headerBytes` places them. -/
def updateOn (table idx : Nat) (off : Nat) (mem : Memory) : State :=
  let s := mapped.port (.plan (.entryLine off))
  { s with plan := { s.plan with descr := some (parseHeader (headerBytes 255 64 ++ zeros 64)) }, mem := mem }.changing
    ⟨2, 2, BitVec.ofNat 32 (table + 256 * idx), 0, 0, .entryFetch [] []⟩
/-- `updateOn` with a further line still to come. -/
def updateMore : State := (updateOn 2 0 1024 []).setStage (.entryFetch [1088] [])
theorem witness_UpdateReadsEntry : (Instr.updateGroup, (4 : Fin 7)) ∈ [(Instr.updateSection, (3 : Fin 7)), (Instr.updateGroup, 4),
      (Instr.updateChannel, 5), (Instr.updateLine, 6)] ∧ updateMore.readsEntry 4 0 1024 [1088] [] :=
  ⟨by simp, ⟨by decide, by decide, _, rfl, by decide, by decide, by decide, by decide⟩⟩
theorem witness_UpdateReadsEntry_refused : (updateOn 2 0 1152 []).entryComes 4 0
      (((([] : List Byte) ++ Memory.bytes (updateOn 2 0 1152 []).mem ((updateOn 2 0 1152 []).anchorAddr + 1152) 64).drop
        ((updateOn 2 0 1152 []).entryOff 4 0 % 64)).take (entrySize 4)) ∧ ((updateOn 2 0 1152 []).grp 0).present = false :=
  ⟨⟨1152, [], ⟨by decide, by decide, _, rfl, by decide, by decide, by decide, by decide⟩, rfl⟩, by decide⟩
theorem test_entry_next_line : (ran (.updateGroup false) updateMore).arb.port = some (.plan (.entryLine 1088)) := by decide
theorem test_entry_error : (ran (.updateGroup true) updateMore).arb.port = some (.plan (.writeBack 2048)) := by decide

/-- UPDATE of section 1, whose entry of 8 bytes stands at 864 + 8 in line 832: enabled or not, with a timeout in ms. -/
def updateSec (flags ms : Byte) : State := { updateOn 1 1 832 [(1049448, flags), (1049450, ms)] with now := 40000 }
/-- The entry's bytes. -/
def secEntry (flags ms : Byte) : List Byte := [flags, 0, ms, 0, 0, 0, 0, 0]
theorem witness_UpdateSectionApplied_later : (updateSec 1 60).entryComes 3 (1 : Fin 24).val (secEntry 1 60) ∧
    parseSection (secEntry 1 60) = ((true, 60), 0) ∧ ((updateSec 1 60).sec 1).enabled = true ∧
    ((updateSec 1 60).sec 1).deadline.isSome = true ∧ (updateSec 1 60).now < ((updateSec 1 60).sec 1).refresh + 60 * 1000 :=
  ⟨⟨832, [], ⟨by decide, by decide, _, rfl, by decide, by decide, by decide, by decide⟩, by decide⟩, by decide, by decide, by decide,
    by decide⟩
/-- A timeout of 40 ms at 40000 µs is passed. -/
theorem witness_UpdateSectionApplied_passed : (updateSec 1 40).entryComes 3 (1 : Fin 24).val (secEntry 1 40) ∧
    ((updateSec 1 40).sec 1).deadline.isSome = true ∧ ((updateSec 1 40).sec 1).refresh + 40 * 1000 ≤ (updateSec 1 40).now :=
  ⟨⟨832, [], ⟨by decide, by decide, _, rfl, by decide, by decide, by decide, by decide⟩, by decide⟩, by decide, by decide⟩
theorem witness_UpdateSectionApplied_disabled : (updateSec 0 4).entryComes 3 (1 : Fin 24).val (secEntry 0 4) ∧
    parseSection (secEntry 0 4) = ((false, 5), 1) ∧ ((updateSec 0 4).sec 1).enabled = true :=
  ⟨⟨832, [], ⟨by decide, by decide, _, rfl, by decide, by decide, by decide, by decide⟩, by decide⟩, by decide, by decide⟩
/-- `updateSec` with section 1 LOST, and with it not enabled. -/
def updateLost : State := (updateSec 1 60).setSec 1 { online with state := .lost, deadline := none }
def updateOff (flags : Byte) : State := (updateSec flags 60).setSec 1 SectionRec.atReset
theorem witness_UpdateSectionApplied_lost : updateLost.entryComes 3 (1 : Fin 24).val (secEntry 1 60) ∧
    (updateLost.sec 1).enabled = true ∧ (updateLost.sec 1).deadline = none :=
  ⟨⟨832, [], ⟨by decide, by decide, _, rfl, by decide, by decide, by decide, by decide⟩, by decide⟩, by decide, by decide⟩
theorem witness_UpdateSectionApplied_enabled : (updateOff 1).entryComes 3 (1 : Fin 24).val (secEntry 1 60) ∧
    ((updateOff 1).sec 1).enabled = false ∧ (updateOff 0).entryComes 3 (1 : Fin 24).val (secEntry 0 60) ∧
    ((updateOff 0).sec 1).enabled = false :=
  ⟨⟨832, [], ⟨by decide, by decide, _, rfl, by decide, by decide, by decide, by decide⟩, by decide⟩, by decide,
    ⟨832, [], ⟨by decide, by decide, _, rfl, by decide, by decide, by decide, by decide⟩, by decide⟩, by decide⟩
theorem test_retimed : ((ran (.updateSection false) (updateSec 1 60)).sec 1).deadline = some 60000 ∧
    ((ran (.updateSection false) (updateSec 1 40)).sec 1).state = .lost := by decide
theorem test_disabled_clamped : ((ran (.updateSection false) (updateSec 0 4)).sec 1).lossTimeout = 5 ∧
    (ran (.updateSection false) (updateSec 0 4)).report.queue.map (fun r => (r.kind, r.subject)) =
      [(.sectionState, 1), (.planClamped, 1)] := by decide

/-- UPDATE of group 2: its entry of 128 bytes from 1312 on spans the lines 1280, 1344 and 1408, of which the first two have been
read; the last 32 bytes read zero. Present, SELECT, 16 positions, sections 0 and 1, close delay 500 µs, retry limit 3. -/
def groupLines : List Byte := zeros 32 ++ [1, 1] ++ le 2 16 ++ le 3 3 ++ [0] ++ le 2 500 ++ [3, 0, 4, 20, 10, 60] ++ zeros 80
/-- `updateOn` for that entry, the gather of group 2 OPEN and section 2 its last winner. -/
def updateGrp : State :=
  let s := updateOn 2 2 1408 []
  let s1 := s.setStage (.entryFetch [] groupLines)
  { s1 with gather := { s1.gather with opens := [gatherRec] } }.setGrp 2 { group2 with lastWinner := some 2 }
theorem witness_UpdateAppliesEntry_group : updateGrp.entryComes 4 (2 : Fin 12).val ((groupLines.drop 32) ++ zeros 32) ∧
    (updateGrp.grp 2).present = true ∧ (parseGroup ((groupLines.drop 32) ++ zeros 32)).1.present = true ∧
    groupKindOf (parseGroup ((groupLines.drop 32) ++ zeros 32)).1.kind = some (updateGrp.grp 2).kind ∧
    (parseGroup ((groupLines.drop 32) ++ zeros 32)).1.ringLen = (updateGrp.grp 2).ringLen ∧
    has (updateGrp.grp 2).set 2 = true ∧ has (parseGroup ((groupLines.drop 32) ++ zeros 32)).1.set 2 = false ∧
    gatherRec ∈ updateGrp.gather.opens ∧ gatherRec.group = 2 :=
  ⟨⟨1408, groupLines, ⟨by decide, by decide, _, rfl, by decide, by decide, by decide, by decide⟩, by decide⟩, by decide, by decide,
    by decide, by decide, by decide, by decide, by decide, by decide⟩
theorem test_update_group : ((ran (.updateGroup false) updateGrp).grp 2).closeDelay = 500 ∧
    ((ran (.updateGroup false) updateGrp).grp 2).lastWinner = none ∧
    (ran (.updateGroup false) updateGrp).gather.results.map Gather.status = [some .flushed] := by decide
/-- `updateGrp` with an arrival of a group that waits on the pool. -/
def updateWaiting (g : Fin 12) : State :=
  { updateGrp with gather := { updateGrp.gather with waiting := some ⟨0, g, 7, 1, []⟩ } }
theorem witness_UpdateAppliesEntry_none_waiting : updateGrp.gather.waiting = none := by decide
theorem witness_UpdateAppliesEntry_waiting : (updateWaiting 2).entryComes 4 (2 : Fin 12).val ((groupLines.drop 32) ++ zeros 32) ∧
    (updateWaiting 2).gather.waiting = some ⟨0, 2, 7, 1, []⟩ ∧
    (updateWaiting 3).entryComes 4 (2 : Fin 12).val ((groupLines.drop 32) ++ zeros 32) ∧
    (updateWaiting 3).gather.waiting = some ⟨0, 3, 7, 1, []⟩ :=
  ⟨⟨1408, groupLines, ⟨by decide, by decide, _, rfl, by decide, by decide, by decide, by decide⟩, by decide⟩, by decide,
    ⟨1408, groupLines, ⟨by decide, by decide, _, rfl, by decide, by decide, by decide, by decide⟩, by decide⟩, by decide⟩

/-- UPDATE of channel 1: its entry of 16 bytes at 2608 in line 2560. Duck gain 8192, announcement gain 0xFFFF (clamped), ramp 4,
PASS. -/
def updateChan : State := updateOn 3 1 2560 [(1051185, 32), (1051186, 255), (1051187, 255), (1051188, 4), (1051189, 1)]
theorem witness_UpdateAppliesEntry_channel :
    updateChan.entryComes 5 (1 : Fin 4).val [0, 32, 255, 255, 4, 1, 0, 0, 0, 0, 0, 0, 0, 0, 0, 0] ∧
    parseChannel [0, 32, 255, 255, 4, 1, 0, 0, 0, 0, 0, 0, 0, 0, 0, 0] = (⟨8192, 32768, 4, .pass⟩, 1) :=
  ⟨⟨2560, [], ⟨by decide, by decide, _, rfl, by decide, by decide, by decide, by decide⟩, by decide⟩, by decide⟩
theorem test_update_channel : ((ran (.updateChannel false) updateChan).chan 1).defaults = ⟨8192, 32768, 4, .pass⟩ ∧
    ((ran (.updateChannel false) updateChan).chan 1).use = ⟨1, 0, .silence⟩ := by decide

/-- UPDATE of line 0: its entry of 64 bytes from 2656 on spans the lines 2624 and 2688, of which the first has been read. Enabled,
ACTIVE_LOW or ACTIVE_HIGH, debounce 5 ms; the line's raw level is LOW. -/
def lineLines (flags : Byte) : List Byte := zeros 32 ++ [flags, 5] ++ zeros 30
def updateLin (flags : Byte) (st : LineState) : State :=
  ((updateOn 4 0 2688 []).setStage (.entryFetch [] (lineLines flags))).setLine 0 (lineRec false st)
theorem witness_UpdateAppliesEntry_line : (updateLin 3 .latched).entryComes 6 (0 : Fin 6).val ((lineLines 3).drop 32 ++ zeros 32) ∧
    (parseLine ((lineLines 3).drop 32 ++ zeros 32)).1.enabled = true ∧
    ((updateLin 3 .latched).line 0).high ≠ (parseLine ((lineLines 3).drop 32 ++ zeros 32)).1.activeLow ∧
    ((updateLin 3 .latched).line 0).state = .latched :=
  ⟨⟨2688, lineLines 3, ⟨by decide, by decide, _, rfl, by decide, by decide, by decide, by decide⟩, by decide⟩, by decide, by decide,
    by decide⟩
theorem witness_UpdateAppliesEntry_line_quiet : (updateLin 1 .quiet).entryComes 6 (0 : Fin 6).val ((lineLines 1).drop 32 ++ zeros 32) ∧
    ((updateLin 1 .quiet).line 0).high = (parseLine ((lineLines 1).drop 32 ++ zeros 32)).1.activeLow ∧
    ((updateLin 1 .quiet).line 0).state = .quiet :=
  ⟨⟨2688, lineLines 1, ⟨by decide, by decide, _, rfl, by decide, by decide, by decide, by decide⟩, by decide⟩, by decide, by decide⟩
theorem test_update_line : ((ran (.updateLine false) (updateLin 3 .latched)).line 0).state = .debounce ∧
    ((ran (.updateLine false) (updateLin 3 .latched)).line 0).deadline = some 5000 ∧
    ((ran (.updateLine false) (updateLin 1 .quiet)).line 0).state = .quiet := by decide

/-- START on channel 1 at priority 4 with repeat 1, list at 6291456, section 3. -/
def startChange : Change := handedOver 3 66561 6291456 8
/-- `mapped` with the fence as given, channel 1 as given, and that START handed over. -/
def starting (f : Fence) (ch : Chan) : State := ({ mapped with path := { mapped.path with fence := f } }.setChan 1 ch).changing startChange
/-- `starting` with a CLIP write queued. -/
def startingQueued (f : Fence) : State :=
  let s := starting f Chan.atReset
  { s with path := { s.path with queue := [plainEntry (burstOf 6291456 1 0) .clip] } }
theorem witness_StartDecided_bad : (handing (handedOver 3 260 6291456 8)).carriesOut 3 ∧
    4 ≤ (handing (handedOver 3 260 6291456 8)).theChange.arg1.toNat % 256 := ⟨⟨by decide, _, rfl, by decide, by decide⟩, by decide⟩
theorem witness_StartDecided_begins : (starting .up Chan.atReset).carriesOut 3 ∧
    (starting .up Chan.atReset).theChange.arg1.toNat % 256 = (1 : Fin 4).val ∧
    (starting .up Chan.atReset).theChange.arg1.toNat / 256 % 256 = 4 ∧
    (starting .up Chan.atReset).theChange.arg1.toNat / 65536 % 256 % 16 = 1 ∧
    (starting .up Chan.atReset).theChange.arg2.toNat % 64 = 0 ∧
    (starting .up Chan.atReset).path.clipRegion 6291456 = some ⟨.clip, 6291456, 65536⟩ ∧
    ((starting .up Chan.atReset).chan 1).st = .idle ∧ ((starting .up Chan.atReset).chan 1).waiting = none :=
  ⟨⟨by decide, _, rfl, by decide, by decide⟩, by decide, by decide, by decide, by decide, by decide, by decide, by decide⟩
theorem witness_StartDecided_raises : (starting .down Chan.atReset).carriesOut 3 ∧ (starting .down Chan.atReset).path.fence = .down ∧
    (starting .down Chan.atReset).clipQueued = false ∧ (startingQueued .down).carriesOut 3 ∧
    (startingQueued .down).path.fence ≠ .up ∧ (startingQueued .down).clipQueued = true ∧
    (starting .raising Chan.atReset).carriesOut 3 ∧ (starting .raising Chan.atReset).path.fence = .raising :=
  ⟨⟨by decide, _, rfl, by decide, by decide⟩, by decide, by decide, ⟨by decide, _, rfl, by decide, by decide⟩, by decide, by decide,
    ⟨by decide, _, rfl, by decide, by decide⟩, by decide⟩
/-- Channel 1 PLAYING at a priority, with or without a start queued. -/
def playingAt (prio : Nat) (q : Option Start) : Chan := { priming with st := .playing, owner := some .host, prio := prio, queued := q }
theorem witness_StartDecided_live : (starting .up (playingAt 3 none)).carriesOut 3 ∧
    ((starting .up (playingAt 3 none)).chan 1).st.live = true ∧ ((starting .up (playingAt 3 none)).chan 1).prio < 4 ∧
    (starting .up (playingAt 4 none)).carriesOut 3 ∧ 4 ≤ ((starting .up (playingAt 4 none)).chan 1).prio ∧
    ((starting .up (playingAt 4 none)).chan 1).queued = none ∧ (starting .up (playingAt 4 (some (aStart false)))).carriesOut 3 ∧
    ((starting .up (playingAt 4 (some (aStart false)))).chan 1).queued.isSome = true :=
  ⟨⟨by decide, _, rfl, by decide, by decide⟩, by decide, by decide, ⟨by decide, _, rfl, by decide, by decide⟩, by decide, by decide,
    ⟨by decide, _, rfl, by decide, by decide⟩, by decide⟩
theorem witness_StartDecided_joins : (starting .up Chan.atReset).unjoined 1 ∧ (starting .down Chan.atReset).unjoined 1 ∧
    (starting .down Chan.atReset).playout.waitOrder = [] ∧ (starting .up (playingAt 3 none)).joinedOnce 1 ∧
    ((starting .up (playingAt 3 none)).chan 1).owner = some .host ∧
    (starting .up { playingAt 3 none with owner := some (.line 2) }).carriesOut 3 ∧
    ((starting .up { playingAt 3 none with owner := some (.line 2) }).chan 1).owner = some (.line 2) :=
  ⟨by unfold State.unjoined; decide, by unfold State.unjoined; decide, by decide, by unfold State.joinedOnce; decide, by decide,
    ⟨by decide, _, rfl, by decide, by decide⟩, by decide⟩
/-- Channel 1 with a begin waiting at a priority, and with or without a start queued. -/
def waitingAt (o : Owner) (prio : Nat) (q : Option Start) : Chan :=
  { Chan.atReset with waiting := some { aStart false with owner := o, prio := prio }, queued := q }
theorem witness_StartDecided_waiting : (∀ o ∈ [Owner.line 2, .host], ∃ w : Start,
      ((starting .raising (waitingAt o 3 none)).chan 1).st.live = false ∧
      ((starting .raising (waitingAt o 3 none)).chan 1).waiting = some w ∧ w.prio < 4 ∧ w.owner = o ∧ w.reply = false ∧
      (starting .raising (waitingAt o 3 none)).carriesOut 3) ∧
    (∃ w : Start, ((starting .raising (waitingAt .host 4 none)).chan 1).waiting = some w ∧ 4 ≤ w.prio ∧
      ((starting .raising (waitingAt .host 4 none)).chan 1).queued = none ∧ (starting .raising (waitingAt .host 4 none)).carriesOut 3) ∧
    ((starting .raising (waitingAt .host 4 (some (aStart false)))).chan 1).queued.isSome = true :=
  ⟨fun o _ => ⟨{ aStart false with owner := o, prio := 3 }, rfl, rfl, Nat.lt_succ_self 3, rfl, rfl, ⟨rfl, _, rfl, rfl, rfl⟩⟩,
    ⟨_, rfl, by decide, rfl, ⟨by decide, _, rfl, by decide, by decide⟩⟩, by decide⟩
theorem test_start_over_waiting : ((ran .start (starting .raising (waitingAt (.line 2) 3 none))).chan 1).pending.map Start.prio = [3] ∧
    ((ran .start (starting .raising (waitingAt (.line 2) 3 none))).line 2).request = .pending ∧
    (ran .start (starting .raising (waitingAt .host 4 none))).arb.port = some (.plan (.writeBack 512)) ∧
    (ran .start (starting .raising (waitingAt .host 4 (some (aStart false))))).arb.port = some (.plan (.writeBack 1280)) := by decide
theorem test_start_begins : ((ran .start (starting .down Chan.atReset)).chan 1).st = .priming ∧
    ((ran .start (starting .down Chan.atReset)).brk 3).active = some 1 ∧ (ran .start (starting .down Chan.atReset)).path.fence = .up := by
  decide
theorem test_start_queued_or_busy : (ran .start (starting .up (playingAt 4 none))).plan.out = [.writeBack 512] ∧
    (ran .start (starting .up (playingAt 4 (some (aStart false))))).plan.out = [.writeBack 1280] := by decide

theorem witness_StopAndContinue_bad : (handing (handedOver 4 4 0 0)).carriesOut 4 ∧
    4 ≤ (handing (handedOver 4 4 0 0)).theChange.arg1.toNat % 256 := ⟨⟨by decide, _, rfl, by decide, by decide⟩, by decide⟩
theorem witness_StopAndContinue_idle : (handing (handedOver 4 1 0 0)).carriesOut 4 ∧
    ((handing (handedOver 4 1 0 0)).chan 1).st.live = false ∧ ((handing (handedOver 4 1 0 0)).chan 1).waiting = none :=
  ⟨⟨by decide, _, rfl, by decide, by decide⟩, by decide, by decide⟩
theorem witness_StopAndContinue_stop : (playing .handover).carriesOut 4 ∧
    (playing .handover).theChange.arg1.toNat % 256 = (1 : Fin 4).val ∧ ((playing .handover).chan 1).st.live = true ∧
    ((playing .handover).chan 1).queued = none ∧ ((playing .handover).chan 1).pending = [] ∧
    ((playing .handover).brk 3).active = some 1 ∧ ((playing .handover).brk 3).suspended = none ∧
    ((playing .handover).chan 1).owner = some (.line 2) ∧ ((playing .handover).brk 4).active ≠ some 1 :=
  ⟨⟨by decide, _, rfl, by decide, by decide⟩, by decide, by decide, by decide, by decide, by decide, by decide, by decide, by decide⟩
/-- `playing` with channel 0 suspended under channel 1 in section 3. -/
def playingOver : State := (playing .handover).setBrk 3 ⟨some 1, some 0, 20000, .settling, 0⟩
theorem witness_StopAndContinue_suspended : playingOver.carriesOut 4 ∧ (playingOver.brk 3).active = some 1 ∧
    (playingOver.brk 3).suspended = some 0 := ⟨⟨by decide, _, rfl, by decide, by decide⟩, by decide, by decide⟩
/-- STOP of channel 1 with the fence and the channel as given. -/
def stopping (f : Fence) (ch : Chan) : State :=
  ({ mapped with path := { mapped.path with fence := f }, playout := { mapped.playout with waitOrder := [1] } }.setChan 1 ch).changing
    (handedOver 4 1 0 0)
/-- A line's request and a host start of one priority: the line's is the choice. -/
def rivals (ch : Chan) : Chan := { ch with pending := [{ aStart false with owner := .line 3 }], queued := some (aStart false) }
theorem witness_StopAndContinue_waiting : (stopping .raising (waitingAt .host 4 none)).carriesOut 4 ∧
    ((stopping .raising (waitingAt .host 4 none)).chan 1).st.live = false ∧
    ((stopping .raising (waitingAt .host 4 none)).chan 1).waiting.isSome = true ∧
    ((stopping .raising (waitingAt .host 4 none)).chan 1).noStarts ∧ (stopping .raising (waitingAt .host 4 none)).path.fence = .raising ∧
    1 ∈ (stopping .raising (rivals (waitingAt .host 4 none))).playout.waitOrder :=
  ⟨⟨by decide, _, rfl, by decide, by decide⟩, by decide, by decide, ⟨by decide, by decide⟩, by decide, by decide⟩
theorem witness_StopAndContinue_choice (ch : Chan) (st : Start) (h : st = { aStart false with owner := .line 3 }) :
    (rivals ch).handsTo st := by
  subst h
  refine ⟨.inl (by simp [rivals]), ?_⟩
  rintro x (hx | hx)
  · exact .inl (by simpa [rivals] using hx)
  · cases (Option.some.inj hx).symm
    exact .inr (.inr ⟨rfl, .inl ⟨3, rfl, rfl⟩⟩)
theorem witness_StopAndContinue_choice_live : (stopping .up (rivals (playingAt 4 none))).carriesOut 4 ∧
    ((stopping .up (rivals (playingAt 4 none))).chan 1).st.live = true ∧ (stopping .up (rivals (playingAt 4 none))).path.fence = .up ∧
    (stopping .up (rivals (playingAt 4 none))).joinedOnce 1 ∧
    ({ playingAt 4 none with queued := some (aStart false) } : Chan).pending = [] :=
  ⟨⟨by decide, _, rfl, by decide, by decide⟩, by decide, by decide, by unfold State.joinedOnce; decide, by decide⟩
/-- The line's request begins, and the host's start stays queued. -/
theorem test_stop_hands_out : ((ran .stop (stopping .up (rivals (playingAt 4 none)))).chan 1).owner = some (.line 3) ∧
    ((ran .stop (stopping .up (rivals (playingAt 4 none)))).chan 1).queued.isSome = true ∧
    ((ran .stop (stopping .up (rivals (playingAt 4 none)))).line 3).request = .running ∧
    ((ran .stop (stopping .raising (rivals (waitingAt .host 4 none)))).chan 1).waiting.map Start.owner = some (.line 3) := by
  decide +kernel
/-- Channel 1 HELD with a CONTINUE handed over. -/
def heldChannel : State :=
  ((playing .handover).setChan 1 { (playing .handover).chan 1 with st := .held }).changing (handedOver 5 1 0 0)
theorem witness_StopAndContinue_held : heldChannel.carriesOut 5 ∧ (heldChannel.chan 1).st = .held ∧
    (handing (handedOver 5 1 0 0)).carriesOut 5 ∧ ((handing (handedOver 5 1 0 0)).chan 1).st ≠ .held ∧
    (handing (handedOver 5 4 0 0)).carriesOut 5 ∧ 4 ≤ (handing (handedOver 5 4 0 0)).theChange.arg1.toNat % 256 :=
  ⟨⟨by decide, _, rfl, by decide, by decide⟩, by decide, ⟨by decide, _, rfl, by decide, by decide⟩, by decide,
    ⟨by decide, _, rfl, by decide, by decide⟩, by decide⟩
theorem test_stop : ((ran .stop (playing .handover)).brk 3).st = .restoring ∧
    ((ran .stop (playing .handover)).line 2).request = .stopped ∧ (ran .stop (playing .handover)).path.fence = .down := by decide +kernel
theorem test_continue : ((ran .continueChannel heldChannel).chan 1).st = .playing ∧
    ((ran .continueChannel heldChannel).chan 1).walk.next = 7 := by decide +kernel

/-- Line 0 in a state with an ACK for it handed over. -/
def acking (st : LineState) (n : Word) : State := (withLine 0 (lineRec false st)).changing (handedOver 6 n 0 0)
theorem witness_AckAndResume_ack : (acking .quiet 6).carriesOut 6 ∧ 6 ≤ (acking .quiet 6).theChange.arg1.toNat % 256 ∧
    (acking .quiet 0).carriesOut 6 ∧ (acking .quiet 0).theChange.arg1.toNat % 256 = (0 : Fin 6).val ∧
    ((acking .quiet 0).line 0).state = .quiet ∧ (acking .active 0).carriesOut 6 ∧ ((acking .active 0).line 0).state = .active ∧
    (acking .latched 0).carriesOut 6 ∧ ((acking .latched 0).line 0).state = .latched :=
  ⟨⟨by decide, _, rfl, by decide, by decide⟩, by decide, ⟨by decide, _, rfl, by decide, by decide⟩, by decide, by decide,
    ⟨by decide, _, rfl, by decide, by decide⟩, by decide, ⟨by decide, _, rfl, by decide, by decide⟩, by decide⟩
/-- HALTED with a RESUME handed over. -/
def resuming : State :=
  let s := handing (handedOver 8 0 0 0)
  { s with plan := { s.plan with partState := .halted }, gather := { s.gather with taking := false } }
theorem witness_AckAndResume_resume : resuming.carriesOut 8 ∧
    ∀ k, (resuming.line k).state = .active → (resuming.line k).firstBreakin = none :=
  ⟨⟨by decide, _, rfl, by decide, by decide⟩, by decide⟩
theorem test_ack : ((ran .ack (acking .active 0)).line 0).acked = true ∧ ((ran .ack (acking .latched 0)).line 0).state = .quiet := by
  decide
theorem test_resume : (ran .resume resuming).plan.partState = .running ∧ (ran .resume resuming).gather.taking = true := by decide

/-! ### Lines' requests -/

/-- `mapped` with line 0 in a state, its level and request status as given, with BREAKINs of channels 1 and 2 in slots 1 and 2. -/
def asking (high : Bool) (st : LineState) (req : ReqStatus) : State :=
  mapped.setLine 0 { lineRec high st with
    actions := ((Table.fill 3 .empty).set 1 (.breakin 1 6291456 8 4 1)).set 2 (.breakin 2 6291456 8 4 1), request := req }
theorem witness_InputChangesLine_request : (asking false .latched .none).inReset = false ∧
    ((asking false .latched .none).line 0).high ≠ true ∧ ((asking false .latched .none).line 0).enabled = true ∧
    ((asking false .latched .none).line 0).state = .latched ∧ true ≠ ((asking false .latched .none).line 0).activeLow ∧
    ((asking false .latched .none).line 0).request = .none ∧ ((asking false .latched .none).line 0).firstBreakin = some 1 ∧
    (asking false .latched .none).linesMayRequest :=
  ⟨by decide, by decide, by decide, by decide, by decide, by decide, by decide, by decide, nofun⟩
/-- `asking` in DEBOUNCE past its deadline. -/
def expiring : State :=
  let s := asking true .debounce .none
  { s.setLine 0 { s.line 0 with deadline := some 20000 } with now := 20000 }
theorem witness_DebounceExpiryActivates_request : expiring.inReset = false ∧ (expiring.line 0).state = .debounce ∧
    (expiring.line 0).deadline = some 20000 ∧ 20000 ≤ expiring.now ∧ (expiring.line 0).firstBreakin = some 1 ∧
    expiring.linesMayRequest := ⟨by decide, by decide, by decide, by decide, by decide, by decide, nofun⟩
/-- The first BREAKIN begins channel 1; the second is refused as a second one. -/
theorem test_activation_requests : ((ran (.debounceExpiry 0) expiring).chan 1).st = .priming ∧
    ((ran (.debounceExpiry 0) expiring).line 0).request = .running ∧
    (ran (.debounceExpiry 0) expiring).report.queue.map (fun r => (r.kind, r.subject, r.d1.toNat)) =
      [(.channelState, 1, 1073807616), (.actionRefused, 0, 131330), (.lineState, 0, 268567041)] := by decide +kernel

/-- Line 1 ACTIVE with an action in slot 0, channel 1 as given, under a fence. -/
def requesting (a : Action) (f : Fence) (ch : Chan) : State :=
  ({ mapped with path := { mapped.path with fence := f } }.setChan 1 ch).setLine 1
    { lineRec true .active with actions := (Table.fill 3 Action.empty).set 0 a }
/-- A BREAKIN of channel 1 at priority 4 with the list of `aStart`. -/
def breakin1 : Action := .breakin 1 6291456 8 4 1
theorem witness_LineRequestAnswered_refused : (∀ ch prio la : Nat,
      ((requesting (.breakin ch la 8 prio 1) .up Chan.atReset).line 1).actions.get 0 = .breakin ch la 8 prio 1) ∧
    mapped.path.clipRegion 64 = none := ⟨fun _ _ _ => rfl, by decide⟩
theorem witness_LineRequestAnswered_usable (f : Fence) (ch : Chan) :
    ((requesting breakin1 f ch).line 1).actions.get 0 = .breakin (1 : Fin 4).val 6291456 8 4 1 ∧
    (requesting breakin1 f ch).path.clipRegion 6291456 = some ⟨.clip, 6291456, 65536⟩ ∧ (requesting breakin1 f ch).path.fence = f ∧
    (requesting breakin1 f ch).chan 1 = ch ∧ 1 ≤ 4 ∧ 4 ≤ 7 ∧ 6291456 % 64 = 0 :=
  ⟨rfl, rfl, rfl, rfl, by decide, by decide, by decide⟩
/-- `requesting` with a CLIP write queued. -/
def requestingQueued : State :=
  let s := requesting breakin1 .down Chan.atReset
  { s with path := { s.path with queue := [plainEntry (burstOf 6291456 1 0) .clip] } }
theorem witness_LineRequestAnswered_idle : Chan.atReset.st = .idle ∧ Chan.atReset.waiting = none ∧
    (requesting breakin1 .up Chan.atReset).unjoined 1 ∧ (requesting breakin1 .down Chan.atReset).path.queue = [] ∧
    (requesting breakin1 .down Chan.atReset).playout.waitOrder = [] ∧ requestingQueued.path.fence = .down ∧
    (∃ e ∈ requestingQueued.path.queue, e.kind = .clip) ∧ (requestingQueued.line 1).actions.get 0 = breakin1 :=
  ⟨by decide, by decide, by unfold State.unjoined; decide, by decide, by decide, by decide, by decide, by decide⟩
theorem witness_LineRequestAnswered_current : (playingAt 3 none).st.live = true ∧ (playingAt 3 none).prio < 4 ∧
    (requesting breakin1 .up (playingAt 3 none)).joinedOnce 1 ∧ (playingAt 4 none).st.live = true ∧ 4 ≤ (playingAt 4 none).prio ∧
    (∀ o prio, (waitingAt o prio none).st.live = false ∧
      (waitingAt o prio none).waiting = some { aStart false with owner := o, prio := prio }) :=
  ⟨by decide, by decide, by unfold State.joinedOnce; decide, by decide, by decide, fun _ _ => ⟨rfl, rfl⟩⟩
/-- `requesting` over a host start of priority 3 whose begin waits, with its change still to be answered. -/
def displacing : State :=
  (requesting breakin1 .raising { Chan.atReset with waiting := some { aStart true with prio := 3 } }).changing
    { handedOver 3 1 0 0 with stage := .startWait }
theorem witness_LineRequestAnswered_displaced : (displacing.line 1).actions.get 0 = breakin1 ∧
    (displacing.chan 1).st.live = false ∧ (displacing.chan 1).waiting = some { aStart true with prio := 3 } ∧
    (aStart true).reply = true ∧ (aStart true).owner = .host ∧ displacing.plan.change.isSome = true := by decide
/-- The displaced host start's change is answered DONE (log entry 12). -/
theorem test_displaced_start_answered : (displacing.requestBreakin 1 0).stage = some .writingBack ∧
    ((displacing.requestBreakin 1 0).line 1).request = .running := by decide +kernel
/-- Refused; RUNNING on an idle channel and over a lower priority, live or waiting; PENDING against an equal one. -/
theorem test_requests : ([requesting (.breakin 4 6291456 8 4 1) .up Chan.atReset, requesting breakin1 .up Chan.atReset,
      requestingQueued, requesting breakin1 .up (playingAt 3 none), requesting breakin1 .raising (waitingAt (.line 2) 3 none),
      requesting breakin1 .up (playingAt 4 none), requesting breakin1 .raising (waitingAt .host 4 none)].map
      fun s => ((s.requestBreakin 1 0).line 1).request) = [.refused, .running, .running, .running, .running, .pending, .pending] ∧
    ((requesting breakin1 .raising (waitingAt (.line 2) 3 none)).requestBreakin 1 0).line 2 =
      { (mapped.line 2) with request := .pending } := by decide +kernel

/-- Line 0 ACTIVE, acknowledged, its request on channel 1 in a status; channel 1 as given, under a fence. -/
def withdrawing (f : Fence) (ch : Chan) (req : ReqStatus) : State :=
  ({ mapped with path := { mapped.path with fence := f }, playout := { mapped.playout with waitOrder := [1] } }.setChan 1 ch).setLine 0
    { lineRec true .active with acked := true, request := req, reqChannel := some 1 }
theorem witness_LineRequestWithdrawn (f : Fence) (ch : Chan) (req : ReqStatus) : ((withdrawing f ch req).line 0).reqChannel = some 1 ∧
    ((withdrawing f ch req).line 0).request = req ∧ (withdrawing f ch req).chan 1 = ch ∧ (withdrawing f ch req).path.fence = f ∧
    (withdrawing f ch req).playout.waitOrder = [1] := ⟨rfl, rfl, rfl, rfl, rfl⟩
/-- Channel 1 PLAYING for line 0, and PLAYING for the host with line 0's start in the pending set. -/
def ownPlaying : Chan := { playingAt 4 none with owner := some (.line 0) }
def ownPending : Chan := { playingAt 5 none with pending := [{ aStart false with owner := .line 0 }] }
theorem witness_LineRequestWithdrawn_forms : ownPlaying.st.live = true ∧ ownPlaying.owner = some (.line 0) ∧ ownPlaying.noStarts ∧
    (waitingAt (.line 0) 4 none).st.live = false ∧
    (waitingAt (.line 0) 4 none).waiting = some { aStart false with owner := .line 0, prio := 4 } ∧
    (waitingAt (.line 0) 4 none).noStarts ∧ ownPending.st.live = true ∧ ownPending.owner ≠ some (.line 0) ∧
    ownPending.waiting = none ∧ (∀ ch, (rivals ch).handsTo { aStart false with owner := .line 3 }) ∧
    (withdrawing .up (rivals ownPlaying) .running).joinedOnce 1 :=
  ⟨by decide, by decide, ⟨by decide, by decide⟩, by decide, by decide, ⟨by decide, by decide⟩, by decide, by decide, by decide,
    fun ch => witness_StopAndContinue_choice ch _ rfl, by unfold State.joinedOnce; decide⟩
/-- A live use ends with WITHDRAW (8), a begin waiting is cancelled, a start leaves the pending set. -/
theorem test_withdrawals : (((withdrawing .up ownPlaying .running).withdrawLine 0).report.queue.map fun r => (r.kind, r.d1.toNat)) =
      [(.channelState, 252182530)] ∧
    (((withdrawing .raising (waitingAt (.line 0) 4 none) .running).withdrawLine 0).chan 1).waiting = none ∧
    ((withdrawing .raising (waitingAt (.line 0) 4 none) .running).withdrawLine 0).path.fence = .down ∧
    (((withdrawing .up ownPending .pending).withdrawLine 0).chan 1).pending = [] := by decide +kernel

/-! ### What the part writes and presents -/

theorem witness_WrittenLinesHold : (voting.grp 0).kind = .select ∧ (gating.grp ranked.group).kind = .rank ∧
    Vote.opened.payload.length = 48 ∧ up.plan.lastError = .none ∧
    ({ PlanUnit.atReset with lastError := .check .overlap 3 } : PlanUnit).lastError = .check .overlap 3 ∧
    ({ PlanUnit.atReset with lastError := .fetch 128 } : PlanUnit).lastError = .fetch 128 := by decide
/-- Chapter 08's worked case: in band 2, sections 4 OPEN, 5 and 9 DENIED and 11 FORCED. -/
theorem test_rank_slot : (gating.resultLine ranked .complete).take 8 = [5, 0, 1, 5, 48, 11, 0, 6] ∧
    field (gating.resultLine ranked .complete) 28 6 = 4 ^ 4 + 3 * 4 ^ 5 + 3 * 4 ^ 9 + 2 * 4 ^ 11 := by decide +kernel
theorem test_line_mirrored : ((withdrawing .up ownPlaying .running).mirrorBytes 41).take 3 = [2, 1, 1] := by decide

/-- Channel 1 PLAYING with one slot assigned, at index 0, in a state, `n` of its lines presented; its walk is over, and list lines
are requested. -/
def offering (st : SlotState) (src : Option Nat) (n : Nat) (req : List Nat) : State :=
  mapped.setChan 1 { Chan.atReset with
    st := .playing, useNo := 1, listAddr := 6291456, requested := req
    window := (Table.fill 32 Slot.unassigned).set 0 ⟨some 0, st, src, n, [], []⟩ }
/-- `offering` with a burst of the channel's use on the port. -/
def offeringOn (st : SlotState) (src : Option Nat) (n : Nat) (req : List Nat) (w : ClipWhat) : State :=
  (offering st src n req).port (.clip ⟨1, 1, w, 0⟩)
theorem witness_RequestersPresent_port : (mapped.chan 0).st.live = false ∧
    (∀ st src n req, (offeringOn st src n req (.list 1)).fetchesList 1 ∧ (offeringOn st src n req (.block 0 1)).fetchesBlock 1 0 ∧
      ¬(offeringOn st src n req (.block 0 1)).fetchesList 1 ∧ ¬(offeringOn st src n req (.list 1)).fetchesBlock 1 0) :=
  ⟨by decide, fun _ _ _ _ => ⟨⟨1, 0, rfl⟩, ⟨1, 0, rfl⟩, fun ⟨_, _, h⟩ => (nomatch h), fun ⟨_, _, h⟩ => (nomatch h)⟩⟩
theorem witness_RequestersPresent_awaits : (clipOn 1 (.block 0 2) 6295680).awaitsLine 1 ∧
    ¬(clipOn 1 (.block 0 2) 6295680).fetchesList 1 ∧ (clipOn 1 (.list 1) 6291520).awaitsLine 1 ∧
    (clipOn 1 (.list 1) 6291520).fetchesList 1 :=
  ⟨⟨by decide, by decide, by decide, by decide, ⟨.clip, 6291456, 65536⟩, by decide, by decide⟩, fun ⟨_, _, h⟩ => (nomatch h),
    ⟨by decide, by decide, by decide, by decide, ⟨.clip, 6291456, 65536⟩, by decide, by decide⟩, ⟨1, 6291520, rfl⟩⟩
theorem witness_RequestersPresent_slot : (∀ st src n req, ¬(offering st src n req).awaitsLine 1 ∧
      (offering st src n req).arb.port = none ∧ ((offering st src n req).chan 1).requested = req) ∧
    (∀ n ∈ [1, 3], (((offering .fetching (some 6295552) n []).chan 1).window.get 0).st = .fetching ∧
      (((offering .fetching (some 6295552) n []).chan 1).window.get 0).idx = some 0 ∧
      (((offering .fetching (some 6295552) n []).chan 1).window.get 0).src = some 6295552 ∧
      ∀ l, (((offering .fetching (some 6295552) n []).chan 1).window.get l).st = .fetching → l = 0) :=
  ⟨fun st src n req => ⟨(fun h => nomatch h.1), rfl, rfl⟩, by decide⟩
theorem witness_RequestersPresent_empty : ((offering .empty (some 6295552) 0 []).chan 1).mayFetch 0 0 6295552 ∧
    (∀ l y b, ((offering .empty (some 6295552) 0 []).chan 1).mayFetch l y b → l = 0 ∨ 0 < y) ∧
    ∀ l y b, ¬((offering .silent none 0 [2]).chan 1).mayFetch l y b := by
  have h1 : ∀ l, (((offering SlotState.empty (some 6295552) 0 []).chan 1).window.get l).src ≠ none → l = 0 := by decide
  have h2 : ∀ l, (((offering .silent none 0 [2]).chan 1).window.get l).src = none := by decide
  exact ⟨⟨by decide, by decide, by decide, by decide⟩, fun l y b h => .inl (h1 l (by simp [h.2.2.1])),
    fun l y b h => nomatch (h2 l).symm.trans h.2.2.1⟩
/-- Two channels' offers at one distance. -/
def twoOffers : State := (offering .empty (some 6295552) 0 []).setChan 2 ((offering .empty (some 6296128) 0 []).chan 1)
theorem witness_RequestersPresent_chosen : twoOffers.arb.clip = none ∧
    twoOffers.offer 1 = some (⟨1, 1, .block 0 0, 6295552⟩, 0) ∧ twoOffers.offer 2 = some (⟨2, 1, .block 0 0, 6296128⟩, 0) ∧
    twoOffers.offer 0 = none ∧ twoOffers.offer 3 = none ∧ (twoOffers.chan 1).urgent = (twoOffers.chan 2).urgent ∧
    twoOffers.chosenOffer = some ⟨1, 1, .block 0 0, 6295552⟩ ∧ mapped.chosenOffer = none := by decide
theorem test_offers : (offering .empty (some 6295552) 0 [2]).offer 1 = some (⟨1, 1, .block 0 0, 6295552⟩, 0) ∧
    (offering .fetching (some 6295552) 1 [2]).offer 1 = some (⟨1, 1, .block 0 1, 6295616⟩, 0) ∧
    (offering .fetching (some 6295552) 3 [2]).offer 1 = some (⟨1, 1, .list 2, 6291584⟩, 0) ∧
    (offering .silent none 0 []).offer 1 = none := by decide
/-- Behind a line of its block on the port the list line requested is offered, not the block's next line; behind a list line the
block's next line, or the next block, and no other list line (R60, R64, log entry 32). -/
theorem test_offers_behind_port :
    (offeringOn .fetching (some 6295552) 2 [2] (.block 0 1)).offer 1 = some (⟨1, 1, .list 2, 6291584⟩, 0) ∧
    (offeringOn .fetching (some 6295552) 2 [2] (.list 1)).offer 1 = some (⟨1, 1, .block 0 2, 6295680⟩, 0) ∧
    (offeringOn .empty (some 6295552) 0 [2] (.block (-1) 2)).offer 1 = some (⟨1, 1, .block 0 0, 6295552⟩, 0) ∧
    (offeringOn .silent none 0 [2] (.list 1)).offer 1 = none := by decide
/-- A report unit with its header known or not, and a record waiting or not, with a slot free or not. -/
def reporting (h : Option (Nat × Nat)) (q : List LogRec) (consumer : Nat) : Report :=
  { run0.report with header := h, queue := q, consumer := consumer }
theorem witness_RequestersPresent_log : recording.report.req ≠ .idle ∧ (∀ h q n, (reporting h q n).req = .idle) ∧
    (reporting none [] 0).header ≠ some ((reporting none [] 0).producer, (reporting none [] 0).lost) ∧
    (∀ q n, (reporting (some (0, 0)) q n).header = some ((reporting (some (0, 0)) q n).producer, (reporting (some (0, 0)) q n).lost)) ∧
    (0 + 1) % 64 ≠ (reporting (some (0, 0)) [⟨.planLoaded, 2, 7, 1, 0⟩] 0).consumer ∧
    (0 + 1) % 64 = (reporting (some (0, 0)) [⟨.planLoaded, 2, 7, 1, 0⟩] 1).consumer :=
  ⟨by decide, fun _ _ _ => rfl, by decide, fun _ _ => rfl, by decide, by decide⟩
theorem test_log_presents : [reporting none [] 0, reporting (some (0, 0)) [⟨.planLoaded, 2, 7, 1, 0⟩] 0,
      reporting (some (0, 0)) [⟨.planLoaded, 2, 7, 1, 0⟩] 1].map (fun r => r.choose.req) = [.header, .record, .idle] := by decide

/-! ### The memory port -/

/-- `closing` with a write queued to another line, a change to be read, and a dirty mirror record. -/
def contending : State :=
  { closing with
    path := { closing.path with queue := [plainEntry (burstOf 64 1 0) .plain] }
    plan := { closing.plan with out := [.argRead] }
    report := { closing.report with dirty := 3, lastWritten := 0 } }
/-- `contending` without the result, with the run count as given. -/
def contendingFor (n : Nat) : State :=
  { contending with gather := { contending.gather with results := [] }, arb := { contending.arb with runCount := n } }
theorem witness_ArbiterOrder_result : contending.eligible .result = true ∧ contending.arb.port = none := by decide
theorem witness_ArbiterOrder_pass : (contendingFor 7).eligible .result = false ∧ (contendingFor 7).eligible .clip = false ∧
    (contendingFor 7).promoted .plan = false ∧ (contendingFor 7).promoted .mirror = false ∧ (contendingFor 7).promoted .log = false ∧
    (contendingFor 7).eligible .pass = true ∧ (contendingFor 7).arb.runCount ≠ 8 ∧ (contendingFor 7).readReady = false ∧
    (contendingFor 7).arb.port = none := by decide
theorem witness_ArbiterOrder_run_limit : (contendingFor 8).eligible .pass = true ∧ (contendingFor 8).arb.runCount = 8 ∧
    (contendingFor 8).othersWait = true ∧ (contendingFor 8).eligible .clip = false ∧ (contendingFor 8).eligible .plan = true := by decide
/-- `contendingFor` with PLAN's burst presented a time ago. -/
def promoting (now : Nat) : State :=
  let s := contendingFor 7
  { s with now := now, arb := { s.arb with waits := { Waits.clear with plan := some 0 } } }
theorem witness_ArbiterOrder_promoted : (promoting 2001).promoted .plan = true ∧ (promoting 2000).promoted .plan = false := by decide
theorem witness_ArbiterOrder_mirror : State.winner { run0 with report := { run0.report with dirty := 3, lastWritten := 0, header := some (0, 0) } } =
    some .mirror := by decide
theorem witness_ArbiterOrder_grants : (contendingFor 8).winner = some .plan ∧ (contendingFor 8).arb.port = none ∧
    contending.winner = some .result ∧
    State.winner { run0 with report := { run0.report with queue := [⟨.planLoaded, 2, 7, 1, 0⟩], req := .record } } = some .log ∧
    State.winner { run0 with report := { run0.report with req := .header } } = some .log := by decide
/-- The bursts put on the port: the result line to its slot, the change to be read, the record to the slot of the producer index, the
header fields (R36). -/
theorem test_grants : contending.arbitrate.portCells = cellsFrom 5243072 (zeros 64) ∧
    (contendingFor 8).arbitrate.arb.port = some (.plan .argRead) ∧ (contendingFor 8).arbitrate.plan.out = [] ∧
    (State.arbitrate { run0 with report := { recording.report with req := .record } }).portCells =
      cellsFrom (run0.report.logBase + 1008) (LogRec.bytes ⟨.planLoaded, 2, 7, 1, 0⟩) ∧
    (State.arbitrate { run0 with report := { run0.report with producer := 5, lost := 2, req := .header } }).arb.port =
      some (.logHeader 5 2) := by decide +kernel
theorem witness_ArbiterOrder_none : up.winner = none ∧ up.arb.port = none := by decide
theorem witness_ArbiterOrder_busy : (run0.port .read).arb.port = some .read := by decide
/-- An urgent CLIP burst of the channel that `clipOn` primes. -/
def urgentClip : State :=
  let s := clipOn 1 (.block 0 2) 6295680
  { s with arb := { s.arb with port := none, clip := some ⟨1, 1, .block 0 2, 6295680⟩ } }
theorem witness_RequestersPresent_presented : urgentClip.arb.clip ≠ none := by decide
theorem witness_ArbiterOrder_clip : urgentClip.eligible .result = false ∧ urgentClip.eligible .clip = true ∧
    urgentClip.clipUrgent = true ∧ urgentClip.winner = some .clip ∧ urgentClip.arb.port = none := by decide
theorem witness_ArbiterOrder_after : run0.inReset = false ∧ Instr.inputEvent 0 true ≠ .reset ∧
    exec (.inputEvent 0 true) run0 = .next (ran (.inputEvent 0 true) run0) ∧ ran (.inputEvent 0 true) run0 ≠ run0 :=
  ⟨by decide, by decide, rfl, by decide⟩
/-- A read that takes the queue head's place as PASS's burst is presented at that moment (R30, R35). -/
theorem test_read_waits_from_its_own_moment :
    let s := { serving 150 BreakRec.atReset with
      now := 9, path := { mapped.path with txn := some (.read { viewTxn 150 with phase := .waiting }) } }
    ({ s with arb := { Arbiter.atReset with waits := { Waits.clear with pass := some 0 } } } : State).noteWaits.arb.waits.pass =
      some 9 ∧
    ({ s with arb := { Arbiter.atReset with passRead := true, waits := { Waits.clear with pass := some 0 } } } : State).noteWaits.arb.waits.pass =
      some 0 := by decide
/-- The released read of position 3 goes before the later result of its key, which is kept back until then (R114). -/
theorem test_released_read_before_later_result :
    (ran .outputReadReleased { released with gather := closing.gather }).arb.port = some .read ∧
    (ran .outputReadReleased { released with gather := { closing.gather with results := closing.gather.results.map (fun g => { g with pos := 4 }) } }).arb.port = some .result := by decide
theorem test_run_limit : (contendingFor 7).winner = some .pass ∧ (contendingFor 8).winner = some .plan ∧
    (promoting 2001).winner = some .plan ∧ (promoting 2000).winner = some .pass := by decide

end Sys2Proof.Machine
end

section
/-! PROOFS. The programme tracker under a taken write (chapter 03): WRITE_TAKEN cut into the write's own end, its region's
watcher and the end of the command, and what a head advance does to block time. -/

namespace Sys2Proof.Machine

variable {s : State} {e : QEntry} {rest : List QEntry} {p : Fin 6}

/-! ### The parts of WRITE_TAKEN -/

/-- The queue head's write at its end, before any watcher: memory, the free port, and the lost write (R28, R29). -/
def State.headEnded (s : State) (e : QEntry) (err : Bool) : State := (s.complete err).noteLost e err

/-- What follows the watcher of the write's region: the watched words, the slot, the end of the command (R25, R27, R28). -/
def State.headDone (s : State) (e : QEntry) : State := (s.watchWords e).popHead.settle

/-- WRITE_TAKEN of a write that is taken. -/
theorem exec_writeTaken_of_takes (err : Bool) (h : s.takes e rest) :
    exec (.writeTaken err) s = .next (((s.headEnded e err).watchRegion e).headDone e) := by
  obtain ⟨hreset, hport, hqueue, -⟩ := h
  have hhead : s.headOnPort = true := by simp [State.headOnPort, hport, hqueue]
  have htake : s.takeHead err = (((s.headEnded e err).watchRegion e).watchWords e).popHead := by
    simp only [State.takeHead, hqueue, State.headEnded]
  calc exec (.writeTaken err) s = act s s.headOnPort (s.takeHead err) := rfl
    _ = .next (s.takeHead err).settle := act_next s _ _ hreset hhead
    _ = .next (((s.headEnded e err).watchRegion e).headDone e) := by rw [htake]; rfl

theorem State.headEnded_frame (s : State) (e : QEntry) (err : Bool) : Frame (.memory :: errorParts) s (s.headEnded e err) :=
  ((s.complete_frame err).wide rfl).trans ((State.noteLost_frame _ e err).wide rfl)

@[simp] theorem State.noteLost_tracker (err : Bool) : (s.noteLost e err).tracker = s.tracker := by
  cases err <;> simp [State.noteLost]

@[simp] theorem State.noteLost_now (err : Bool) : (s.noteLost e err).now = s.now := by
  cases err <;> simp [State.noteLost]

@[simp] theorem State.headEnded_tracker (err : Bool) : (s.headEnded e err).tracker = s.tracker := by
  simp [State.headEnded]

@[simp] theorem State.headEnded_now (err : Bool) : (s.headEnded e err).now = s.now := by simp [State.headEnded]

@[simp] theorem State.headEnded_prog (err : Bool) : (s.headEnded e err).prog p = s.prog p := by simp [State.prog]

theorem State.headDone_frame (s : State) (e : QEntry) :
    Frame [.queue, .change, .logQueue, .lostCount, .draws, .logIndices, .classCounts, .attn] s (s.headDone e) :=
  (((s.watchWords_frame e).wide rfl).trans ((State.popHead_frame _).wide rfl)).trans ((State.settle_frame _).wide rfl)

theorem State.watchWords_unwatched (h : e.unwatched) : s.watchWords e = s := by
  obtain ⟨hchange, hconsumer⟩ := h
  simp [State.watchWords, hchange, hconsumer]

theorem State.headDone_frame_unwatched (s : State) (h : e.unwatched) : Frame [.queue] s (s.headDone e) := by
  rw [State.headDone, State.watchWords_unwatched h]
  exact s.popHead_frame.trans ((State.settle_frame _).wide rfl)

/-! ### Head advances -/

/-- The last word of a block is word 15 of its line 2; a burst covers it where enough words follow its first (R17, R45). -/
theorem coversLast_iff (base : Nat) (b : WriteBurst) : coversLast base b = true ↔
    (b.addr - base) % 192 / 64 = 2 ∧ (31 - b.addr / 4 % 16) % 16 < b.words.length := by
  simp [coversLast, WriteBurst.covers, WriteBurst.wordAt, wordOff]

/-- The watcher of a PROGRAMME write that covers the last word of its block (R46). -/
theorem State.watchRegion_headAdvance (hkind : e.kind = .programme p) (hlast : coversLast (s.prog p).base e.burst = true) :
    s.watchRegion e = s.headAdvance p ((e.burst.addr - (s.prog p).base) / 192) := by
  simp [State.watchRegion, hkind, State.programmeWrite, hlast]

@[simp] theorem State.setHead_now (n : Nat) : (s.setHead p n).now = s.now := rfl

/-- The head advance of a programme that is not the reference moves its own head alone (R46, R47). -/
theorem State.headAdvance_other (n : Nat) (h : s.tracker.reference ≠ some p) : s.headAdvance p n = s.setHead p n := by
  simp [State.headAdvance, h]

/-- The head advance of the reference in LOCKED (R47). -/
theorem State.headAdvance_locked (n : Nat) (href : s.tracker.reference = some p) (hlock : s.tracker.timing = .locked) :
    s.headAdvance p n = (s.setHead p n).lockedAdvance := by
  simp [State.headAdvance, href, hlock]

/-- Apart from the watchdog, the reference's advance in LOCKED is a block-time event (R47). -/
theorem State.lockedAdvance_blockTime_frame (s : State) : Frame [.timing] s.blockTime s.lockedAdvance :=
  timing_frame s.blockTime (fun t => { t with watchdog := some (s.now + watchdogTime) }) rfl

theorem State.lockedAdvance_watchdog (s : State) : s.lockedAdvance.tracker.watchdog = some (s.now + 4000) := rfl

/-- The timing record of the reference's advance in LOCKED, but for the watchdog (R47). -/
theorem State.lockedAdvance_timing (s : State) :
    s.lockedAdvance.tracker.timing = s.tracker.timing ∧ s.lockedAdvance.tracker.nextFree = s.tracker.nextFree ∧
      s.lockedAdvance.tracker.freeCount = s.tracker.freeCount := by
  obtain ⟨-, htiming, -, hnext, hcount⟩ := s.blockTime_frame.same .timing rfl
  exact ⟨htiming, hnext, hcount⟩

/-! ### WRITE_TAKEN of a head advance -/

/-- WRITE_TAKEN of a write that covers the last word of its block (R45, R46). -/
theorem exec_writeTaken_headAdvance (err : Bool) (h : s.takes e rest) (hkind : e.kind = .programme p)
    (hlast : coversLast (s.prog p).base e.burst = true) :
    exec (.writeTaken err) s = .next
      (((s.headEnded e err).headAdvance p ((e.burst.addr - (s.prog p).base) / 192)).headDone e) := by
  rw [exec_writeTaken_of_takes err h, State.watchRegion_headAdvance hkind (by simpa using hlast), State.headEnded_prog]

/-- What has changed when a head advance meets block time: the write has ended and the head has moved. -/
theorem State.setHead_headEnded_frame (s : State) (e : QEntry) (p : Fin 6) (err : Bool) (n : Nat) :
    Frame [.memory, .memErrors, .logQueue, .lostCount, .programmes] s ((s.headEnded e err).setHead p n) :=
  ((s.headEnded_frame e err).wide rfl).trans ((State.setHead_frame _ p n).wide rfl)

/-- The reference's advance in LOCKED and the end of its command leave the tracker's programmes as the moved head left them. -/
theorem State.headDone_lockedAdvance_progs (s : State) (e : QEntry) :
    (s.lockedAdvance.headDone e).tracker.progs = s.tracker.progs := by
  have hdone : (s.lockedAdvance.headDone e).tracker.progs = s.lockedAdvance.tracker.progs :=
    (s.lockedAdvance.headDone_frame e).same .programmes rfl
  have hadvance : s.lockedAdvance.tracker.progs = s.tracker.progs := s.lockedAdvance_frame.same .programmes rfl
  rw [hdone, hadvance]

/-- The timing record after the reference's advance in LOCKED and the end of its command (R47). -/
theorem State.headDone_lockedAdvance_timing (s : State) (e : QEntry) :
    (s.lockedAdvance.headDone e).tracker.timing = s.tracker.timing ∧
      (s.lockedAdvance.headDone e).tracker.watchdog = some (s.now + 4000) ∧
      (s.lockedAdvance.headDone e).tracker.nextFree = s.tracker.nextFree ∧
      (s.lockedAdvance.headDone e).tracker.freeCount = s.tracker.freeCount := by
  obtain ⟨-, htiming, hwatchdog, hnext, hcount⟩ := (s.lockedAdvance.headDone_frame e).same .timing rfl
  obtain ⟨htiming', hnext', hcount'⟩ := s.lockedAdvance_timing
  exact ⟨htiming.trans htiming', hwatchdog.trans s.lockedAdvance_watchdog, hnext.trans hnext', hcount.trans hcount'⟩

/-! ### FREE_RUN_TIME -/

theorem TimingInv.nextFree_of_locked (hinv : TimingInv s) (hlock : s.tracker.timing = .locked) :
    s.tracker.nextFree = none := by
  obtain ⟨-, hnext, -, -⟩ := hinv
  simpa [hlock] using hnext

/-- FREE_RUN_TIME cannot occur in LOCKED (R48). -/
theorem exec_freeRunTime_of_locked (hlock : s.tracker.timing = .locked) : exec .freeRunTime s = .next s := by
  have hdue : s.freeRunDue = false := by simp [State.freeRunDue, hlock]
  calc exec .freeRunTime s = act s s.freeRunDue s.freeRunEvent := rfl
    _ = .next s := by simp [act, hdue]

/-- Settles O23: the event falls in the state in which the write has ended and the head has moved. -/
theorem lockedAdvanceDrivesBlockTime : Obligations.LockedAdvanceDrivesBlockTime := by
  unfold Obligations.LockedAdvanceDrivesBlockTime
  refine ⟨?_, fun s hinv hlock => ⟨hinv.nextFree_of_locked hlock, exec_freeRunTime_of_locked hlock⟩⟩
  intro err e rest p s htakes hkind hline hword hlock
  have hlast := (coversLast_iff (s.prog p).base e.burst).mpr ⟨hline, hword⟩
  have hmoved := s.setHead_headEnded_frame e p err ((e.burst.addr - (s.prog p).base) / 192)
  have hkept := hmoved.same .timing rfl
  refine ⟨_, exec_writeTaken_headAdvance err htakes hkind hlast, fun href => ?_, fun href => ?_⟩
  · rw [State.headAdvance_locked _ (by simpa using href) (by simpa using hlock)]
    obtain ⟨htiming, hwatchdog, hnext, hcount⟩ := State.headDone_lockedAdvance_timing
      ((s.headEnded e err).setHead p ((e.burst.addr - (s.prog p).base) / 192)) e
    obtain ⟨-, htiming', -, hnext', hcount'⟩ := hkept
    refine ⟨htiming.trans (htiming'.trans hlock), by simpa using hwatchdog, hnext.trans hnext', hcount.trans hcount',
      _, hmoved, (State.headDone_lockedAdvance_progs _ e).symm, fun hunwatched => ?_, ?_⟩
    · exact (State.lockedAdvance_blockTime_frame _).append (State.headDone_frame_unwatched _ hunwatched)
    · exact (State.lockedAdvance_blockTime_frame _).append (State.headDone_frame _ e)
  · rw [State.headAdvance_other _ (by simpa using href)]
    exact hkept.trans ((State.headDone_frame _ e).same .timing rfl)

end Sys2Proof.Machine
end

section
/-! PROOFS. Mobile uplink gating (chapter 08): the sections that the actions in force name, the table of wants and holds, the order of the
wanters as a linear order, and the bound that the budget puts on a band's opened sections. -/

namespace Sys2Proof.Machine

variable (s : State) (ga : Gather) (b : Fin 8)

/-! ### Sets of sections -/

@[simp] theorem has_or (m n : SecSet) (k : Fin 24) : has (m ||| n) k = (has m k || has n k) := BitVec.getLsbD_or

@[simp] theorem has_single (j k : Fin 24) : has (single j) k = decide (j = k) := by
  simp [has, single, Fin.ext_iff, eq_comm]

/-- What the fold of `secSet` collects along a list of sections. -/
theorem has_foldl_single (f : Fin 24 → Bool) (k : Fin 24) (l : List (Fin 24)) (m : SecSet) :
    has (l.foldl (fun m j => if f j then m ||| single j else m) m) k = (has m k || decide (k ∈ l) && f k) := by
  induction l generalizing m with
  | nil => simp
  | cons j l ih =>
    rw [List.foldl_cons, ih]
    by_cases hk : j = k
    · subst hk
      cases f j <;> simp
    · cases f j <;> simp [hk, Ne.symm hk]

@[simp] theorem has_secSet (f : Fin 24 → Bool) (k : Fin 24) : has (secSet f) k = f k := by
  simp only [secSet, has_foldl_single, List.mem_finRange]
  simp [has]

theorem length_filter_finRange (f : Fin 24 → Bool) :
    ((List.finRange 24).filter f).length = (Finset.univ.filter fun k => f k = true).card := by
  rw [← List.toFinset_card_of_nodup ((List.nodup_finRange 24).filter f)]
  congr 1
  ext k
  simp

theorem card_eq (m : SecSet) : card m = (Finset.univ.filter fun k => has m k = true).card := length_filter_finRange (has m)

/-! ### The actions in force (R137) -/

theorem mem_table_xs {α : Type} {n : Nat} (t : Table α n) (a : α) : a ∈ t.xs ↔ ∃ i, t.get i = a := by
  constructor
  · intro h
    obtain ⟨i, hi, rfl⟩ := List.getElem_of_mem h
    exact ⟨⟨i, t.len ▸ hi⟩, rfl⟩
  · rintro ⟨i, rfl⟩
    exact List.getElem_mem _

theorem LineState.inForce_iff (l : LineState) : l.inForce = true ↔ l = .active ∨ l = .latched := by
  cases l <;> simp [LineState.inForce]

theorem State.mem_actionsInForce (a : Action) : a ∈ s.actionsInForce ↔
    ∃ (l : Fin 6) (j : Fin 3), ((s.line l).state = .active ∨ (s.line l).state = .latched) ∧ (s.line l).actions.get j = a := by
  simp only [State.actionsInForce, List.mem_flatMap, List.mem_finRange, true_and, ← LineState.inForce_iff]
  refine exists_congr fun l => ?_
  cases (s.line l).state.inForce <;> simp [mem_table_xs]

theorem State.isForced_iff (g : Fin 12) (k : Fin 24) : s.isForced g b k = true ↔
    ∃ (l : Fin 6) (j : Fin 3) (bands : BandSet) (mask : SecSet), ((s.line l).state = .active ∨ (s.line l).state = .latched) ∧
      (s.line l).actions.get j = .forceOpen g.val bands mask ∧ bands.getLsbD b.val = true ∧ has mask k = true := by
  simp only [State.isForced, List.any_eq_true, State.mem_actionsInForce]
  constructor
  · rintro ⟨a, ⟨l, j, hstate, hact⟩, ha⟩
    split at ha
    case h_1 g' bands mask =>
      simp only [Bool.and_eq_true, decide_eq_true_eq] at ha
      obtain ⟨⟨rfl, hband⟩, hmask⟩ := ha
      exact ⟨l, j, bands, mask, hstate, hact, hband, hmask⟩
    case h_2 => simp at ha
  · rintro ⟨l, j, bands, mask, hstate, hact, hband, hmask⟩
    exact ⟨_, ⟨l, j, hstate, hact⟩, by simp [hband, hmask]⟩

/-! ### Wants and holds (R136) -/

theorem wantsGate_of_strong (p : BandParams) (isOpen : Bool) {hold power : Nat} (h : p.tOpen ≤ power) :
    wantsGate p true isOpen hold power = (true, p.hold) := by
  simp [wantsGate, h]

theorem wantsGate_of_kept (p : BandParams) {hold power : Nat} (h : p.tClose ≤ power) :
    wantsGate p true true hold power = (true, p.hold) := by
  simp [wantsGate, h]

/-- No power keeps the gate: the hold alone decides, and counts down. -/
theorem wantsGate_of_weak (p : BandParams) {reported isOpen : Bool} {hold power : Nat}
    (h : reported = false ∨ (power < p.tOpen ∧ (isOpen = false ∨ power < p.tClose))) :
    wantsGate p reported isOpen hold power = (decide (0 < hold), hold - 1) := by
  have hopen : (reported && decide (p.tOpen ≤ power)) = false := by
    obtain rfl | ⟨hlow, -⟩ := h
    · rfl
    · simp [hlow]
  have hkept : (reported && isOpen && decide (p.tClose ≤ power)) = false := by
    obtain rfl | ⟨-, rfl | hlow⟩ := h
    · rfl
    · simp
    · simp [hlow]
  rw [wantsGate, hopen, hkept]
  cases hold <;> simp

theorem State.want_of_candidate {k : Fin 24} (h : s.isCandidate ga.group k = true) :
    s.want ga b k = wantsGate ((s.grp ga.group).bands.get b) (has ga.contributors k)
      (has ((s.grp ga.group).gates.get b).isOpen k) (((s.grp ga.group).gates.get b).hold.get k) (ga.power b k) := by
  simp [State.want, h]

theorem State.want_of_not_candidate {k : Fin 24} (h : s.isCandidate ga.group k = false) : s.want ga b k = (false, 0) := by
  simp [State.want, h]

/-! ### The order of the wanters (R138) -/

theorem State.rankDegraded_iff (k : Fin 24) : s.rankDegraded ga k = true ↔ (s.sec k).state = .degraded ∨
    ∃ r, ga.reportOf k = some r ∧ (r.feederFault = true ∨ r.unitAlarm = true) := by
  cases h : ga.reportOf k <;> simp [State.rankDegraded, h]

/-- `outranks` reads the degraded sections as a set; the model asks of each section. -/
theorem State.ranksAhead_iff_outranks (j k : Fin 24) :
    s.ranksAhead ga b j k = true ↔ outranks (secSet (s.rankDegraded ga)) (ga.power b) j k := by
  simp only [State.ranksAhead, outranks, has_secSet]
  cases s.rankDegraded ga j <;> cases s.rankDegraded ga k <;>
    by_cases hp : ga.power b j = ga.power b k <;> simp [hp]

/-- A section's place in the order of the wanters: healthy first, then the higher power, then the lower section. -/
def rankKey (degraded : SecSet) (power : Fin 24 → Nat) (k : Fin 24) : Bool ×ₗ ℕᵒᵈ ×ₗ Fin 24 :=
  toLex (has degraded k, toLex (OrderDual.toDual (power k), k))

theorem rankKey_injective (degraded : SecSet) (power : Fin 24 → Nat) : Function.Injective (rankKey degraded power) := by
  intro j k h
  simp only [rankKey, EmbeddingLike.apply_eq_iff_eq, Prod.mk.injEq] at h
  obtain ⟨-, -, hjk⟩ := h
  exact hjk

/-- The order of the wanters is linear. -/
theorem outranks_iff_rankKey_lt (degraded : SecSet) (power : Fin 24 → Nat) (j k : Fin 24) :
    outranks degraded power j k ↔ rankKey degraded power j < rankKey degraded power k := by
  simp [outranks, rankKey, Prod.Lex.toLex_lt_toLex, Bool.lt_iff]

/-- Members of `T` that each have fewer than `n` members of `T` before them are at most `n`: the last has all others before it. -/
theorem card_le_of_few_before {α κ : Type} [DecidableEq α] [LinearOrder κ] {key : α → κ} (hkey : Function.Injective key)
    {S T : Finset α} {n : Nat} (hsub : S ⊆ T) (hfew : ∀ k ∈ S, (T.filter fun j => key j < key k).card < n) : S.card ≤ n := by
  obtain rfl | hne := S.eq_empty_or_nonempty
  · simp
  obtain ⟨last, hlast, hmax⟩ := S.exists_max_image key hne
  have hbefore : S.erase last ⊆ T.filter fun j => key j < key last := by
    intro j hj
    obtain ⟨hj, hS⟩ := Finset.mem_erase.mp hj
    exact Finset.mem_filter.mpr ⟨hsub hS, lt_of_le_of_ne (hmax j hS) fun h => hj (hkey h)⟩
  have hcard := Finset.card_le_card hbefore
  have := hfew last hlast
  rw [Finset.card_erase_of_mem hlast] at hcard
  omega

/-! ### The gate map (R137 to R139) -/

theorem State.has_forced (k : Fin 24) :
    has (s.gateMap ga b).forced k = (s.isForced ga.group b k && (s.sec k).state.eligible) := has_secSet _ k

theorem State.has_opened (k : Fin 24) :
    has (s.gateMap ga b).opened k = (has (s.gateMap ga b).forced k || s.openedByRank ga b k) := by
  simp [State.gateMap, State.forcedSet]

theorem State.has_denied (k : Fin 24) :
    has (s.gateMap ga b).denied k = (s.isWanter ga b k && !s.openedByRank ga b k) := has_secSet _ k

theorem State.isWanter_eq (k : Fin 24) :
    s.isWanter ga b k = ((s.want ga b k).1 && !has (s.gateMap ga b).forced k) := by
  simp [State.isWanter, State.gateMap, State.forcedSet]

/-- Among the wanters, to be denied is not to be opened. -/
theorem State.has_denied_iff (k : Fin 24) : has (s.gateMap ga b).denied k = true ↔
    s.isWanter ga b k = true ∧ has (s.gateMap ga b).opened k = false := by
  simp only [State.has_denied, State.has_opened, State.isWanter_eq]
  cases has (s.gateMap ga b).forced k <;> simp

theorem State.openedByRank_iff (k : Fin 24) : s.openedByRank ga b k = true ↔
    s.isWanter ga b k = true ∧ s.aheadOf ga b k < s.budget ga.group b := by
  simp [State.openedByRank]

theorem State.aheadOf_eq_length (k : Fin 24) : s.aheadOf ga b k =
    ((List.finRange 24).filter fun j => s.isWanter ga b j &&
      decide (outranks (secSet (s.rankDegraded ga)) (ga.power b) j k)).length := by
  simp only [State.aheadOf, ← State.ranksAhead_iff_outranks, Bool.decide_eq_true]

theorem State.aheadOf_eq_card (k : Fin 24) : s.aheadOf ga b k =
    ((Finset.univ.filter fun j => s.isWanter ga b j = true).filter fun j =>
      rankKey (secSet (s.rankDegraded ga)) (ga.power b) j < rankKey (secSet (s.rankDegraded ga)) (ga.power b) k).card := by
  simp only [State.aheadOf, length_filter_finRange, Finset.filter_filter, Bool.and_eq_true,
    State.ranksAhead_iff_outranks, outranks_iff_rankKey_lt]

theorem State.budget_eq :
    s.budget ga.group b = ((s.grp ga.group).bands.get b).budget - card (s.gateMap ga b).forced := rfl

/-- The wanters opened by rank stay within the budget that the forced sections leave. -/
theorem State.card_openedByRank_le :
    (Finset.univ.filter fun k => s.openedByRank ga b k = true).card ≤ s.budget ga.group b := by
  refine card_le_of_few_before (rankKey_injective (secSet (s.rankDegraded ga)) (ga.power b))
    (T := Finset.univ.filter fun j => s.isWanter ga b j = true) (fun k hk => ?_) fun k hk => ?_
  · obtain ⟨hwant, -⟩ := (s.openedByRank_iff ga b k).mp (Finset.mem_filter.mp hk).2
    simpa using hwant
  · obtain ⟨-, hahead⟩ := (s.openedByRank_iff ga b k).mp (Finset.mem_filter.mp hk).2
    rwa [State.aheadOf_eq_card] at hahead

theorem State.card_opened_le : card (s.gateMap ga b).opened ≤
    max ((s.grp ga.group).bands.get b).budget (card (s.gateMap ga b).forced) := by
  have hsplit : card (s.gateMap ga b).opened ≤ card (s.gateMap ga b).forced + s.budget ga.group b := by
    simp only [card_eq, State.has_opened, Bool.or_eq_true, Finset.filter_or]
    exact (Finset.card_union_le _ _).trans (Nat.add_le_add_left (s.card_openedByRank_le ga b) _)
  rw [State.budget_eq] at hsplit
  omega

/-- Settles O33: the wanters and the degraded sections are the model's own, as sets. -/
theorem gatesFollowTheTable : Obligations.GatesFollowTheTable := by
  unfold Obligations.GatesFollowTheTable
  rintro ga b s p hold rfl rfl
  refine ⟨fun _ => rfl, fun _ => rfl, fun k => s.want_of_not_candidate ga b, ?strong, ?kept, ?weak, ?forced, ?map,
    s.card_opened_le ga b, rfl, fun k => Table.get_ofFn _ k⟩
  case strong =>
    intro k hcand hrep hpow
    rw [s.want_of_candidate ga b hcand, hrep, wantsGate_of_strong _ _ hpow]
  case kept =>
    intro k hcand hrep _ hopen hpow
    rw [s.want_of_candidate ga b hcand, hrep, hopen, wantsGate_of_kept _ hpow]
  case weak =>
    intro k hcand hweak
    rw [s.want_of_candidate ga b hcand, wantsGate_of_weak _ hweak]
  case forced =>
    intro k
    rw [State.has_forced, Bool.and_eq_true, State.isForced_iff, and_comm]
  case map =>
    refine ⟨secSet (s.isWanter ga b), secSet (s.rankDegraded ga), fun k => ?_, fun k => ?_, fun k => ?_, fun k => ?_⟩
    · simp [State.isWanter_eq]
    · rw [has_secSet, State.rankDegraded_iff]
    · simp only [State.has_opened, Bool.or_eq_true, State.openedByRank_iff, State.aheadOf_eq_length,
        State.budget_eq, has_secSet]
    · rw [has_secSet, State.has_denied_iff]

end Sys2Proof.Machine
end


section
/-! PROOFS. One step of the machine: every command but the two of the RESET pin as the effect it has where its event can occur, the
frame of every effect, and the invariant that every effect, the end of every command and RESET keep. -/

namespace Sys2Proof.Machine

/-! ### The effect of a command -/

/-- The condition under which the event of a command can occur, and its effect there before the end of every command. RESET and
RESET_RELEASE have no end of command and stand aside. -/
def State.effect (s : State) (c : Instr) : Bool × State :=
  match c with
  | .reset => (false, s)
  | .resetRelease _ _ => (false, s)
  | .hostWrite b => (s.path.txn.isNone, if s.drained.isSome then s.holdTxn (.write b) else s.presentWrite b)
  | .heldWriteAccepted => (s.heldWrite.isSome, s.acceptHeld)
  | .hostRead b => (s.path.txn.isNone, if s.drained.isSome then s.holdTxn (.unclassified b) else s.presentRead b)
  | .outputReadReleased => (s.releaseDue, s.releaseRead)
  | .writeTaken err => (s.headOnPort, s.takeHead err)
  | .poolRecordGiven => (s.poolReady, s.givePool)
  | .readServed err => (s.readOnPort.isSome, s.serveRead err)
  | .resultWriteComplete err => (s.resultOnPort, s.resultWritten err)
  | .clipBlockLineComplete err => ((s.clipOnPort.bind ClipFetch.blockOf).isSome, s.clipLineRead err)
  | .listLineReadComplete err => ((s.clipOnPort.bind ClipFetch.listOf).isSome, s.listLineRead err)
  | .lossTimerExpiry k => (s.lossDue k, s.loseSec k)
  | .watchdogExpiry => (s.watchdogDue, s.loseReference)
  | .freeRunTime => (s.freeRunDue, s.freeRunEvent)
  | .gatherDeadline g n => ((s.expiredGather g n).isSome, s.expireGather g n)
  | .inputEvent k high => ((s.line k).high != high, s.inputChange k high)
  | .debounceExpiry k => (s.debounceDue k, s.activateLine k)
  | .clipFenceUp => (s.fenceReady, s.fenceUp)
  | .argumentReadComplete err => (s.argsOnPort, s.argsRead err)
  | .reload => (s.handed 1, s.beginLoad)
  | .planFetchComplete err => (s.lineOnPort.isSome, s.planLineRead err)
  | .swapChannelStop => (s.flushed.isSome, s.swapStop)
  | .activationStep => (s.drained.isSome, s.activateStaged)
  | .updateSection err => (s.updating 3, s.entryLineRead 3 err)
  | .updateGroup err => (s.updating 4, s.entryLineRead 4 err)
  | .updateChannel err => (s.updating 5, s.entryLineRead 5 err)
  | .updateLine err => (s.updating 6, s.entryLineRead 6 err)
  | .start => (s.handed 3, s.startChange)
  | .stop => (s.handed 4, s.hostStop (byteAt s.theChange.arg1 0))
  | .continueChannel => (s.handed 5, s.hostContinue (byteAt s.theChange.arg1 0))
  | .ack => (s.handed 6, s.hostAck (byteAt s.theChange.arg1 0))
  | .quiesce => (s.handed 7, (s.setStage .quiescing).flushPool)
  | .quiesceStop => (s.quiesced, s.haltPart)
  | .resume => (s.handed 8, s.resumePart)
  | .writeBackComplete err => (s.writeBackOnPort, s.changeEnded err)
  | .headerFieldWriteComplete err => (s.fieldOnPort.isSome, s.fieldWritten err)
  | .mirrorWriteComplete err => (s.mirrorOnPort, s.mirrorWritten err)
  | .logRecordWriteComplete err => (s.recordOnPort, s.recordWritten err)
  | .headerBurstComplete err => (s.headerOnPort.isSome, s.headerWritten err)

/-- The command belongs to the RESET pin. -/
def ofResetPin : Instr → Bool
  | .reset => true
  | .resetRelease _ _ => true
  | _ => false

theorem exec_reset (s : State) : exec .reset s = .next s.resetState := rfl

theorem exec_resetRelease (m : BitVec 2) (levels : BitVec 6) (s : State) :
    exec (.resetRelease m levels) s = .next (if s.inReset then s.released m levels else s) := rfl

theorem exec_malformed {c : Instr} (s : State) (h : c.wf = false) : exec c s = .fault .malformedBurst := by
  cases c with
  | hostWrite b => exact if_neg (by simp [h])
  | hostRead b => exact if_neg (by simp [h])
  | _ => exact Bool.noConfusion h

/-- A well-formed command that is not of the RESET pin is its effect, in the form of `act`. -/
theorem exec_eq_act {c : Instr} (s : State) (hw : c.wf = true) (hp : ofResetPin c = false) :
    exec c s = act s (s.effect c).1 (s.effect c).2 := by
  cases c with
  | hostWrite b => exact if_pos hw
  | hostRead b => exact if_pos hw
  | reset => exact absurd hp (by decide)
  | resetRelease m l => exact absurd hp (by simp [ofResetPin])
  | _ => rfl

/-- What a command can do: RESET, its release, nothing, or its effect and then the end of every command. -/
theorem exec_cases {c : Instr} {s t : State} (h : exec c s = .next t) :
    (c = .reset ∧ t = s.resetState) ∨
    (∃ m l, c = .resetRelease m l ∧ s.inReset = true ∧ t = s.released m l) ∨ t = s ∨
    (c.wf = true ∧ s.inReset = false ∧ (s.effect c).1 = true ∧ t = (s.effect c).2.settle) := by
  by_cases hp : ofResetPin c = true
  · cases c with
    | reset => exact .inl ⟨rfl, (Host.Outcome.next.inj h).symm⟩
    | resetRelease m l =>
      rw [exec_resetRelease] at h
      split at h
      · exact .inr (.inl ⟨m, l, rfl, ‹_›, (Host.Outcome.next.inj h).symm⟩)
      · exact .inr (.inr (.inl (Host.Outcome.next.inj h).symm))
    | _ => exact Bool.noConfusion hp
  · by_cases hw : c.wf = true
    · rw [exec_eq_act s hw (by simpa using hp)] at h
      unfold act at h
      split at h
      · rename_i ho
        simp only [Bool.and_eq_true, Bool.not_eq_true'] at ho
        exact .inr (.inr (.inr ⟨hw, ho.1, ho.2, (Host.Outcome.next.inj h).symm⟩))
      · exact .inr (.inr (.inl (Host.Outcome.next.inj h).symm))
    · rw [exec_malformed s (by simpa using hw)] at h
      cases h

/-- Settles O2: a well-formed command is of the RESET pin or has the form of `act`, and both answer a next state. -/
theorem commandsAnswer : Obligations.CommandsAnswer := by
  intro c s
  refine ⟨fun hw => ?_, exec_malformed s⟩
  by_cases hp : ofResetPin c = false
  · exact ⟨_, exec_eq_act s hw hp⟩
  · cases c with
    | reset => exact ⟨_, rfl⟩
    | resetRelease m l => exact ⟨_, rfl⟩
    | _ => exact absurd rfl hp

/-! ### Frames of the effects -/

theorem State.effect_frame (s : State) (c : Instr) (ho : (s.effect c).1 = true) :
    Frame (changedBy c) s (s.effect c).2 := by
  cases c with
  | reset => cases ho
  | resetRelease m l => cases ho
  | hostWrite b => exact .ite ((s.holdTxn_frame _).wide rfl) (s.presentWrite_frame b)
  | heldWriteAccepted => exact s.acceptHeld_frame
  | hostRead b => exact .ite ((s.holdTxn_frame _).wide rfl) (s.presentRead_frame b)
  | outputReadReleased => exact s.releaseRead_frame
  | writeTaken err => exact s.takeHead_frame err
  | poolRecordGiven => exact s.givePool_frame
  | readServed err => exact s.serveRead_frame err
  | resultWriteComplete err => exact s.resultWritten_frame err
  | clipBlockLineComplete err => exact s.clipLineRead_frame err
  | listLineReadComplete err => exact s.listLineRead_frame err
  | lossTimerExpiry k => exact s.loseSec_frame k
  | watchdogExpiry => exact s.loseReference_frame
  | freeRunTime => exact s.freeRunEvent_frame
  | gatherDeadline g n => exact s.expireGather_frame g n
  | inputEvent k high => exact s.inputChange_frame k high
  | debounceExpiry k => exact s.activateLine_frame k
  | clipFenceUp => exact s.fenceUp_frame
  | argumentReadComplete err => exact s.argsRead_frame err (s.argsOnPort_cells ho)
  | reload => exact s.beginLoad_frame
  | planFetchComplete err => exact s.planLineRead_frame err
  | swapChannelStop => exact s.swapStop_frame
  | activationStep => exact s.activateStaged_frame
  | updateSection err => exact s.updateSection_frame err (s.updating_cells ho)
  | updateGroup err => exact s.updateGroup_frame err (s.updating_cells ho)
  | updateChannel err => exact s.updateChannel_frame err (s.updating_cells ho)
  | updateLine err => exact s.updateLine_frame err (s.updating_cells ho)
  | start => exact s.hostStart_frame _ _ _ _ _
  | stop => exact s.hostStop_frame _
  | continueChannel => exact s.hostContinue_frame _
  | ack => exact s.hostAck_frame _
  | quiesce => exact (s.setStage_frame .quiescing).append (s.setStage .quiescing).flushPool_frame
  | quiesceStop => exact s.haltPart_frame
  | resume => exact s.resumePart_frame
  | writeBackComplete err => exact s.changeEnded_frame err
  | headerFieldWriteComplete err => exact s.fieldWritten_frame err
  | mirrorWriteComplete err => exact s.mirrorWritten_frame err
  | logRecordWriteComplete err => exact s.recordWritten_frame err
  | headerBurstComplete err => exact s.headerWritten_frame err

/-- Settles O3: RESET and its release by their own frames, every other command by the frame of its effect and of the end of every
command. -/
theorem commandFrames : Obligations.CommandFrames := by
  intro c s t h
  rcases exec_cases h with ⟨rfl, rfl⟩ | ⟨m, l, rfl, -, rfl⟩ | rfl | ⟨-, -, ho, rfl⟩
  · exact s.resetState_frame
  · exact s.released_frame m l
  · exact .refl _ _
  · exact (s.effect_frame c ho).trans ((State.settle_frame _).mono (by simp))

/-! ### The step -/

/-- Settles O1: `step` by the front of the queue, then by the due command. -/
theorem stepTakesFrontCommand : Obligations.StepTakesFrontCommand := by
  refine ⟨fun c s rest => rfl, fun s hq => ⟨fun c hc => ?_, fun hc hr => ?_, fun hr => ?_⟩⟩
  · simp [step, hq, hc]
  · simp [step, hq, hc, State.tick, hr]
  · have hc : s.dueCommand = none := if_pos hr
    simp [step, hq, hc, State.tick, hr]

/-- What a step does: a command on a state that differs from this one in its waiting commands alone, a microsecond of the timebase,
or nothing. -/
theorem step_cases {s t : State} (h : step s = .next t) :
    (∃ c q, exec c { s with pending := q } = .next t) ∨ t = { s with now := s.now + 1 } ∨ t = s := by
  unfold step at h
  split at h
  · exact .inl ⟨_, _, h⟩
  · split at h
    · exact .inl ⟨_, s.pending, h⟩
    · have ht := (Host.Outcome.next.inj h).symm
      unfold State.tick at ht
      split at ht
      · exact .inr (.inr ht)
      · exact .inr (.inl ht)

/-- The induction of every invariant, once: a condition that reads neither the waiting commands nor the timebase is kept by every
step when RESET, its release, the end of every command and every effect keep it. -/
theorem step_keeps {P : State → Prop} (hqueue : ∀ s q, P s → P { s with pending := q })
    (htick : ∀ s n, P s → P { s with now := n }) (hreset : ∀ s, P s → P s.resetState)
    (hrelease : ∀ s m l, P s → P (s.released m l)) (hsettle : ∀ s, P s → P s.settle)
    (heffect : ∀ (c : Instr) (s : State), c.wf = true → (s.effect c).1 = true → P s → P (s.effect c).2) :
    ∀ s t, P s → step s = .next t → P t := by
  intro s t hs h
  rcases step_cases h with ⟨c, q, hc⟩ | rfl | rfl
  · have hq := hqueue s q hs
    rcases exec_cases hc with ⟨-, rfl⟩ | ⟨m, l, -, -, rfl⟩ | rfl | ⟨hw, -, ho, rfl⟩
    · exact hreset _ hq
    · exact hrelease _ m l hq
    · exact hq
    · exact hsettle _ (heffect c _ hw ho hq)
  · exact htick s _ hs
  · exact hs

end Sys2Proof.Machine
end


section
/-! PROOFS. The deadlines of the sections, the timing record and the lines (chapters 01, 03 and 09): what each operation of these
blocks leaves in the records, and that every step keeps each deadline with the states that have it. -/

namespace Sys2Proof.Machine

variable {s t : State}

/-! ### The section records -/

@[simp] theorem State.putSec_sec (s : State) (k : Fin 24) (r : SectionRec) : (s.putSec k r).sec k = r := by
  simp [State.putSec]

@[simp] theorem State.putSec_sec_ne (s : State) {j k : Fin 24} (r : SectionRec) (h : k ≠ j) :
    (s.putSec k r).sec j = s.sec j := by
  simp [State.putSec, h]

@[simp] theorem State.moveSec_sec (s : State) (k : Fin 24) (r : SectionRec) (n : SectionState) (u : SecCause) :
    (s.moveSec k r n u).sec k = { r with state := n, transitions := bump r.transitions } := by
  simp [State.moveSec]

@[simp] theorem State.moveSec_sec_ne (s : State) {j k : Fin 24} (r : SectionRec) (n : SectionState) (u : SecCause)
    (h : k ≠ j) : (s.moveSec k r n u).sec j = s.sec j := by
  simp [State.moveSec, h]

/-- A step that leaves the section table alone leaves each record alone. -/
theorem Frame.sec_eq {l : List Part} (h : Frame l s t) (hl : Part.within [.sections] l = false) (k : Fin 24) :
    t.sec k = s.sec k := by
  have hs : t.sections = s.sections := h.same .sections hl
  simp [State.sec, hs]

/-- The record of the section that an uplink write is heard from (R4 to R7). -/
theorem State.superviseSec_sec (s : State) (k : Fin 24) (f : Option (Bool × Bool)) (h : (s.sec k).state ≠ .disabled) :
    (s.superviseSec k f).sec k = (s.sec k).hears s.now f := by
  unfold State.superviseSec SectionRec.hears
  cases f with
  | none =>
    cases hs : (s.sec k).state with
    | disabled => exact absurd hs h
    | _ => simp [SectionRec.heard, SectionRec.refreshed, lossDeadline, heardState, bump, hs] <;>
        cases (s.sec k).feederFault <;> cases (s.sec k).unitAlarm <;> simp
  | some p =>
    obtain ⟨a, b⟩ := p
    cases hs : (s.sec k).state with
    | disabled => exact absurd hs h
    | _ => cases a <;> cases b <;>
        simp [SectionRec.heard, SectionRec.refreshed, lossDeadline, heardState, bump, hs]

/-- An uplink write changes no record but that of the section it is heard from, and none at all of a DISABLED one (R5). -/
theorem State.superviseSec_sec_ne (s : State) {j k : Fin 24} (f : Option (Bool × Bool))
    (h : k ≠ j ∨ (s.sec k).state = .disabled) : (s.superviseSec k f).sec j = s.sec j := by
  unfold State.superviseSec
  dsimp only
  by_cases hd : (s.sec k).state = .disabled
  · rw [hd]
  · have hj : k ≠ j := h.resolve_right hd
    split
    · rfl
    · simp [hj]
    · simp [hj]
    · split <;> simp [hj]
    · split <;> simp [hj]

/-- The records after a section is lost (R9). -/
theorem State.loseSec_sec (s : State) (k j : Fin 24) : (s.loseSec k).sec j =
    if k = j then { s.sec k with deadline := none, state := .lost, transitions := bump (s.sec k).transitions }
    else s.sec j := by
  unfold State.loseSec
  rw [(State.clearGates_frame _ k).sec_eq rfl, (State.leaveExpected_frame _ k).sec_eq rfl]
  by_cases h : k = j
  · subst h; simp
  · simp [h]

/-- The records after a section is disabled (R14). -/
theorem State.disableSec_sec (s : State) (k : Fin 24) (timeout : Nat) (j : Fin 24) : (s.disableSec k timeout).sec j =
    if k = j then { s.sec k with
      enabled := false, lossTimeout := timeout, deadline := none, feederFault := false, unitAlarm := false
      state := .disabled, transitions := bump (s.sec k).transitions }
    else s.sec j := by
  unfold State.disableSec
  rw [(State.clearSection_frame _ k).sec_eq rfl, (State.clearGates_frame _ k).sec_eq rfl,
    (State.leaveExpected_frame _ k).sec_eq rfl]
  by_cases h : k = j
  · subst h; simp
  · simp [h]

/-! ### The sections' deadlines -/

theorem bump_le (n : Nat) : bump n ≤ 65535 := Nat.min_le_right _ _

/-- A clamped value lies in its range. -/
theorem clampC_range {lo hi : Nat} (v : Nat) (h : lo ≤ hi) : lo ≤ (clampC lo hi v).1 ∧ (clampC lo hi v).1 ≤ hi := by
  unfold clampC
  split
  · exact ⟨Nat.le_refl _, h⟩
  · split
    · exact ⟨h, Nat.le_refl _⟩
    · omega

theorem parseSection_range (b : List Byte) : 5 ≤ (parseSection b).1.2 ∧ (parseSection b).1.2 ≤ 500 :=
  clampC_range _ (by decide)

theorem SectionInv.frame {l : List Part} (h : SectionInv s) (f : Frame l s t) (hl : Part.within [.sections] l = false) :
    SectionInv t := fun k => by
  rw [f.sec_eq hl]
  exact h k

/-- The condition after a step that replaces one section's record. -/
theorem SectionInv.of_one (h : SectionInv s) (k : Fin 24) (hk : (t.sec k).ok) (hj : ∀ j, k ≠ j → t.sec j = s.sec j) :
    SectionInv t := fun j => by
  by_cases e : k = j
  · exact e ▸ hk
  · rw [hj j e]; exact h j

theorem SectionRec.ok.hears {r : SectionRec} (h : r.ok) (hd : r.state ≠ .disabled) (now : Nat) (f : Option (Bool × Bool)) :
    (r.hears now f).ok := by
  obtain ⟨hdis, hdead, htrans, hlo, hhi⟩ := h
  have hen : r.enabled = true := by
    cases he : r.enabled with
    | true => rfl
    | false => exact absurd (hdis.mpr he) hd
  have hstate : (r.hears now f).state ≠ .disabled ∧ (r.hears now f).state ≠ .lost := by
    simp only [SectionRec.hears]
    split
    · split <;> simp
    · rename_i h
      exact ⟨hd, fun e => h (.inr (.inl e))⟩
  refine ⟨iff_of_false hstate.1 (fun e => absurd (hen.symm.trans e) (by decide)), ?_, ?_, hlo, hhi⟩
  · change some _ = if (r.enabled && (r.hears now f).state != .lost) = true then some _ else none
    rw [if_pos (by simp [hen, hstate.2])]
    rfl
  · change (if (r.hears now f).state = r.state then r.transitions else min (r.transitions + 1) 65535) ≤ 65535
    split
    · exact htrans
    · exact Nat.min_le_right _ _

theorem SectionInv.superviseSec (h : SectionInv s) (k : Fin 24) (f : Option (Bool × Bool)) :
    SectionInv (s.superviseSec k f) := by
  by_cases hd : (s.sec k).state = .disabled
  · intro j
    rw [s.superviseSec_sec_ne f (.inr hd)]
    exact h j
  · refine h.of_one k ?_ fun j hj => s.superviseSec_sec_ne f (.inl hj)
    rw [s.superviseSec_sec k f hd]
    exact (h k).hears hd _ _

theorem SectionInv.superviseWrite (h : SectionInv s) (g : Fin 12) (b : WriteBurst) : SectionInv (s.superviseWrite g b) := by
  unfold State.superviseWrite
  split
  · exact h.superviseSec _ _
  · exact h

/-- An enabled section is one whose timer runs or that is LOST (R4, R9). -/
theorem SectionRec.ok.enabled_of_deadline {r : SectionRec} (h : r.ok) (hd : r.deadline.isSome = true) : r.enabled = true := by
  obtain ⟨-, hdead, -⟩ := h
  rw [hdead] at hd
  split at hd
  · simp_all
  · cases hd

theorem SectionInv.loseSec (h : SectionInv s) (k : Fin 24) (hen : (s.sec k).enabled = true) : SectionInv (s.loseSec k) := by
  refine h.of_one k ?_ fun j hj => by rw [State.loseSec_sec, if_neg hj]
  obtain ⟨-, -, -, hlo, hhi⟩ := h k
  rw [State.loseSec_sec, if_pos rfl]
  exact ⟨by simp [hen], by simp, bump_le _, hlo, hhi⟩

theorem SectionInv.retimeSec (h : SectionInv s) (k : Fin 24) (hen : (s.sec k).enabled = true) {timeout : Nat}
    (hlo : 5 ≤ timeout) (hhi : timeout ≤ 500) : SectionInv (s.retimeSec k timeout) := by
  obtain ⟨hdis, hdead, htrans, -, -⟩ := h k
  have hput : SectionInv (s.putSec k { s.sec k with
      lossTimeout := timeout, deadline := (s.sec k).deadline.map fun _ => lossDeadline (s.sec k).refresh timeout }) := by
    refine h.of_one k ?_ fun j hj => State.putSec_sec_ne _ _ hj
    rw [State.putSec_sec]
    refine ⟨hdis, ?_, htrans, hlo, hhi⟩
    rw [hdead]
    split <;> rfl
  unfold State.retimeSec
  dsimp only
  split
  · exact hput.loseSec k (by rw [State.putSec_sec]; exact hen)
  · exact hput

theorem SectionInv.applySection (h : SectionInv s) (k : Fin 24) (enabled : Bool) {timeout : Nat}
    (hlo : 5 ≤ timeout) (hhi : timeout ≤ 500) : SectionInv (s.applySection k enabled timeout) := by
  obtain ⟨hdis, hdead, htrans, -, -⟩ := h k
  unfold State.applySection
  split
  · exact h.retimeSec k ‹_› hlo hhi
  · refine h.of_one k ?_ fun j hj => by rw [State.disableSec_sec, if_neg hj]
    rw [State.disableSec_sec, if_pos rfl]
    exact ⟨by simp, by simp, bump_le _, hlo, hhi⟩
  · refine h.of_one k ?_ fun j hj => State.moveSec_sec_ne _ _ _ _ hj
    simp only [State.enableSec, State.moveSec_sec]
    exact ⟨by simp, by simp [lossDeadline], bump_le _, hlo, hhi⟩
  · rename_i hen
    refine h.of_one k ?_ fun j hj => State.putSec_sec_ne _ _ hj
    rw [State.putSec_sec]
    rw [if_neg (by simp [hen])] at hdead
    exact ⟨hdis, by simp [hen, hdead], htrans, hlo, hhi⟩

/-- A condition that pieces of state outside a frame decide is kept through the reads of an UPDATE's entry, when it is kept by what
the owner of the table does with the entry (R173). -/
theorem State.entryLineRead_keeps {P : State → Prop} (x : Fin 7) (err : Bool)
    (hframe : ∀ {u v : State}, P u → Frame (.memory :: .change :: errorParts) u v → P v)
    (hhand : ∀ (u : State) (i : Nat) (b : List Byte), P u → P (u.handEntry x i b)) (h : P s) :
    P (s.entryLineRead x err) := by
  have hc : P (s.complete err) := hframe h ((s.complete_frame err).wide rfl)
  unfold State.entryLineRead
  dsimp only
  split
  · exact hframe hc ((State.fetchFailed_frame _ _).wide rfl)
  · split
    · exact hframe hc (((State.setStage_frame _ _).wide rfl).trans ((State.planOut_frame _ _).mono (by simp)))
    · exact hhand _ _ _ hc

/-- After the activation step has installed the plan's tables and evaluated the lines, it touches the plan unit's own state and the
log. -/
theorem State.activate_reloaded_frame (s : State) (pt : PlanTables) (n : Nat) :
    Frame [.partState, .generation, .lastError, .change, .logQueue, .lostCount]
      ((List.finRange 6).foldl (reloadLine pt) (s.installTables pt)) (s.activate pt n) := by
  unfold State.activate
  dsimp only
  have hgen (u : State) : Frame [.partState, .generation, .lastError, .change, .logQueue, .lostCount] u
      { u with plan := { u.plan with generation := wrap16 u.plan.generation, lastError := .none } } := by
    intro p hp
    cases p <;> first | exact absurd (by decide) hp | simp [Same, State.chan, State.line]
  have hpart := State.setPartState_frame ((List.finRange 6).foldl (reloadLine pt) (s.installTables pt)) .running
  have hlog := ((hpart.wide rfl).trans (hgen _)).trans
    (((State.logLoaded_frame _ s.plan.partState n).wide rfl).trans ((State.markAll_frame _).mono (by simp)))
  split
  · exact (hlog.trans ((State.writeGen_frame _).mono (by simp))).trans ((State.finish_frame _ _).wide rfl)
  · exact (hlog.trans (((State.writeState_frame _).mono (by simp)).trans ((State.writeGen_frame _).mono (by simp)))).trans
      ((State.finish_frame _ _).wide rfl)

/-- After the activation step has installed the plan's tables, it touches the lines, the playout unit, and the plan unit's own
state. -/
theorem State.activate_installed_frame (s : State) (pt : PlanTables) (n : Nat) :
    Frame (.partState :: .generation :: .lastError :: lineParts) (s.installTables pt) (s.activate pt n) :=
  (Frame.foldl (reloadLine pt) (fun s k => (reloadLine_frame s pt k).wide rfl) (List.finRange 6) _).trans
    ((s.activate_reloaded_frame pt n).wide rfl)

/-- A section stands after a swap as R3 initialises it. -/
theorem swappedSection_ok (r : SectionRec) (en : Bool) {timeout : Nat} (now : Nat)
    (hlo : 5 ≤ timeout) (hhi : timeout ≤ 500) : (swappedSection en timeout now r).ok := by
  cases en <;> simp [SectionRec.ok, swappedSection, lossDeadline, hlo, hhi]

theorem SectionInv.activateStaged (h : SectionInv s) : SectionInv s.activateStaged := by
  unfold State.activateStaged
  split
  · rename_i p _
    have hin : SectionInv (s.installTables p.1.tables) := fun k => by
      have hr := parseSection_range (entryOf 3 p.1.tables.secs k.val)
      simpa [State.installTables, State.sec, PlanTables.sectionTable] using
        swappedSection_ok (s.sec k) (parseSection (entryOf 3 p.1.tables.secs k.val)).1.1 s.now hr.1 hr.2
    exact (hin.frame (s.activate_installed_frame _ _) rfl).frame (State.classifyDeferred_frame _) rfl
  · exact h

/-- A condition is kept by a taken write when it is kept by what its region's watcher does with it, and reads no piece of state that
the rest of the write may change (R25 to R29). -/
theorem State.takeHead_keeps {P : State → Prop} (err : Bool)
    (hframe : ∀ {u v : State}, P u →
      Frame ([.memory, .queue, .change, .draws, .logIndices, .classCounts, .attn] ++ errorParts) u v → P v)
    (hwatch : ∀ (u : State) (e : QEntry), P u → P (u.watchRegion e)) (h : P s) : P (s.takeHead err) := by
  unfold State.takeHead
  split
  · exact hframe (hwatch _ _ (hframe h (((s.complete_frame err).wide rfl).trans ((State.noteLost_frame _ _ _).wide rfl))))
      (((State.watchWords_frame _ _).wide rfl).trans ((State.popHead_frame _).wide rfl))
  · exact h

theorem SectionInv.watchRegion (h : SectionInv s) (e : QEntry) : SectionInv (s.watchRegion e) := by
  unfold State.watchRegion
  split
  · exact h.frame (State.programmeWrite_frame _ _ _) rfl
  · exact (h.superviseWrite _ _).frame (State.gatherWrite_frame _ _ _) rfl
  all_goals exact h

/-! ### A fetched entry by its table (R173) -/

theorem State.handEntry_section (s : State) (i : Nat) (b : List Byte) : s.handEntry 3 i b =
    match toFin? 24 i with
    | some k => ((s.applySection k (parseSection b).1.1 (parseSection b).1.2).logClamped (parseSection b).2).finish .done
    | none => s.finish .badArgument := by
  unfold State.handEntry
  cases toFin? 24 i <;> rfl

theorem State.handEntry_group (s : State) (i : Nat) (b : List Byte) : s.handEntry 4 i b =
    match toFin? 12 i with
    | some g =>
      if (s.grp g).accepts (parseGroup b).1 then ((s.applyGroup g (parseGroup b).1).logClamped (parseGroup b).2).finish .done
      else s.finish .badArgument
    | none => s.finish .badArgument := by
  unfold State.handEntry
  cases toFin? 12 i <;> rfl

theorem State.handEntry_channel (s : State) (i : Nat) (b : List Byte) : s.handEntry 5 i b =
    match toFin? 4 i with
    | some c => ((s.applyChannel c (parseChannel b).1).logClamped (parseChannel b).2).finish .done
    | none => s.finish .badArgument := by
  unfold State.handEntry
  cases toFin? 4 i <;> rfl

theorem State.handEntry_line (s : State) (i : Nat) (b : List Byte) : s.handEntry 6 i b =
    match toFin? 6 i with
    | some k => ((s.applyLine k (fun l => l.withEntry (parseLine b).1) .update).logClamped (parseLine b).2).finish .done
    | none => s.finish .badArgument := by
  unfold State.handEntry
  cases toFin? 6 i <;> rfl

theorem SectionInv.handEntry (u : State) (i : Nat) (b : List Byte) (h : SectionInv u) : SectionInv (u.handEntry 3 i b) := by
  rw [State.handEntry_section]
  split
  · have hr := parseSection_range b
    exact ((h.applySection _ _ hr.1 hr.2).frame (State.logClamped_frame _ _) rfl).frame (State.finish_frame _ _) rfl
  · exact h.frame (State.finish_frame _ _) rfl

theorem SectionInv.effect (c : Instr) (ho : (s.effect c).1 = true) (h : SectionInv s) : SectionInv (s.effect c).2 := by
  cases c with
  | reset => cases ho
  | resetRelease m l => cases ho
  | writeTaken err => exact State.takeHead_keeps err (fun h f => h.frame f rfl) (fun _ e h => h.watchRegion e) h
  | lossTimerExpiry k =>
    refine h.loseSec k ((h k).enabled_of_deadline ?_)
    simp only [State.effect, State.lossDue, reached] at ho
    split at ho
    · rename_i e; simp [e]
    · cases ho
  | activationStep => exact h.activateStaged
  | updateSection err =>
    exact State.entryLineRead_keeps 3 err (fun h f => h.frame f rfl) SectionInv.handEntry h
  | _ => exact h.frame (s.effect_frame _ ho) rfl

theorem SectionInv.reset (s : State) : SectionInv s.resetState := fun k => by
  simp [State.sec, State.resetState, State.reset, SectionRec.ok, SectionRec.atReset]

/-- The sections' part of O8. -/
theorem step_keeps_sectionInv : ∀ s t : State, SectionInv s → step s = .next t → SectionInv t :=
  step_keeps (fun _ _ h => h) (fun _ _ h => h) (fun s _ => .reset s) (fun _ _ _ h => h)
    (fun _ h => h.frame (State.settle_frame _) rfl) (fun c _ _ ho h => h.effect c ho)

/-! ### The timing record -/

theorem TimingInv.frame {l : List Part} (h : TimingInv s) (f : Frame l s t) (hl : Part.within [.timing] l = false) :
    TimingInv t := by
  obtain ⟨href, htiming, hwatchdog, hnext, hcount⟩ : Same .timing s t := f.same .timing hl
  unfold TimingInv
  rw [href, htiming, hwatchdog, hnext, hcount]
  exact h

/-- An advance of the reference in LOCKED leaves the timing record in its relation, whatever the watchdog was before (R47). -/
theorem lockedAdvance_timingInv (hlock : s.tracker.timing = .locked) (hnext : s.tracker.nextFree = none)
    (href : s.tracker.reference.isSome = true) (hcount : s.tracker.freeCount ≤ 65535) : TimingInv s.lockedAdvance := by
  obtain ⟨hr, -⟩ : Same .timing s s.blockTime := s.blockTime_frame.same .timing rfl
  have href' : s.lockedAdvance.tracker.reference = s.tracker.reference := hr
  obtain ⟨htiming, hnext', hcount'⟩ := s.lockedAdvance_timing
  refine ⟨?_, ?_, fun _ => href' ▸ href, hcount' ▸ hcount⟩
  · simp [htiming, hlock, s.lockedAdvance_watchdog]
  · simp [htiming, hlock, hnext', hnext]

theorem TimingInv.lockedAdvance (h : TimingInv s) (hlock : s.tracker.timing = .locked) : TimingInv s.lockedAdvance := by
  obtain ⟨-, -, href, hcount⟩ := id h
  exact lockedAdvance_timingInv hlock (h.nextFree_of_locked hlock) (href hlock) hcount

theorem TimingInv.regainReference (h : TimingInv s) (p : Fin 6) (href : s.tracker.reference = some p) :
    TimingInv (s.regainReference p) := by
  obtain ⟨-, -, -, hcount⟩ := h
  exact lockedAdvance_timingInv rfl rfl (by simp [href]) hcount

theorem TimingInv.headAdvance (h : TimingInv s) (p : Fin 6) (n : Nat) : TimingInv (s.headAdvance p n) := by
  have hset : TimingInv (s.setHead p n) := h.frame (s.setHead_frame p n) rfl
  unfold State.headAdvance
  dsimp only
  split
  · split
    · exact hset.lockedAdvance ‹_›
    · exact hset.regainReference p ‹_›
    · exact hset
  · exact hset

/-- The state in which the reference has just been lost, REFERENCE_LOST logged, before the block-time event (R48). -/
def State.referenceGone (s : State) : State :=
  match s.tracker.reference with
  | some p => State.log { s with tracker := { s.tracker with timing := .freeRun, watchdog := none } } .referenceLost p.val
      (s.prog p).headWord (wNat ((s.prog p).lastAdvance / 1000))
  | none => { s with tracker := { s.tracker with timing := .freeRun, watchdog := none } }

theorem State.loseReference_eq (s : State) : s.loseReference = { s.referenceGone.blockTime with
    tracker := { s.referenceGone.blockTime.tracker with freeCount := 1, nextFree := some (s.now + freeRunPeriod) } } := rfl

theorem State.referenceGone_tracker (s : State) :
    s.referenceGone.tracker = { s.tracker with timing := .freeRun, watchdog := none } := by
  unfold State.referenceGone
  split <;> rfl

/-- A lost reference leaves the timing record in its relation, whatever it was before (R48). -/
theorem loseReference_timingInv (s : State) : TimingInv s.loseReference := by
  obtain ⟨-, ht, hw, -, -⟩ : Same .timing s.referenceGone s.referenceGone.blockTime :=
    (State.blockTime_frame _).same .timing rfl
  simp [TimingInv, State.loseReference_eq, ht, hw, State.referenceGone_tracker]

theorem TimingInv.freeRunEvent (h : TimingInv s) : TimingInv s.freeRunEvent := by
  obtain ⟨hwatchdog, hnext, href, -⟩ := h.frame s.blockTime_frame rfl
  exact ⟨hwatchdog, by simpa [State.freeRunEvent] using hnext, href, bump_le _⟩

theorem swappedTracker_timing (progs : Table ProgRec 6) (reference : Option (Fin 6)) (now : Nat)
    (h : t.tracker = swappedTracker progs reference now) : TimingInv t := by
  unfold TimingInv
  rw [h]
  cases reference <;> simp [swappedTracker]

theorem TimingInv.watchRegion (h : TimingInv s) (e : QEntry) : TimingInv (s.watchRegion e) := by
  unfold State.watchRegion
  split
  · unfold State.programmeWrite
    dsimp only
    split
    · exact h.headAdvance _ _
    · exact h
  · exact (h.frame (State.superviseWrite_frame _ _ _) rfl).frame (State.gatherWrite_frame _ _ _) rfl
  all_goals exact h

theorem TimingInv.activateStaged (h : TimingInv s) : TimingInv s.activateStaged := by
  unfold State.activateStaged
  split
  · exact ((swappedTracker_timing _ _ _ rfl : TimingInv (s.installTables _)).frame
      (s.activate_installed_frame _ _) rfl).frame (State.classifyDeferred_frame _) rfl
  · exact h

theorem TimingInv.effect (c : Instr) (ho : (s.effect c).1 = true) (h : TimingInv s) : TimingInv (s.effect c).2 := by
  cases c with
  | reset => cases ho
  | resetRelease m l => cases ho
  | writeTaken err => exact State.takeHead_keeps err (fun h f => h.frame f rfl) (fun _ e h => h.watchRegion e) h
  | watchdogExpiry => exact loseReference_timingInv s
  | freeRunTime => exact h.freeRunEvent
  | activationStep => exact h.activateStaged
  | _ => exact h.frame (s.effect_frame _ ho) rfl

theorem TimingInv.reset (s : State) : TimingInv s.resetState := by
  simp [TimingInv, State.resetState, State.reset, Tracker.atReset]

theorem step_keeps_timingInv : ∀ s t : State, TimingInv s → step s = .next t → TimingInv t :=
  step_keeps (fun _ _ h => h) (fun _ _ h => h) (fun s _ => .reset s) (fun _ _ _ h => h)
    (fun _ h => h.frame (State.settle_frame _) rfl) (fun c _ _ ho h => h.effect c ho)

/-! ### The line records -/

/-- A step that leaves the lines alone but for their requests leaves each line's record so. -/
theorem Frame.sameLine {l : List Part} (h : Frame l s t) (hl : Part.within [.lines] l = false) (j : Fin 6) :
    (t.line j).sameLine (s.line j) := by
  rw [h.line_still _ hl j]
  rfl

theorem LineRec.sameLine.trans {l m n : LineRec} (h : l.sameLine m) (g : m.sameLine n) : l.sameLine n := Eq.trans h g

theorem LineRec.sameLine.ok {l m : LineRec} (h : l.sameLine m) (hm : m.ok) : l.ok := by
  rw [h.eq]
  exact hm

/-- A request changes every line's record in its request status and channel alone (R151). -/
theorem State.requestBreakin_sameLine (s : State) (k : Fin 6) (i : Fin 3) (j : Fin 6) :
    ((s.requestBreakin k i).line j).sameLine (s.line j) := by
  unfold State.requestBreakin
  dsimp only
  split
  · rename_i c a m p rep _
    have hset : ((s.setLine k { s.line k with reqChannel := toFin? 4 c }).line j).sameLine (s.line j) := by
      by_cases h : k = j
      · subst h; simp [LineRec.sameLine]
      · simp [h, LineRec.sameLine]
    have hreq (q : ReqStatus) :=
      (State.lineRequest_frame (s.setLine k { s.line k with reqChannel := toFin? 4 c }) k c a m p rep).trans
        ((State.setRequest_frame _ k q).wide rfl)
    split
    · exact (((hreq _).trans ((State.logRefusedAction_frame _ _ _ _ _).wide rfl)).sameLine rfl j).trans hset
    · exact ((hreq _).sameLine rfl j).trans hset
  · rfl

theorem State.rerequest_sameLine (s : State) (k j : Fin 6) : ((s.rerequest k).line j).sameLine (s.line j) := by
  unfold State.rerequest
  dsimp only
  split
  · split
    · exact s.requestBreakin_sameLine k _ j
    · rfl
  · rfl

theorem handleAction_sameLine (s : State) (k : Fin 6) (i : Fin 3) (j : Fin 6) :
    ((handleAction k s i).line j).sameLine (s.line j) := by
  have hlog (a : Action) (n : Nat) : ((s.logRefusedAction k i.val a n).line j).sameLine (s.line j) :=
    (State.logRefusedAction_frame _ _ _ _ _).sameLine rfl j
  unfold handleAction
  dsimp only
  split
  · rfl
  · split
    · split
      · exact s.requestBreakin_sameLine k i j
      · rfl
    · exact hlog _ _
  · split
    · rfl
    · exact hlog _ _
  · split
    · rfl
    · exact hlog _ _
  · exact hlog _ _

theorem resumeLine_sameLine (s : State) (k j : Fin 6) : ((resumeLine s k).line j).sameLine (s.line j) := by
  unfold resumeLine
  split
  · exact s.requestBreakin_sameLine k _ j
  · rfl

/-- A line withdrawn changes the other lines in their request statuses alone (R155). -/
theorem State.withdrawLine_sameLine (s : State) {j k : Fin 6} (h : k ≠ j) :
    ((s.withdrawLine k).line j).sameLine (s.line j) := by
  unfold State.withdrawLine
  dsimp only
  rw [State.putLine_line_ne _ _ h]
  have hput (l : LineRec) : ((s.putLine k l).line j).sameLine (s.line j) := by
    rw [State.putLine_line_ne _ _ h]; rfl
  split
  · split
    · exact ((State.withdrawRequest_frame _ k _).sameLine rfl j).trans (hput _)
    · exact hput _
  · exact hput _

/-- Requests and records that fall due change line records in request status and channel alone, so a condition on line records
that reads neither is kept along a list of such steps. -/
theorem sameLine_foldl {α : Type} (f : State → α → State) (h : ∀ s a j, ((f s a).line j).sameLine (s.line j)) (l : List α)
    (s : State) (j : Fin 6) : ((l.foldl f s).line j).sameLine (s.line j) := by
  induction l generalizing s with
  | nil => rfl
  | cons a l ih => exact (ih (f s a)).trans (h s a j)

/-! ### The lines' deadlines -/

theorem LineInv.sameLine (h : LineInv s) (hl : ∀ j, (t.line j).sameLine (s.line j)) : LineInv t := fun j => (hl j).ok (h j)

theorem LineInv.frame {l : List Part} (h : LineInv s) (f : Frame l s t) (hl : Part.within [.lines] l = false) : LineInv t :=
  h.sameLine (f.sameLine hl)

theorem LineInv.putLine (h : LineInv s) (k : Fin 6) {l : LineRec} (hl : l.ok) : LineInv (s.putLine k l) := fun j => by
  by_cases e : k = j
  · subst e; rw [State.putLine_line]; exact hl
  · rw [State.putLine_line_ne _ _ e]; exact h j

theorem LineInv.logLine (h : LineInv s) (k : Fin 6) (o : LineState) (u : LineCause) : LineInv (s.logLine k o u) :=
  h.frame (s.logLine_frame k o u) rfl

/-- A line that is QUIET with no deadline and no acknowledgement stands in the relation. -/
theorem LineRec.ok_of_quiet {l : LineRec} (hs : l.state = .quiet) (hd : l.deadline = none) (ha : l.acked = false) : l.ok := by
  simp [LineRec.ok, hs, hd, ha]

theorem LineRec.evaluated_ok {l : LineRec} (ha : l.acked = false) (now : Nat) : (l.evaluated now).ok := by
  unfold LineRec.evaluated
  split
  · rename_i hen
    rw [Bool.and_eq_true] at hen
    simp [LineRec.ok, hen.1]
  · exact LineRec.ok_of_quiet rfl rfl ha

theorem LineRec.ok.acked_eq {l : LineRec} (h : l.ok) (hs : l.state ≠ .active) : l.acked = false := by
  obtain ⟨-, -, hack⟩ := h
  exact Bool.eq_false_iff.mpr fun e => hs (hack e)

theorem LineRec.ok.enabled_eq {l : LineRec} (h : l.ok) (hs : l.state ≠ .quiet) : l.enabled = true := by
  obtain ⟨hen, -⟩ := h
  by_contra e
  exact hs (hen (by simpa using e))

theorem LineInv.withdrawLine (h : LineInv s) (k : Fin 6) : LineInv (s.withdrawLine k) := fun j => by
  by_cases e : k = j
  · subst e
    rw [State.withdrawLine_line]
    exact LineRec.ok_of_quiet rfl rfl rfl
  · exact (s.withdrawLine_sameLine e).ok (h j)

theorem LineInv.lineInput (h : LineInv s) (k : Fin 6) : LineInv (s.lineInput k) := by
  have hk := h k
  obtain ⟨hen, hdead, hack⟩ := id hk
  unfold State.lineInput
  dsimp only
  split
  · rename_i hs _
    exact (h.putLine k (LineRec.evaluated_ok (hk.acked_eq (by simp [hs])) _)).logLine _ _ _
  · rename_i hs _
    have hq := h.putLine k (l := { s.line k with state := .quiet, deadline := none })
      (LineRec.ok_of_quiet rfl rfl (hk.acked_eq (by simp [hs])))
    exact (hq.frame (State.log_frame _ _ _ _ _) rfl).logLine _ _ _
  · rename_i hs _
    split
    · exact (h.withdrawLine k).logLine _ _ _
    · rename_i ha
      refine (h.putLine k ?_).logLine _ _ _
      have henabled := hk.enabled_eq (by simp [hs])
      rw [hs] at hdead
      simp [LineRec.ok, henabled, hdead, ha]
  · rename_i hs _
    have hput : LineInv (s.putLine k { s.line k with state := .active }) := by
      refine h.putLine k ?_
      have henabled := hk.enabled_eq (by simp [hs])
      rw [hs] at hdead
      simp [LineRec.ok, henabled, hdead]
    exact (hput.sameLine fun j => State.rerequest_sameLine _ k j).logLine _ _ _
  · exact h

theorem LineInv.inputChange (h : LineInv s) (k : Fin 6) (high : Bool) : LineInv (s.inputChange k high) := by
  have hset : LineInv (s.setLine k { s.line k with high := high }) := fun j => by
    by_cases e : k = j
    · subst e; simpa [LineRec.ok] using h k
    · simpa [e] using h j
  unfold State.inputChange
  dsimp only
  split
  · exact hset.lineInput k
  · exact hset

theorem LineInv.activateLine (h : LineInv s) (k : Fin 6) (hs : (s.line k).state = .debounce) : LineInv (s.activateLine k) := by
  have hput : LineInv (s.putLine k { s.line k with state := .active, deadline := none }) := by
    refine h.putLine k ?_
    simp [LineRec.ok, (h k).enabled_eq (by simp [hs])]
  exact (hput.sameLine fun j => sameLine_foldl _ (fun s i j => handleAction_sameLine s k i j) _ _ j).logLine _ _ _

theorem LineInv.hostAck (h : LineInv s) (n : Nat) : LineInv (s.hostAck n) := by
  unfold State.hostAck
  split
  · exact h.frame (s.finish_frame _) rfl
  · split
    · exact h.frame (s.finish_frame _) rfl
    · exact h.frame (s.finish_frame _) rfl
    · rename_i k _ _ hs
      obtain ⟨hen, hdead, -⟩ := h k
      refine (h.putLine k ?_).frame (State.finish_frame _ _) rfl
      exact ⟨hen, hdead, fun _ => hs⟩
    · exact ((h.withdrawLine _).logLine _ _ _).frame (State.finish_frame _ _) rfl

theorem LineInv.applyLine (h : LineInv s) (k : Fin 6) (set : LineRec → LineRec)
    (hset : ∀ l : LineRec, l.acked = false → (set l).acked = false) (u : LineCause) : LineInv (s.applyLine k set u) := by
  unfold State.applyLine
  dsimp only
  generalize hw : (if (s.line k).state.inForce = true then (s.withdrawLine k).logLine k (s.line k).state u else s) = v
  have hv : LineInv v ∧ (v.line k).acked = false := by
    subst hw
    split
    · exact ⟨(h.withdrawLine k).logLine _ _ _, by rw [State.logLine_line, State.withdrawLine_line]⟩
    · rename_i hn
      exact ⟨h, (h k).acked_eq fun e => by simp [e, LineState.inForce] at hn⟩
  have hput := hv.1.putLine k (LineRec.evaluated_ok (hset _ hv.2) s.now)
  split
  · exact hput
  · exact hput.logLine _ _ _

theorem LineInv.resumePart (h : LineInv s) : LineInv s.resumePart := by
  have hmark : LineInv ((s.setPartState .running).mark 0) :=
    (h.frame (s.setPartState_frame .running) rfl).frame (State.mark_frame _ _) rfl
  unfold State.resumePart
  dsimp only
  refine LineInv.frame (LineInv.frame ?_ (State.writeState_frame _) rfl) (State.finish_frame _ _) rfl
  exact LineInv.sameLine (s := (s.setPartState .running).mark 0) hmark fun j => sameLine_foldl _ resumeLine_sameLine _ _ j

theorem LineRec.reloaded_acked (l : LineRec) (e : LineEntry) : (l.reloaded e).acked = false := rfl

theorem LineInv.reloadLine (h : LineInv s) (pt : PlanTables) (k : Fin 6) : LineInv (reloadLine pt s k) :=
  h.applyLine k (fun l => l.reloaded (parseLine (entryOf 6 pt.lines k.val)).1) (fun l _ => l.reloaded_acked _) .reload

theorem LineInv.activateStaged (h : LineInv s) : LineInv s.activateStaged := by
  unfold State.activateStaged
  split
  · rename_i p _
    have hlines (l : List (Fin 6)) (u : State) (hu : LineInv u) :
        LineInv (l.foldl (Machine.reloadLine p.1.tables) u) := by
      induction l generalizing u with
      | nil => exact hu
      | cons k l ih => exact ih _ (hu.reloadLine _ k)
    have hin : LineInv (s.installTables p.1.tables) := h.frame (s.installTables_frame _) rfl
    exact ((hlines _ _ hin).frame (s.activate_reloaded_frame _ _) rfl).frame (State.classifyDeferred_frame _) rfl
  · exact h

theorem LineInv.handEntry (u : State) (i : Nat) (b : List Byte) (h : LineInv u) : LineInv (u.handEntry 6 i b) := by
  rw [State.handEntry_line]
  split
  · have happly := h.applyLine ‹Fin 6› (fun l => l.withEntry (parseLine b).1) (fun _ e => e) .update
    exact (happly.frame (State.logClamped_frame _ _) rfl).frame (State.finish_frame _ _) rfl
  · exact h.frame (State.finish_frame _ _) rfl

theorem LineInv.effect (c : Instr) (ho : (s.effect c).1 = true) (h : LineInv s) : LineInv (s.effect c).2 := by
  cases c with
  | reset => cases ho
  | resetRelease m l => cases ho
  | inputEvent k high => exact h.inputChange k high
  | debounceExpiry k =>
    simp only [State.effect, State.debounceDue, Bool.and_eq_true, decide_eq_true_eq] at ho
    exact h.activateLine k ho.1
  | activationStep => exact h.activateStaged
  | updateLine err =>
    exact State.entryLineRead_keeps 6 err (fun h f => h.frame f rfl) LineInv.handEntry h
  | ack => exact h.hostAck _
  | resume => exact h.resumePart
  | _ => exact h.frame (s.effect_frame _ ho) rfl

theorem LineInv.reset (s : State) : LineInv s.resetState := fun k => by
  simp [State.line, State.resetState, LineRec.ok, LineRec.atReset]

theorem LineInv.released (h : LineInv s) (m : BitVec 2) (levels : BitVec 6) : LineInv (s.released m levels) := fun k => by
  simpa [State.line, State.released, LineRec.ok] using h k

theorem step_keeps_lineInv : ∀ s t : State, LineInv s → step s = .next t → LineInv t :=
  step_keeps (fun _ _ h => h) (fun _ _ h => h) (fun s _ => .reset s) (fun _ m l h => h.released m l)
    (fun _ h => h.frame (State.settle_frame _) rfl) (fun c _ _ ho h => h.effect c ho)

/-- Settles O8: each of the three conditions is kept by every effect, by cases on the commands that reach its records. -/
theorem stepKeepsDeadlines : Obligations.StepKeepsDeadlines :=
  ⟨step_keeps_sectionInv, fun s t h e => ⟨step_keeps_timingInv s t h.1 e, step_keeps_lineInv s t h.2 e⟩⟩

end Sys2Proof.Machine
end


section
/-! PROOFS. What every operation of the break-in mixer, the playout unit, the incident unit and the programme tracker keeps, stated
once: a condition that the basic updates keep is kept by every operation composed of them. -/

namespace Sys2Proof.Machine

/-! ### Break-in records (R81) -/

/-- The step of a ramp is in the range of a gain (R82). -/
theorem rampStep_le (d ramp : Nat) : rampStep d ramp ≤ 32768 := by
  unfold rampStep
  split
  · decide
  · rcases Nat.eq_zero_or_pos ramp with rfl | h
    · simp
    · have hx : (32768 - d + (ramp - 1)) / ramp ≤ 32768 - d := by
        rcases Nat.eq_zero_or_pos (32768 - d) with h0 | h0
        · rw [h0, Nat.zero_add, Nat.div_eq_of_lt (by omega)]
        · rw [Nat.div_le_iff_le_mul_add_pred h]
          nlinarith
      omega

theorem moveGain_le {g target : Nat} (step : Nat) (hg : g ≤ 32768) (ht : target ≤ 32768) : moveGain g target step ≤ 32768 := by
  unfold moveGain
  split <;> omega

theorem BreakRec.ok.withActive {b : BreakRec} (h : b.ok) (c : Fin 4) (e : Option (Fin 4)) :
    ({ b with active := some c, suspended := e, st := .settling } : BreakRec).ok := by
  obtain ⟨hgain, hrestore, -⟩ := h
  exact ⟨hgain, hrestore, by simp, by simp, by simp⟩

theorem BreakRec.ok.withSuspended {b : BreakRec} (h : b.ok) (ha : b.active.isSome = true) (e : Option (Fin 4)) :
    ({ b with suspended := e } : BreakRec).ok := by
  obtain ⟨hgain, hrestore, hclear, hheld, hrest⟩ := h
  refine ⟨hgain, hrestore, fun hs => ?_, hheld, fun hs => ?_⟩
  · simp [(hclear hs).1] at ha
  · simp [(hrest hs).1] at ha

theorem BreakRec.ok.dropSuspended {b : BreakRec} (h : b.ok) : ({ b with suspended := none } : BreakRec).ok := by
  obtain ⟨hgain, hrestore, hclear, hheld, hrest⟩ := h
  exact ⟨hgain, hrestore, fun hs => ⟨(hclear hs).1, rfl, (hclear hs).2.2⟩, hheld, fun hs => ⟨(hrest hs).1, rfl⟩⟩

theorem BreakRec.ok.stepped {s : State} {k : Fin 24} (h : (s.brk k).ok) (hd : ∀ c, s.duck c ≤ 32768) : (s.stepped k).ok := by
  obtain ⟨hgain, hrestore, hclear, hheld, hrest⟩ := id h
  unfold State.stepped
  dsimp only
  split
  · rename_i c hs ha
    refine ⟨moveGain_le _ hgain (hd c), hrestore, ?_, fun _ => by simp [ha], ?_⟩ <;> dsimp only <;> split <;> simp
  · rename_i c hs ha
    split
    · exact h
    · exact ⟨hgain, hrestore, by simp, fun _ => by simp [ha], by simp⟩
  · rename_i hs
    obtain ⟨ha, hsusp⟩ := hrest hs
    exact ⟨Nat.min_le_left _ _, hrestore, fun hc => ⟨ha, hsusp, by by_contra e; simp [e] at hc⟩, by dsimp only; split <;> simp,
      fun _ => ⟨ha, hsusp⟩⟩
  · exact h

/-! ### Conditions that the basic updates keep -/

/-- A begin is allowed: for a condition that speaks of the clip fence, where the fence is UP (R67). -/
def State.mayBegin (fenced : Bool) (s : State) : Prop := fenced = true → s.path.fence = .up

/-- A condition is kept by the basic updates of the playout unit, the mixer, the incident unit, the tracker, the plan unit and the
report unit. `fenced` says that it speaks of the clip fence, so that channels go live under an UP fence alone. -/
structure PlayoutKeeps (fenced : Bool) (P : State → Prop) : Prop where
  report : ∀ {s : State} (r : Report), P s → P { s with report := r }
  plan : ∀ {s : State} (p : PlanUnit), P s → P { s with plan := p }
  lines : ∀ {s : State} (l : Table LineRec 6), P s → P { s with lines := l }
  free : ∀ {s : State} (n : Nat), P s → P { s with free := n }
  tracker : ∀ {s : State} (x : Tracker), P s → P { s with tracker := x }
  armed : ∀ {s : State} (a : Table Bool 4), P s → P { s with mixer := { s.mixer with armed := a } }
  order : ∀ {s : State} (o : List (Fin 4)), P s → P { s with playout := { s.playout with waitOrder := o } }
  brk : ∀ {s : State} (k : Fin 24) (b : BreakRec),
    ((∀ c, s.duck c ≤ 32768) → (s.brk k).ok → b.ok) → P s → P (s.setBrk k b)
  chan : ∀ {s : State} (c : Fin 4) (r : Chan), r.defaults = (s.chan c).defaults →
    (r.st.live = true → (s.chan c).st.live = true) → (r.waiting.isSome = true → (s.chan c).waiting.isSome = true) →
    P s → P (s.setChan c r)
  begin : ∀ {s : State} (c : Fin 4) (r : Chan), r.defaults = (s.chan c).defaults → s.mayBegin fenced → P s → P (s.setChan c r)
  live : ∀ {s : State} (c : Fin 4), (s.chan c).st.live = true → P s → s.mayBegin fenced
  await : ∀ {s : State} (c : Fin 4) (st : Start) (f : Fence), s.path.fence ≠ .up → f ≠ .down →
    (f = .up → s.clipQueued = false) → P s →
    P { s.setChan c { s.chan c with waiting := some st } with path := { s.path with fence := f } }
  openUp : ∀ {s : State}, s.clipQueued = false → P s → P { s with path := { s.path with fence := .up } }
  lower : ∀ {s : State}, s.noStarts = true → P s → P { s with path := { s.path with fence := .down } }

namespace PlayoutKeeps

variable {fenced : Bool} {P : State → Prop} (K : PlayoutKeeps fenced P) {s : State}
include K

/-! ### Reports, lines and changes -/

theorem log (k : LogKind) (n : Nat) (d1 d2 : Word) (h : P s) : P (s.log k n d1 d2) := K.report _ h

theorem mark (m : Nat) (h : P s) : P (s.mark m) := K.report _ h

theorem markIf (b : Bool) (m : Nat) (h : P s) : P (s.markIf b m) := K.report _ h

theorem setLine (k : Fin 6) (l : LineRec) (h : P s) : P (s.setLine k l) := K.lines _ h

theorem putLine (k : Fin 6) (l : LineRec) (h : P s) : P (s.putLine k l) := K.markIf _ _ (K.setLine k l h)

theorem setRequest (k : Fin 6) (st : ReqStatus) (h : P s) : P (s.setRequest k st) := K.markIf _ _ (K.setLine k _ h)

theorem tellOwner (o : Option Owner) (st : ReqStatus) (h : P s) : P (s.tellOwner o st) := by
  unfold State.tellOwner
  split
  · exact K.setRequest _ _ h
  · exact h

theorem finish (r : ResultCode) (h : P s) : P (s.finish r) := K.plan _ h

theorem setStage (st : Stage) (h : P s) : P (s.setStage st) := K.plan _ h

theorem setArmed (c : Fin 4) (v : Bool) (h : P s) : P (s.setArmed c v) := K.armed _ h

omit K in
theorem foldl {α : Type} (f : State → α → State) (hf : ∀ s a, P s → P (f s a)) (l : List α) (h : P s) : P (l.foldl f s) := by
  induction l generalizing s with
  | nil => exact h
  | cons a l ih => exact ih (hf s a h)

/-! ### The mixer -/

theorem putBrk (k : Fin 24) (b : BreakRec) (hb : (∀ c, s.duck c ≤ 32768) → (s.brk k).ok → b.ok) (h : P s) : P (s.putBrk k b) :=
  K.markIf _ _ (K.brk k b hb h)

theorem dropSuspended (k : Fin 24) (e : Option (Fin 4)) (c : Fin 4) (p : Nat) (h : P s) : P (s.dropSuspended k e c p) := by
  unfold State.dropSuspended
  split
  · exact K.log _ _ _ _ h
  · exact h

theorem joinSection (c : Fin 4) (p : Nat) (k : Fin 24) (h : P s) : P (joinSection c p s k) := by
  unfold Machine.joinSection
  dsimp only
  split
  · exact h
  · split
    · exact K.putBrk _ _ (fun _ hb => hb.withActive _ _) h
    · rename_i ha
      split
      · exact K.dropSuspended _ _ _ _ (K.putBrk _ _ (fun _ hb => hb.withActive _ _) h)
      · split
        · exact K.dropSuspended _ _ _ _ (K.putBrk _ _ (fun _ hb => hb.withSuspended (by simp [ha]) _) h)
        · exact K.log _ _ _ _ h

theorem join (c : Fin 4) (m : SecSet) (p : Nat) (h : P s) : P (s.join c m p) :=
  K.setArmed _ _ (foldl _ (fun _ k => K.joinSection c p k) _ h)

theorem releaseSection (c : Fin 4) (k : Fin 24) (h : P s) : P (releaseSection c s k) := by
  unfold Machine.releaseSection
  dsimp only
  split
  · split
    · exact K.putBrk _ _ (fun _ hb => hb.withActive _ _) h
    · rename_i hs
      refine K.putBrk _ _ (fun _ hb => ?_) h
      obtain ⟨hgain, -⟩ := hb
      exact ⟨hgain, rampStep_le _ _, by simp, by simp, fun _ => ⟨rfl, hs⟩⟩
  · split
    · exact K.putBrk _ _ (fun _ hb => hb.dropSuspended) h
    · exact h

theorem release (c : Fin 4) (h : P s) : P (s.release c) := foldl _ (fun _ k => K.releaseSection c k) _ h

theorem clearSection (k : Fin 24) (h : P s) : P (s.clearSection k) :=
  K.putBrk _ _ (fun _ hb => by obtain ⟨-, hrestore, -⟩ := hb; exact ⟨Nat.le_refl _, hrestore, by simp, by simp, by simp⟩) h

theorem clearAll (h : P s) : P s.clearAll := K.armed _ (foldl _ (fun _ k => K.clearSection k) _ h)

theorem stepGains (m : SecSet) (h : P s) : P (s.stepGains m) :=
  foldl _ (fun _ k => K.putBrk k _ fun hd hb => hb.stepped hd) _ h

/-! ### Channels -/

theorem putChan (c : Fin 4) (r : Chan) (hd : r.defaults = (s.chan c).defaults)
    (hl : r.st.live = true → (s.chan c).st.live = true) (hw : r.waiting.isSome = true → (s.chan c).waiting.isSome = true)
    (h : P s) : P (s.putChan c r) := K.markIf _ _ (K.chan c r hd hl hw h)

theorem logChan (c : Fin 4) (o : ChanState) (u : ChanCause) (h : P s) : P (s.logChan c o u) := K.log _ _ _ _ h

/-- A live channel moves to another state. -/
theorem putChanState (c : Fin 4) (st : ChanState) (u : ChanCause) (hl : (s.chan c).st.live = true) (h : P s) :
    P (s.putChanState c st u) :=
  K.logChan _ _ _ (K.putChan _ _ rfl (fun _ => hl) (fun e => e) h)

theorem requestLine (c : Fin 4) (k : Nat) (h : P s) : P (s.requestLine c k) := by
  unfold State.requestLine
  dsimp only
  split
  · exact K.chan _ _ rfl (fun e => e) (fun e => e) h
  · exact h

theorem enterLine (c : Fin 4) (k : Nat) (h : P s) : P (s.enterLine c k) :=
  K.requestLine _ _ (K.chan _ _ rfl (fun e => e) (fun e => e) h)

theorem nextEntry (c : Fin 4) (h : P s) : P (s.nextEntry c) := by
  unfold State.nextEntry
  dsimp only
  split
  · exact K.enterLine _ _ (K.chan _ _ rfl (fun e => e) (fun e => e) h)
  · exact K.chan _ _ rfl (fun e => e) (fun e => e) h

/-! ### Begins -/

theorem beginNow (c : Fin 4) (st : Start) (o : ChanState) (u : ChanCause) (hb : s.mayBegin fenced) (h : P s) :
    P (s.beginNow c st o u) := by
  have hput : P (s.putChan c ((s.chan c).begun st (s.alignRow (s.chan c).defaults.ramp))) := K.markIf _ _ (K.begin c _ rfl hb h)
  have hlog := K.logChan c o u (K.join c st.mask st.prio (K.requestLine c 1 (K.requestLine c 0 hput)))
  unfold State.beginNow
  dsimp only
  split
  · exact K.finish _ hlog
  · exact hlog

theorem beginWaiting (c : Fin 4) (hb : s.mayBegin fenced) (h : P s) : P (beginWaiting s c) := by
  unfold Machine.beginWaiting
  split
  · exact K.beginNow _ _ _ _ hb h
  · exact h

end PlayoutKeeps

/-! ### The clip fence under begins -/

@[simp] theorem State.requestLine_path (s : State) (c : Fin 4) (k : Nat) : (s.requestLine c k).path = s.path := by
  unfold State.requestLine
  dsimp only
  split <;> rfl

/-- A begin leaves the memory path alone. -/
@[simp] theorem State.beginNow_path (s : State) (c : Fin 4) (st : Start) (o : ChanState) (u : ChanCause) :
    (s.beginNow c st o u).path = s.path := by
  unfold State.beginNow
  dsimp only
  split <;> simp [State.putChan, State.finish]

@[simp] theorem beginWaiting_path (s : State) (c : Fin 4) : (beginWaiting s c).path = s.path := by
  unfold beginWaiting
  split <;> simp

/-- A channel's begin waits for the clip fence, in the place its channel has in the order of waiting, else at its end (R67). -/
def State.awaiting (s : State) (c : Fin 4) (st : Start) : State :=
  let s1 := s.setChan c { s.chan c with waiting := some st }
  { s1 with playout := { s1.playout with
      waitOrder := if s1.playout.waitOrder.contains c then s1.playout.waitOrder else s1.playout.waitOrder ++ [c] } }

theorem State.requestBegin_up (s : State) (c : Fin 4) (st : Start) (h : s.path.fence = .up) :
    s.requestBegin c st = s.beginNow c st .idle .begin_ := if_pos h

theorem State.requestBegin_wait (s : State) (c : Fin 4) (st : Start) (h : s.path.fence ≠ .up) :
    s.requestBegin c st = (s.awaiting c st).raiseFence := if_neg h

theorem State.raiseFence_raised (s : State) (h : s.path.fence ≠ .down) : s.raiseFence = s := by
  unfold State.raiseFence
  split
  · exact absurd ‹_› h
  · rfl

theorem State.raiseFence_queued (s : State) (h : s.path.fence = .down) (hq : s.clipQueued = true) :
    s.raiseFence = { s with path := { s.path with fence := .raising } } := by
  simp [State.raiseFence, h, hq]

theorem State.raiseFence_clear (s : State) (h : s.path.fence = .down) (hq : s.clipQueued = false) :
    s.raiseFence = s.fenceUp := by
  simp [State.raiseFence, h, hq]

theorem foldBegins_path (l : List (Fin 4)) (s : State) : (l.foldl beginWaiting s).path = s.path := by
  induction l generalizing s with
  | nil => rfl
  | cons c l ih => rw [List.foldl_cons, ih, beginWaiting_path]

namespace PlayoutKeeps

variable {fenced : Bool} {P : State → Prop} (K : PlayoutKeeps fenced P) {s : State}
include K

theorem foldBegins (l : List (Fin 4)) (hb : s.mayBegin fenced) (h : P s) : P (l.foldl Machine.beginWaiting s) := by
  induction l generalizing s with
  | nil => exact h
  | cons c l ih => exact ih (fun hf => by rw [beginWaiting_path]; exact hb hf) (K.beginWaiting c hb h)

/-- The begins that follow a fence that has just become UP. -/
theorem begins (h : P { s with path := { s.path with fence := .up } }) : P s.fenceUp :=
  K.foldBegins _ (fun _ => rfl) (K.order [] h)

theorem fenceUp (hq : s.clipQueued = false) (h : P s) : P s.fenceUp := K.begins (K.openUp hq h)

theorem requestBegin (c : Fin 4) (st : Start) (h : P s) : P (s.requestBegin c st) := by
  by_cases hup : s.path.fence = .up
  · rw [s.requestBegin_up c st hup]
    exact K.beginNow _ _ _ _ (fun _ => hup) h
  · rw [s.requestBegin_wait c st hup]
    have hwait (f : Fence) (hd : f ≠ .down) (hq : f = .up → s.clipQueued = false) :
        P { s.awaiting c st with path := { s.path with fence := f } } := K.order _ (K.await c st f hup hd hq h)
    cases hf : s.path.fence with
    | up => exact absurd hf hup
    | down =>
      cases hq : s.clipQueued with
      | true =>
        rw [(s.awaiting c st).raiseFence_queued hf hq]
        exact hwait .raising (by decide) (by simp)
      | false =>
        rw [(s.awaiting c st).raiseFence_clear hf hq]
        exact K.begins (hwait .up (by decide) fun _ => hq)
    | raising =>
      rw [(s.awaiting c st).raiseFence_raised (by change s.path.fence ≠ .down; rw [hf]; decide)]
      have hw := hwait .raising (by decide) (by simp)
      rw [← hf] at hw
      exact hw

/-! ### Ends and handouts -/

theorem checkFence (h : P s) : P s.checkFence := by
  unfold State.checkFence
  split
  · exact K.lower ‹_› h
  · exact h

theorem without (c : Fin 4) (st : Start) (h : P s) : P (s.setChan c ((s.chan c).without st)) := by
  unfold Chan.without
  split <;> exact K.chan _ _ rfl (fun e => e) (fun e => e) h

theorem handout (c : Fin 4) (h : P s) : P (s.handout c) := by
  unfold State.handout
  split
  · exact K.requestBegin _ _ (K.tellOwner _ _ (K.without _ _ h))
  · exact K.order _ h

theorem endUse (c : Fin 4) (u : ChanCause) (h : P s) : P (s.endUse c u) :=
  K.checkFence (K.handout _ (K.logChan _ _ _
    (K.putChan _ _ rfl (by simp [Chan.ended, ChanState.live]) (fun e => e) (K.tellOwner _ _ (K.release c h)))))

theorem cancelWaiting (c : Fin 4) (u : ChanCause) (h : P s) : P (s.cancelWaiting c u) :=
  K.checkFence (K.handout _ (K.tellOwner _ _ (K.chan _ _ rfl (fun e => e) (by simp) h)))

theorem displace (c : Fin 4) (st : Start) (h : P s) : P (s.displace c st) := by
  unfold State.displace
  split
  · exact K.setRequest _ _ (K.chan _ _ rfl (fun e => e) (fun e => e) h)
  · split
    · exact K.finish _ h
    · exact h

theorem takeover (c : Fin 4) (st : Start) (h : P s) : P (s.takeover c st) := by
  unfold State.takeover
  dsimp only
  split
  · rename_i hl
    have hb := K.live c hl h
    have hpath (o : Owner) : ((s.release c).displace c ((s.chan c).asStart o)).path = s.path := by
      unfold State.displace
      split
      · simp
      · simp [Chan.asStart]
    split
    · exact K.beginNow _ _ _ _ (fun hf => by rw [hpath]; exact hb hf) (K.displace _ _ (K.release c h))
    · exact K.beginNow _ _ _ _ (fun hf => by rw [State.release_path]; exact hb hf) (K.release c h)
  · split
    · rename_i hw
      exact K.displace _ _ (K.chan _ _ rfl (fun e => e) (by simp [hw]) h)
    · exact h

/-! ### The walk -/

theorem listError (c : Fin 4) (r : ListReason) (h : P s) : P (s.listError c r) := K.endUse _ _ (K.log _ _ _ _ h)

theorem passMark (c : Fin 4) (tag e : Nat) (h : P s) : P (s.passMark c tag e) :=
  K.log _ _ _ _ (K.putChan _ _ rfl (fun e => e) (fun e => e) h)

theorem actMarker (c : Fin 4) (m : Marker) (hl : (s.chan c).st.live = true) (h : P s) : P (actMarker c s m) := by
  cases m with
  | mark tag e => exact K.passMark _ _ _ h
  | hold => exact K.putChanState _ _ _ hl h

omit K in
theorem actMarker_live (c : Fin 4) (m : Marker) (hl : (s.chan c).st.live = true) :
    ((Machine.actMarker c s m).chan c).st.live = true := by
  cases m with
  | mark tag e => simpa [Machine.actMarker, State.passMark] using hl
  | hold => simp [Machine.actMarker, State.putChanState, ChanState.live]

theorem actMarkers (c : Fin 4) (ms : List Marker) (hl : (s.chan c).st.live = true) (h : P s) :
    P (ms.foldl (Machine.actMarker c) s) := by
  induction ms generalizing s with
  | nil => exact h
  | cons m ms ih => exact ih (actMarker_live c m hl) (K.actMarker c m hl h)

theorem attachMarker (c : Fin 4) (m : Marker) (hl : (s.chan c).st.live = true) (h : P s) : P (s.attachMarker c m) := by
  unfold State.attachMarker
  dsimp only
  split
  · exact K.chan _ _ rfl (fun e => e) (fun e => e) h
  · exact K.actMarker _ _ hl h

theorem assignBlock (c : Fin 4) (src len : Nat) (h : P s) : P (s.assignBlock c src len) := by
  unfold State.assignBlock
  dsimp only
  split
  · exact K.chan _ _ rfl (fun e => e) (fun e => e) h
  · exact K.nextEntry _ (K.chan _ _ rfl (fun e => e) (fun e => e) h)

theorem meetEnd (c : Fin 4) (h : P s) : P (s.meetEnd c) := by
  unfold State.meetEnd
  dsimp only
  split
  · exact K.chan _ _ rfl (fun e => e) (fun e => e) h
  · split
    · exact K.putChan _ _ rfl (fun e => e) (fun e => e) h
    · split
      · exact K.endUse _ _ (K.chan _ _ rfl (fun e => e) (fun e => e) h)
      · exact K.chan _ _ rfl (fun e => e) (fun e => e) h

theorem meetHold (c : Fin 4) (hl : (s.chan c).st.live = true) (h : P s) : P (s.meetHold c) :=
  K.chan _ _ rfl (fun e => e) (fun e => e) (K.nextEntry _ (K.attachMarker _ _ hl h))

theorem takeEntry (c : Fin 4) (e : ListEntry) (hl : (s.chan c).st.live = true) (h : P s) : P (s.takeEntry c e) := by
  unfold State.takeEntry
  dsimp only
  split
  · split
    · exact K.nextEntry _ h
    · split
      · exact K.assignBlock _ _ _ h
      · exact K.listError _ _ h
  · exact K.nextEntry _ (K.attachMarker _ _ hl h)
  · exact K.meetHold _ hl h
  · exact K.meetEnd _ h
  · exact K.listError _ _ h

theorem walkFor (c : Fin 4) (u fuel : Nat) (h : P s) : P (walkFor c u fuel s) := by
  induction fuel generalizing s with
  | zero => exact h
  | succ fuel ih =>
    unfold Machine.walkFor
    dsimp only
    split
    · exact h
    · rename_i hr
      have hl : (s.chan c).st.live = true := by
        simp only [Chan.walkReady, Bool.or_eq_true, Bool.not_eq_true', not_or, Bool.not_eq_false, Bool.and_eq_true] at hr
        exact hr.2.1.1
      split
      · exact K.listError _ _ h
      · split
        · exact K.listError _ _ h
        · split
          · exact h
          · split
            · exact K.listError _ _ h
            · exact ih (K.takeEntry _ _ hl h)

theorem walk (c : Fin 4) (h : P s) : P (s.walk c) := K.walkFor _ _ _ h

/-! ### Block time -/

theorem advanceChan (c : Fin 4) (h : P s) : P (advanceChan s c) := by
  unfold Machine.advanceChan
  dsimp only
  split
  · exact h
  · rename_i hl
    have hlive : (s.chan c).st.live = true := by simpa using hl
    split
    · exact K.endUse _ _ h
    · have hmoved : P (s.setChan c (s.chan c).movedOn) := K.chan _ _ rfl (fun e => e) (fun e => e) h
      have hmlive : ((s.setChan c (s.chan c).movedOn).chan c).st.live = true := by simpa [Chan.movedOn] using hlive
      have hmarks := K.actMarkers c (((s.chan c).movedOn.slot (s.chan c).i).marks) hmlive hmoved
      split
      · exact K.endUse _ _ hmarks
      · split
        · rename_i hp
          rw [Bool.and_eq_true, decide_eq_true_eq] at hp
          exact K.walk _ (K.putChanState _ _ _ (by rw [hp.1]; rfl) hmarks)
        · exact K.walk _ hmarks

theorem blockTime (h : P s) : P s.blockTime :=
  K.stepGains _ (foldl _ (fun _ c h => K.advanceChan c (K.stepGains _ h)) _ (K.free _ h))

/-! ### Host starts, stops and line requests -/

theorem hostStart (c a : Nat) (m : SecSet) (p r : Nat) (h : P s) : P (s.hostStart c a m p r) := by
  unfold State.hostStart
  split
  · exact K.finish _ h
  · split
    · exact K.finish _ h
    · dsimp only
      split
      · exact K.requestBegin _ _ (K.setStage _ h)
      · split
        · exact K.takeover _ _ (K.setStage _ h)
        · split
          · exact K.finish _ (K.chan _ _ rfl (fun e => e) (fun e => e) h)
          · exact K.finish _ h

theorem lineRequest (k : Fin 6) (c a : Nat) (m : SecSet) (p r : Nat) (h : P s) : P (s.lineRequest k c a m p r).1 := by
  unfold State.lineRequest
  split
  · exact h
  · split
    · exact h
    · dsimp only
      split
      · exact K.requestBegin _ _ h
      · split
        · exact K.takeover _ _ h
        · exact K.chan _ _ rfl (fun e => e) (fun e => e) h

theorem withdrawRequest (k : Fin 6) (c : Fin 4) (h : P s) : P (s.withdrawRequest k c) := by
  unfold State.withdrawRequest
  dsimp only
  split
  · exact K.endUse _ _ h
  · split
    · exact K.cancelWaiting _ _ h
    · exact K.chan _ _ rfl (fun e => e) (fun e => e) h

theorem hostStop (c : Nat) (h : P s) : P (s.hostStop c) := by
  unfold State.hostStop
  split
  · exact K.finish _ h
  · split
    · exact K.finish _ (K.endUse _ _ h)
    · split
      · exact K.finish _ (K.cancelWaiting _ _ h)
      · exact K.finish _ h

theorem hostContinue (c : Nat) (h : P s) : P (s.hostContinue c) := by
  unfold State.hostContinue
  split
  · exact K.finish _ h
  · split
    · rename_i hheld
      refine K.walk _ (K.finish _ (K.putChanState _ _ _ ?_ (K.chan _ _ rfl (fun e => e) (fun e => e) h)))
      simp [Chan.continued, hheld, ChanState.live]
    · exact K.finish _ h

theorem stopAll (h : P s) : P s.stopAll := by
  have hstop (u : State) (c : Fin 4) (hu : P u) : P (stopChan u c) :=
    K.putChan _ _ rfl (by simp [Chan.ended, ChanState.live]) (by simp) hu
  exact K.checkFence (K.order _ (foldl _ (fun _ k => K.setRequest k _) _ (foldl _ hstop _ (K.clearAll h))))

/-! ### The incident unit -/

theorem logLine (k : Fin 6) (o : LineState) (u : LineCause) (h : P s) : P (s.logLine k o u) := K.log _ _ _ _ h

theorem requestBreakin (k : Fin 6) (j : Fin 3) (h : P s) : P (s.requestBreakin k j) := by
  unfold State.requestBreakin
  dsimp only
  split
  · split
    · exact K.log _ _ _ _ (K.setRequest _ _ (K.lineRequest _ _ _ _ _ _ (K.setLine _ _ h)))
    · exact K.setRequest _ _ (K.lineRequest _ _ _ _ _ _ (K.setLine _ _ h))
  · exact h

theorem handleAction (k : Fin 6) (j : Fin 3) (h : P s) : P (handleAction k s j) := by
  unfold Machine.handleAction
  dsimp only
  split
  · exact h
  · split
    · split
      · exact K.requestBreakin _ _ h
      · exact h
    · exact K.log _ _ _ _ h
  · split
    · exact h
    · exact K.log _ _ _ _ h
  · split
    · exact h
    · exact K.log _ _ _ _ h
  · exact K.log _ _ _ _ h

theorem activateLine (k : Fin 6) (h : P s) : P (s.activateLine k) :=
  K.logLine _ _ _ (foldl _ (fun _ j => K.handleAction k j) _ (K.putLine _ _ h))

theorem withdrawLine (k : Fin 6) (h : P s) : P (s.withdrawLine k) := by
  unfold State.withdrawLine
  dsimp only
  split
  · split
    · exact K.putLine _ _ (K.withdrawRequest _ _ (K.putLine _ _ h))
    · exact K.putLine _ _ (K.putLine _ _ h)
  · exact K.putLine _ _ (K.putLine _ _ h)

theorem rerequest (k : Fin 6) (h : P s) : P (s.rerequest k) := by
  unfold State.rerequest
  dsimp only
  split
  · split
    · exact K.requestBreakin _ _ h
    · exact h
  · exact h

theorem lineInput (k : Fin 6) (h : P s) : P (s.lineInput k) := by
  unfold State.lineInput
  dsimp only
  split
  · exact K.logLine _ _ _ (K.putLine _ _ h)
  · exact K.logLine _ _ _ (K.log _ _ _ _ (K.putLine _ _ h))
  · split
    · exact K.logLine _ _ _ (K.withdrawLine _ h)
    · exact K.logLine _ _ _ (K.putLine _ _ h)
  · exact K.logLine _ _ _ (K.rerequest _ (K.putLine _ _ h))
  · exact h

theorem inputChange (k : Fin 6) (high : Bool) (h : P s) : P (s.inputChange k high) := by
  unfold State.inputChange
  dsimp only
  split
  · exact K.lineInput _ (K.setLine _ _ h)
  · exact K.setLine _ _ h

theorem hostAck (n : Nat) (h : P s) : P (s.hostAck n) := by
  unfold State.hostAck
  split
  · exact K.finish _ h
  · split
    · exact K.finish _ h
    · exact K.finish _ h
    · exact K.finish _ (K.putLine _ _ h)
    · exact K.finish _ (K.logLine _ _ _ (K.withdrawLine _ h))

theorem applyLine (k : Fin 6) (set : LineRec → LineRec) (u : LineCause) (h : P s) : P (s.applyLine k set u) := by
  unfold State.applyLine
  dsimp only
  generalize hw : (if (s.line k).state.inForce = true then (s.withdrawLine k).logLine k (s.line k).state u else s) = v
  have hv : P v := by
    subst hw
    split
    · exact K.logLine _ _ _ (K.withdrawLine _ h)
    · exact h
  split
  · exact K.putLine _ _ hv
  · exact K.logLine _ _ _ (K.putLine _ _ hv)

theorem resumeLine (k : Fin 6) (h : P s) : P (resumeLine s k) := by
  unfold Machine.resumeLine
  split
  · exact K.requestBreakin _ _ h
  · exact h

/-! ### The tracker -/

theorem lockedAdvance (h : P s) : P s.lockedAdvance := K.tracker _ (K.blockTime h)

theorem headAdvance (p : Fin 6) (n : Nat) (h : P s) : P (s.headAdvance p n) := by
  have hset : P (s.setHead p n) := K.tracker _ h
  unfold State.headAdvance
  dsimp only
  split
  · split
    · exact K.lockedAdvance hset
    · exact K.lockedAdvance (K.tracker _ (K.log _ _ _ _ hset))
    · exact hset
  · exact hset

theorem programmeWrite (p : Fin 6) (b : WriteBurst) (h : P s) : P (s.programmeWrite p b) := by
  unfold State.programmeWrite
  dsimp only
  split
  · exact K.headAdvance _ _ h
  · exact h

theorem loseReference (h : P s) : P s.loseReference := by
  rw [State.loseReference_eq]
  refine K.tracker _ (K.blockTime ?_)
  unfold State.referenceGone
  split
  · exact K.log _ _ _ _ (K.tracker _ h)
  · exact K.tracker _ h

theorem freeRunEvent (h : P s) : P s.freeRunEvent := K.tracker _ (K.blockTime h)

/-! ### Served reads -/

theorem countClipped (c : Fin 4) (any : Bool) (h : P s) : P (s.countClipped c any) := by
  unfold State.countClipped
  dsimp only
  split
  · exact K.markIf _ _ (K.chan _ _ rfl (fun e => e) (fun e => e) h)
  · exact h

theorem miss (z : State) (c : Fin 4) (k : Fin 24) (u : Int) (late : Bool) (code : Nat) (h : P s) :
    P (s.miss z c k u late code) := by
  unfold State.miss
  dsimp only
  have hcount : P (s.setChan c (if late then { s.chan c with lateReads := bump (s.chan c).lateReads }
      else { s.chan c with underruns := bump (s.chan c).underruns })) := by
    cases late <;> exact K.chan _ _ rfl (fun e => e) (fun e => e) h
  split
  · exact K.log _ _ _ _ (K.setArmed _ _ (K.markIf _ _ hcount))
  · exact K.setArmed _ _ (K.markIf _ _ hcount)

theorem mixView (z : State) (v : ViewRead) (xs : List Word) (h : P s) : P (s.mixView z v xs).1 := by
  unfold State.mixView
  dsimp only
  split
  · exact h
  · split
    · exact h
    · unfold State.mixAnnounced
      dsimp only
      split
      · exact h
      · exact K.setArmed _ _ (K.countClipped _ _ h)
      · exact K.miss _ _ _ _ _ _ h
      · exact K.miss _ _ _ _ _ _ h
    · exact h

theorem drawSight (h : P s) : P s.drawSight := by
  unfold State.drawSight
  split
  · exact K.free _ h
  · exact h

/-! ### Bursts, errors and the change in progress -/

theorem memError (h : P s) : P s.memError :=
  K.report s.memError.report (K.plan s.memError.plan h)

theorem burstError (r : ErrSource) (a : Nat) (d : Word) (h : P s) : P (s.burstError r a d) := K.log _ _ _ _ (K.memError h)

end PlayoutKeeps

end Sys2Proof.Machine
end


section
/-! PROOFS. What the operations of the gather engine and the section supervisor leave alone, and the invariants of the break-ins
(R81) and of the clip fence (R23, R24, R67, R68). -/

namespace Sys2Proof.Machine

variable {s t u : State}

/-! ### What the gather engine and the section supervisor leave alone -/

/-- Two states differ in the gather engine, the section table and the report unit alone. -/
def GatherSide (s t : State) : Prop := ∃ g x r, t = { s with gather := g, sections := x, report := r }

namespace GatherSide

theorem refl (s : State) : GatherSide s s := ⟨s.gather, s.sections, s.report, rfl⟩

theorem trans (h : GatherSide s t) (k : GatherSide t u) : GatherSide s u := by
  obtain ⟨_, _, _, rfl⟩ := h
  obtain ⟨_, _, _, rfl⟩ := k
  exact ⟨_, _, _, rfl⟩

theorem foldl {α : Type} (f : State → α → State) (h : ∀ s a, GatherSide s (f s a)) (l : List α) (s : State) :
    GatherSide s (l.foldl f s) := by
  induction l generalizing s with
  | nil => exact refl s
  | cons a l ih => exact (h s a).trans (ih (f s a))

theorem path (h : GatherSide s t) : t.path = s.path := by obtain ⟨_, _, _, rfl⟩ := h; rfl

theorem mem (h : GatherSide s t) : t.mem = s.mem := by obtain ⟨_, _, _, rfl⟩ := h; rfl

theorem arb (h : GatherSide s t) : t.arb = s.arb := by obtain ⟨_, _, _, rfl⟩ := h; rfl

end GatherSide

variable (s)

theorem State.log_gatherSide (k : LogKind) (n : Nat) (d1 d2 : Word) : GatherSide s (s.log k n d1 d2) := ⟨_, _, _, rfl⟩

theorem State.closeGather_gatherSide (ga : Gather) (st : CloseStatus) : GatherSide s (s.closeGather ga st) := by
  unfold State.closeGather
  dsimp only
  split <;> exact ⟨_, _, _, rfl⟩

theorem State.joinGather_gatherSide (ga : Gather) (k : Fin 24) (l : List Byte) : GatherSide s (s.joinGather ga k l) := by
  have hput : GatherSide s (s.putOpen (s.joinedRecord ga k l)) := ⟨_, _, _, rfl⟩
  unfold State.joinGather
  dsimp only
  split
  · exact hput.trans (State.closeGather_gatherSide _ _ _)
  · exact hput

theorem State.openGather_gatherSide (a : Arrival) : GatherSide s (s.openGather a) := by
  have hopen : GatherSide s ({ s with gather := { s.gather with
      opens := s.gather.opens ++ [s.openedRecord a] } }.mark (mirrorOfGroup a.group)) := ⟨_, _, _, rfl⟩
  exact hopen.trans (State.joinGather_gatherSide _ _ _ _)

theorem State.openOrWait_gatherSide (a : Arrival) : GatherSide s (s.openOrWait a) := by
  unfold State.openOrWait
  dsimp only
  split
  · exact s.openGather_gatherSide a
  · split
    · exact (s.closeGather_gatherSide _ _).trans ⟨_, _, _, rfl⟩
    · exact ⟨_, _, _, rfl⟩

theorem State.arrive_gatherSide (a : Arrival) : GatherSide s (s.arrive a) := by
  unfold State.arrive
  split
  · split
    · split
      · exact ⟨_, _, _, rfl⟩
      · exact s.joinGather_gatherSide _ _ _
    · exact (s.closeGather_gatherSide _ _).trans (State.openOrWait_gatherSide _ _)
  · split
    · exact ⟨_, _, _, rfl⟩
    · exact s.openOrWait_gatherSide a

theorem State.gatherWrite_gatherSide (g : Fin 12) (b : WriteBurst) : GatherSide s (s.gatherWrite g b) := by
  unfold State.gatherWrite
  dsimp only
  split
  · exact .refl s
  · split
    · exact .refl s
    · split
      · exact s.log_gatherSide _ _ _ _
      · split
        · exact .refl s
        · exact s.arrive_gatherSide _

theorem State.leaveExpected_gatherSide (k : Fin 24) : GatherSide s (s.leaveExpected k) :=
  GatherSide.foldl _ (fun s ga => by
    unfold checkComplete
    split
    · exact s.closeGather_gatherSide _ _
    · exact .refl s) _ s

theorem State.clearGates_gatherSide (k : Fin 24) : GatherSide s (s.clearGates k) := ⟨_, _, _, rfl⟩

theorem State.outputRead_gatherSide (g : Fin 12) (n : Nat) : GatherSide s (s.outputRead g n).1 := by
  unfold State.outputRead
  dsimp only
  split
  · split
    · exact s.closeGather_gatherSide _ .onRead
    · rename_i ga _ _ _
      have hput : GatherSide s (s.putOpen { ga with retries := ga.retries + 1 }) := ⟨_, _, _, rfl⟩
      split
      · exact hput.trans (State.closeGather_gatherSide _ _ .retryLimit)
      · exact hput
  · split <;> exact .refl s

theorem flushAll_gatherSide (l : List Gather) : GatherSide s (l.foldl flushOne s) :=
  GatherSide.foldl _ (fun s ga => s.closeGather_gatherSide ga .flushed) l s

theorem State.putSec_gatherSide (k : Fin 24) (r : SectionRec) : GatherSide s (s.putSec k r) := ⟨_, _, _, rfl⟩

theorem State.moveSec_gatherSide (k : Fin 24) (r : SectionRec) (n : SectionState) (u : SecCause) :
    GatherSide s (s.moveSec k r n u) := ⟨_, _, _, rfl⟩

theorem State.superviseWrite_gatherSide (g : Fin 12) (b : WriteBurst) : GatherSide s (s.superviseWrite g b) := by
  unfold State.superviseWrite
  split
  · unfold State.superviseSec
    dsimp only
    have hput (k : Fin 24) (r : SectionRec) := s.putSec_gatherSide k r
    have hmove (k : Fin 24) (r : SectionRec) (n : SectionState) (u : SecCause) : GatherSide s ((s.putSec k r).moveSec k r n u) :=
      (hput k r).trans (State.moveSec_gatherSide _ _ _ _ _)
    split
    · exact .refl s
    · exact hmove _ _ _ _
    · exact hmove _ _ _ _
    · split
      · exact hmove _ _ _ _
      · exact hput _ _
    · split
      · exact hmove _ _ _ _
      · exact hput _ _
  · exact .refl s

theorem State.loseSec_gatherSide (k : Fin 24) : GatherSide s (s.loseSec k) :=
  ((s.moveSec_gatherSide _ _ _ _).trans (State.leaveExpected_gatherSide _ _)).trans (State.clearGates_gatherSide _ _)

theorem State.expireGather_gatherSide (g : Fin 12) (n : Nat) : GatherSide s (s.expireGather g n) := by
  unfold State.expireGather
  split
  · exact s.closeGather_gatherSide _ _
  · exact .refl s

/-- An UPDATE SECTION changes, besides the gather engine, the sections and the reports, at most the section's break-in record
(R14). -/
theorem State.applySection_gatherSide (k : Fin 24) (en : Bool) (timeout : Nat) :
    GatherSide s (s.applySection k en timeout) ∨ ∃ v, GatherSide s v ∧ s.applySection k en timeout = v.clearSection k := by
  unfold State.applySection
  split
  · refine .inl ?_
    unfold State.retimeSec
    dsimp only
    split
    · exact (s.putSec_gatherSide _ _).trans (State.loseSec_gatherSide _ _)
    · exact s.putSec_gatherSide _ _
  · exact .inr ⟨_, ((s.moveSec_gatherSide _ _ _ _).trans (State.leaveExpected_gatherSide _ _)).trans
      (State.clearGates_gatherSide _ _), rfl⟩
  · exact .inl (s.moveSec_gatherSide _ _ _ _)
  · exact .inl (s.putSec_gatherSide _ _)

/-! ### The queue under the end of a wait -/

/-- The end of a wait takes the queue head off the queue, or nothing happens (R115, R116). -/
theorem State.endWait_sub : s.endWait.path.queue.Sublist s.path.queue := by
  unfold State.endWait
  split
  · exact List.tail_sublist _
  · exact .refl _

theorem State.flushPool_sub : s.flushPool.path.queue.Sublist s.path.queue := by
  unfold State.flushPool
  dsimp only
  rw [(flushAll_gatherSide _ _).path]
  exact State.endWait_sub { s with gather := { s.gather with taking := false } }

theorem State.endWaitOf_sub (g : Fin 12) : (s.endWaitOf g).path.queue.Sublist s.path.queue := by
  unfold State.endWaitOf
  split
  · split
    · exact s.endWait_sub
    · exact .refl _
  · exact .refl _

theorem State.applyGroup_sub (g : Fin 12) (en : GroupEntry) : (s.applyGroup g en).path.queue.Sublist s.path.queue := by
  have hflush := (flushAll_gatherSide s (sortKeys (s.gather.opens.filter fun ga => ga.group = g))).path
  rw [← hflush]
  exact State.endWaitOf_sub _ g

theorem State.givePool_sub : s.givePool.path.queue.Sublist s.path.queue := by
  unfold State.givePool
  split
  · split
    · rw [(State.openGather_gatherSide _ _).path]
      exact s.endWait_sub
    · exact s.endWait_sub
  · exact .refl _

theorem State.popHead_sub : s.popHead.path.queue.Sublist s.path.queue := by
  unfold State.popHead
  split
  · exact .refl _
  · exact List.tail_sublist _

@[simp] theorem State.readNext_path (st : Staged) : (s.readNext st).path = s.path := by
  unfold State.readNext
  split <;> rfl

theorem State.checkStaged_sub (st : Staged) : (s.checkStaged st).path.queue.Sublist s.path.queue := by
  unfold State.checkStaged
  split
  · exact .refl _
  · exact (s.setStage _).flushPool_sub

theorem State.lineLoaded_sub (st : Staged) (l : StagedLine) (bs : List Byte) :
    (s.lineLoaded st l bs).path.queue.Sublist s.path.queue := by
  unfold State.lineLoaded
  dsimp only
  split
  · rw [State.readNext_path]
  · split
    · split
      · rw [State.readNext_path]
      · exact .refl _
    · exact State.checkStaged_sub { s with plan := _ } _

/-- A load takes at most the waiting arrival's write off the queue (R168 to R171). -/
theorem State.planLineRead_sub (err : Bool) : (s.planLineRead err).path.queue.Sublist s.path.queue := by
  unfold State.planLineRead
  split
  · split
    · exact .refl _
    · exact (s.complete err).lineLoaded_sub _ _ _
  · exact .refl _

variable {s}

/-! ### The effect of every command -/

/-- A condition that the playout unit's updates keep, and that otherwise reads the channels, the clip fence, the break-ins and the
posted-write queue alone, the queue so that fewer writes keep it. -/
structure CommandKeeps (fenced : Bool) (P : State → Prop) : Prop extends PlayoutKeeps fenced P where
  side : ∀ {l : List Part} {s t : State}, Frame l s t →
    (Part.within [.channels] l || Part.within [.fence] l || Part.within [.breakIns] l) = false →
    t.path.queue.Sublist s.path.queue → P s → P t
  present : ∀ {s : State} (b : WriteBurst), P s → P (s.presentWrite b)
  defaults : ∀ {s : State} (c : Fin 4) (d : ChanDefaults), d.duck ≤ 32768 → P s →
    P (s.setChan c { s.chan c with defaults := d })
  install : ∀ {s : State} (pt : PlanTables), P s → P (s.installTables pt)

namespace CommandKeeps

variable {fenced : Bool} {P : State → Prop} (K : CommandKeeps fenced P)
include K

theorem frame {l : List Part} (f : Frame l s t) (h : P s)
    (hl : (Part.within [.channels] l || Part.within [.fence] l || Part.within [.breakIns] l) = false)
    (hq : Part.within [.queue] l = false) : P t := by
  have hsame : t.path.queue = s.path.queue := f.same .queue hq
  exact K.side f hl (hsame ▸ .refl _) h

theorem takeHead (err : Bool) (h : P s) : P (s.takeHead err) := by
  unfold State.takeHead
  split
  · rename_i e _ _
    have hend : P ((s.complete err).noteLost e err) :=
      K.frame (((s.complete_frame err).wide rfl).trans ((State.noteLost_frame _ e err).wide rfl) : Frame (.memory :: errorParts) _ _)
        h rfl rfl
    have hwatch : P (((s.complete err).noteLost e err).watchRegion e) := by
      unfold State.watchRegion
      split
      · exact K.programmeWrite _ _ hend
      · exact K.frame (State.gatherWrite_frame _ _ _) (K.frame (State.superviseWrite_frame _ _ _) hend rfl rfl) rfl rfl
      all_goals exact hend
    exact K.side (State.popHead_frame _) rfl (State.popHead_sub _) (K.frame (State.watchWords_frame _ _) hwatch rfl rfl)
  · exact h

theorem serveRead (err : Bool) (h : P s) : P (s.serveRead err) := by
  have hc : P (s.complete err) := K.frame (s.complete_frame err) h rfl rfl
  have hr (v : State) (x : Response) (hv : P v) : P (v.respond x) := K.frame (v.respond_frame x) hv rfl rfl
  unfold State.serveRead
  split
  · split
    · exact K.burstError _ _ _ (hr _ _ hc)
    · unfold State.serveWords
      split
      · dsimp only
        split
        · exact hr _ _ (K.mixView _ _ _ (K.drawSight hc))
        · exact hr _ _ hc
      · exact hr _ _ hc
  · exact h

theorem endClip (f : ClipFetch) (err : Bool) (h : P s) : P (s.endClip f err) := by
  have hc : P (s.complete err) := K.frame (s.complete_frame err) h rfl rfl
  unfold State.endClip
  split
  · exact K.burstError _ _ _ hc
  · exact hc

theorem clipLineRead (err : Bool) (h : P s) : P (s.clipLineRead err) := by
  have hline (ch : Chan) (x : Int) (bs : List Byte) : (ch.blockLine x err bs).st = ch.st ∧
      (ch.blockLine x err bs).defaults = ch.defaults ∧ (ch.blockLine x err bs).waiting = ch.waiting := by
    unfold Chan.blockLine
    dsimp only
    split <;> exact ⟨rfl, rfl, rfl⟩
  unfold State.clipLineRead
  split
  · split
    · dsimp only
      split
      · exact K.chan _ _ (hline _ _ _).2.1 (by rw [(hline _ _ _).1]; exact fun e => e)
          (by rw [(hline _ _ _).2.2]; exact fun e => e) (K.endClip _ _ h)
      · exact K.endClip _ _ h
    · exact h
  · exact h

theorem listLineRead (err : Bool) (h : P s) : P (s.listLineRead err) := by
  have hline (ch : Chan) (k : Nat) (bs : Option (List Byte)) : (ch.listLine k bs).st = ch.st ∧
      (ch.listLine k bs).defaults = ch.defaults ∧ (ch.listLine k bs).waiting = ch.waiting := by
    unfold Chan.listLine
    split
    · exact ⟨rfl, rfl, rfl⟩
    · split <;> exact ⟨rfl, rfl, rfl⟩
  unfold State.listLineRead
  split
  · split
    · dsimp only
      split
      · exact K.walk _ (K.chan _ _ (hline _ _ _).2.1 (by rw [(hline _ _ _).1]; exact fun e => e)
          (by rw [(hline _ _ _).2.2]; exact fun e => e) (K.endClip _ _ h))
      · exact K.endClip _ _ h
    · exact h
  · exact h

theorem activateStaged (h : P s) : P s.activateStaged := by
  unfold State.activateStaged
  split
  · rename_i p _
    have hlines := PlayoutKeeps.foldl (reloadLine p.1.tables) (fun _ k h => K.applyLine k _ _ h) (List.finRange 6)
      (K.install p.1.tables h)
    exact K.frame (State.classifyDeferred_frame _) (K.frame (s.activate_reloaded_frame _ _) hlines rfl rfl) rfl rfl
  · exact h

theorem handEntry_section (i : Nat) (b : List Byte) (h : P s) : P (s.handEntry 3 i b) := by
  have hside {v w : State} (hv : P v) (g : GatherSide v w) : P w := by
    refine K.side (l := .sections :: .logQueue :: .lostCount :: .logIndices :: .classTags :: .classCounts :: .logHeader ::
      .reportBases :: .attnMask :: .attn :: gatherParts ++ [.taking]) ?_ rfl (by rw [g.path]) hv
    obtain ⟨_, _, _, rfl⟩ := g
    intro p hp
    cases p <;> first | exact absurd (by decide) hp | simp [Same, State.chan, State.line]
  rw [State.handEntry_section]
  split
  · refine K.finish _ (K.frame (State.logClamped_frame _ _) ?_ rfl rfl)
    rcases s.applySection_gatherSide ‹Fin 24› (parseSection b).1.1 (parseSection b).1.2 with g | ⟨v, g, e⟩
    · exact hside h g
    · rw [e]
      exact K.clearSection _ (hside h g)
  · exact K.finish _ h

theorem handEntry_group (i : Nat) (b : List Byte) (h : P s) : P (s.handEntry 4 i b) := by
  rw [State.handEntry_group]
  split
  · split
    · exact K.finish _ (K.frame (State.logClamped_frame _ _)
        (K.side (State.applyGroup_frame _ _ _) rfl (State.applyGroup_sub _ _ _) h) rfl rfl)
    · exact K.finish _ h
  · exact K.finish _ h

theorem handEntry_channel (i : Nat) (b : List Byte) (h : P s) : P (s.handEntry 5 i b) := by
  rw [State.handEntry_channel]
  split
  · exact K.finish _ (K.frame (State.logClamped_frame _ _)
      (K.mark _ (K.defaults _ _ (clampC_range _ (by decide)).2 h)) rfl rfl)
  · exact K.finish _ h

theorem handEntry_line (i : Nat) (b : List Byte) (h : P s) : P (s.handEntry 6 i b) := by
  rw [State.handEntry_line]
  split
  · exact K.finish _ (K.frame (State.logClamped_frame _ _) (K.applyLine _ _ _ h) rfl rfl)
  · exact K.finish _ h

theorem entryLineRead (x : Fin 7) (err : Bool) (hhand : ∀ (u : State) (i : Nat) (b : List Byte), P u → P (u.handEntry x i b))
    (h : P s) : P (s.entryLineRead x err) :=
  State.entryLineRead_keeps x err (fun hu f => K.frame f hu rfl rfl) hhand h

theorem resumePart (h : P s) : P s.resumePart := by
  have hmark : P ((s.setPartState .running).mark 0) := K.mark _ (K.plan _ h)
  have htaking : P { (s.setPartState .running).mark 0 with gather := { s.gather with taking := true } } := by
    refine K.frame (l := [.taking]) (s := (s.setPartState .running).mark 0) ?_ hmark rfl rfl
    intro p hp
    cases p <;> first | exact absurd (by decide) hp | simp [Same, State.chan, State.line]
  exact K.finish _ (K.plan _ (PlayoutKeeps.foldl _ (fun _ k h => K.resumeLine k h) _ htaking))

theorem haltPart (h : P s) : P s.haltPart :=
  K.finish _ (K.plan _ (K.mark _ (K.plan _ (K.stopAll h))))

theorem effect (c : Instr) (ho : (s.effect c).1 = true) (h : P s) : P (s.effect c).2 := by
  have hf := s.effect_frame c ho
  cases c with
  | reset => cases ho
  | resetRelease m l => cases ho
  | hostWrite b =>
    change P (if _ then _ else _)
    split
    · exact K.frame (s.holdTxn_frame _) h rfl rfl
    · exact K.present b h
  | heldWriteAccepted =>
    change P s.acceptHeld
    unfold State.acceptHeld
    split
    · exact K.present _ h
    · exact h
  | writeTaken err => exact K.takeHead err h
  | poolRecordGiven => exact K.side hf rfl s.givePool_sub h
  | readServed err => exact K.serveRead err h
  | clipBlockLineComplete err => exact K.clipLineRead err h
  | listLineReadComplete err => exact K.listLineRead err h
  | watchdogExpiry => exact K.loseReference h
  | freeRunTime => exact K.freeRunEvent h
  | inputEvent k high => exact K.inputChange k high h
  | debounceExpiry k => exact K.activateLine k h
  | clipFenceUp =>
    simp only [State.effect, State.fenceReady, Bool.and_eq_true, Bool.not_eq_true'] at ho
    exact K.fenceUp ho.2 h
  | planFetchComplete err => exact K.side hf rfl (s.planLineRead_sub err) h
  | swapChannelStop =>
    change P s.swapStop
    unfold State.swapStop
    split
    · exact K.setStage _ (K.stopAll h)
    · exact h
  | activationStep => exact K.activateStaged h
  | updateSection err => exact K.entryLineRead 3 err (fun _ i b hu => K.handEntry_section i b hu) h
  | updateGroup err => exact K.entryLineRead 4 err (fun _ i b hu => K.handEntry_group i b hu) h
  | updateChannel err => exact K.entryLineRead 5 err (fun _ i b hu => K.handEntry_channel i b hu) h
  | updateLine err => exact K.entryLineRead 6 err (fun _ i b hu => K.handEntry_line i b hu) h
  | start => exact K.hostStart _ _ _ _ _ h
  | stop => exact K.hostStop _ h
  | continueChannel => exact K.hostContinue _ h
  | ack => exact K.hostAck _ h
  | quiesce => exact K.side hf rfl (s.setStage .quiescing).flushPool_sub h
  | quiesceStop => exact K.haltPart h
  | resume => exact K.resumePart h
  | _ => exact K.frame hf h rfl rfl

end CommandKeeps

end Sys2Proof.Machine
end


section
/-! PROOFS. The invariants of the break-in records (R81) and of the clip fence (R23, R24, R67, R68): the basic updates keep them, so
every step does. -/

namespace Sys2Proof.Machine

variable {s t : State}

/-- What a channel record keeps under its clip fetches: its state, its defaults and the start that waits. -/
theorem Chan.still_fields {a b : Chan} (h : a.still = b.still) :
    a.st = b.st ∧ a.defaults = b.defaults ∧ a.waiting = b.waiting := by
  simp only [Chan.still, Chan.mk.injEq] at h
  simp [h]

/-! ### Break-ins -/

theorem BreakInv.of_eq (h : BreakInv s) (hb : t.mixer.recs = s.mixer.recs)
    (hd : ∀ c, (t.chan c).defaults = (s.chan c).defaults) : BreakInv t := by
  obtain ⟨hok, hduck⟩ := h
  refine ⟨fun k => ?_, fun c => by rw [hd c]; exact hduck c⟩
  have hk : t.brk k = s.brk k := by rw [State.brk, hb, State.brk]
  rw [hk]
  exact hok k

/-- A channel record replaced whose duck gain is in range. -/
theorem BreakInv.setChan (h : BreakInv s) (c : Fin 4) {r : Chan} (hr : r.defaults.duck ≤ 32768) : BreakInv (s.setChan c r) := by
  obtain ⟨hok, hduck⟩ := h
  refine ⟨fun k => by rw [State.brk_setChan]; exact hok k, fun d => ?_⟩
  by_cases e : c = d
  · subst e; simpa using hr
  · simpa [e] using hduck d

theorem BreakInv.frame {l : List Part} (h : BreakInv s) (f : Frame l s t)
    (hl : (Part.within [.channels] l || Part.within [.fence] l || Part.within [.breakIns] l) = false) : BreakInv t := by
  simp only [Bool.or_eq_false_iff] at hl
  obtain ⟨⟨hc, -⟩, hb⟩ := hl
  refine h.of_eq (f.same .breakIns hb) fun c => ?_
  have hstill : (t.chan c).still = (s.chan c).still := f.same .channels hc c
  exact (Chan.still_fields hstill).2.1

theorem BreakInv.playoutKeeps : PlayoutKeeps false BreakInv where
  report _ h := h
  plan _ h := h
  lines _ h := h
  free _ h := h
  tracker _ h := h
  armed _ h := h
  order _ h := h
  brk := fun {s} k b hb h => by
    obtain ⟨hok, hduck⟩ := h
    refine ⟨fun j => ?_, hduck⟩
    by_cases e : k = j
    · subst e; simpa using hb hduck (hok k)
    · simpa [e] using hok j
  chan c r hr _ _ h := h.setChan c (hr ▸ h.2 c)
  begin c r hr _ h := h.setChan c (hr ▸ h.2 c)
  live _ _ _ := fun e => Bool.noConfusion e
  await c st f _ _ _ h := h.setChan c (h.2 c)
  openUp _ h := h
  lower _ h := h

theorem BreakInv.commandKeeps : CommandKeeps false BreakInv where
  toPlayoutKeeps := BreakInv.playoutKeeps
  side f hl _ h := h.frame f hl
  present b h := h.frame (State.presentWrite_frame _ b) rfl
  defaults c _ hd h := h.setChan c hd
  install := fun {s} pt h => by
    refine ⟨h.1, fun c => ?_⟩
    have hd : (parseChannel (entryOf 5 pt.chans c.val)).1.duck ≤ 32768 := (clampC_range _ (by decide)).2
    simpa [State.installTables, State.chan, PlanTables.channels, Chan.swapped] using hd

theorem BreakInv.reset (s : State) : BreakInv s.resetState := by
  simp [BreakInv, BreakRec.ok, State.brk, State.chan, State.resetState, State.reset, Mixer.atReset, BreakRec.atReset,
    Playout.atReset, Chan.atReset]

/-- Settles O6: the basic updates keep the break-in records' relation, so every effect does. -/
theorem stepKeepsBreakIns : Obligations.StepKeepsBreakIns :=
  step_keeps (fun _ _ h => h) (fun _ _ h => h) (fun s _ => .reset s) (fun _ _ _ h => h)
    (fun _ h => h.frame (State.settle_frame _) rfl) (fun c _ _ ho h => BreakInv.commandKeeps.effect c ho h)

/-! ### The clip fence -/

/-- The condition after a step under which channels are live and wait as before, the fence stands, and no write is new. -/
theorem FenceInv.of_eq (h : FenceInv s) (hst : ∀ c, (t.chan c).st = (s.chan c).st)
    (hw : ∀ c, (t.chan c).waiting = (s.chan c).waiting) (hf : t.path.fence = s.path.fence)
    (hq : t.path.queue.Sublist s.path.queue) : FenceInv t := by
  obtain ⟨hlive, hwait, hclip⟩ := h
  refine ⟨fun c => ?_, fun c => ?_, fun hup e he => hclip (hf ▸ hup) e (hq.subset he)⟩
  · rw [hst c, hf]; exact hlive c
  · rw [hw c, hf]; exact hwait c

theorem FenceInv.frame {l : List Part} (h : FenceInv s) (f : Frame l s t)
    (hl : (Part.within [.channels] l || Part.within [.fence] l || Part.within [.breakIns] l) = false)
    (hq : t.path.queue.Sublist s.path.queue) : FenceInv t := by
  simp only [Bool.or_eq_false_iff] at hl
  obtain ⟨⟨hc, hf⟩, -⟩ := hl
  have hstill (c : Fin 4) : (t.chan c).still = (s.chan c).still := f.same .channels hc c
  exact h.of_eq (fun c => (Chan.still_fields (hstill c)).1) (fun c => (Chan.still_fields (hstill c)).2.2) (f.same .fence hf) hq

/-- A channel record replaced: live only under an UP fence, waiting only under a fence that is not DOWN. -/
theorem FenceInv.setChan (h : FenceInv s) (c : Fin 4) {r : Chan} (hl : r.st.live = true → s.path.fence = .up)
    (hw : r.waiting.isSome = true → s.path.fence ≠ .down) : FenceInv (s.setChan c r) := by
  obtain ⟨hlive, hwait, hclip⟩ := h
  refine ⟨fun d => ?_, fun d => ?_, hclip⟩
  · by_cases e : c = d
    · subst e; simpa using hl
    · simpa [e] using hlive d
  · by_cases e : c = d
    · subst e; simpa using hw
    · simpa [e] using hwait d

theorem State.clipQueued_false (h : s.clipQueued = false) : ∀ e ∈ s.path.queue, e.kind ≠ .clip := by
  simpa [State.clipQueued] using h

/-- With no start on any channel the fence may be lowered (R68). -/
theorem State.noStarts_iff : s.noStarts = true ↔ ∀ c, (s.chan c).st.live = false ∧ (s.chan c).waiting.isSome = false := by
  simp [State.noStarts]

theorem FenceInv.await (h : FenceInv s) (c : Fin 4) (st : Start) {f : Fence} (hup : s.path.fence ≠ .up) (hf : f ≠ .down)
    (hq : f = .up → s.clipQueued = false) :
    FenceInv { s.setChan c { s.chan c with waiting := some st } with path := { s.path with fence := f } } := by
  obtain ⟨hlive, -, -⟩ := h
  refine ⟨fun d hd => ?_, fun _ _ => hf, fun e => State.clipQueued_false (hq e)⟩
  refine absurd (hlive d ?_) hup
  by_cases e : c = d
  · subst e; simpa [State.setChan, State.chan] using hd
  · simpa [State.setChan, State.chan, e] using hd

theorem FenceInv.playoutKeeps : PlayoutKeeps true FenceInv where
  report _ h := h
  plan _ h := h
  lines _ h := h
  free _ h := h
  tracker _ h := h
  armed _ h := h
  order _ h := h
  brk _ _ _ h := h
  chan c r _ hl hw h := h.setChan c (fun e => h.1 c (hl e)) (fun e => h.2.1 c (hw e))
  begin c r _ hb h := h.setChan c (fun _ => hb rfl) (fun _ => by simp [hb rfl])
  live c hc h := fun _ => h.1 c hc
  await c st f hup hf hq h := h.await c st hup hf hq
  openUp hq h := ⟨fun _ _ => rfl, fun _ _ => by simp, fun _ => State.clipQueued_false hq⟩
  lower hn h := by
    rw [State.noStarts_iff] at hn
    exact ⟨fun c hc => absurd ((hn c).1.symm.trans hc) (by decide), fun c hc => absurd ((hn c).2.symm.trans hc) (by decide),
      by simp⟩

/-- A write that enters the queue is a CLIP write under a DOWN fence alone (R23, R24). -/
theorem FenceInv.presentWrite (h : FenceInv s) (b : WriteBurst) : FenceInv (s.presentWrite b) := by
  obtain ⟨hlive, hwait, hclip⟩ := id h
  unfold State.presentWrite
  dsimp only
  split
  · exact h.frame (s.refuseWrite_frame b _) rfl (.refl _)
  · rename_i hr
    split
    · exact h.frame (s.holdTxn_frame _) rfl (.refl _)
    · have hpath : (s.acceptWrite b (s.classify b.addr)).path =
          { s.path with txn := none, response := some .accept, queue := s.path.queue ++ [s.entryFor b (s.classify b.addr)] } := by
        unfold State.acceptWrite State.captureAnchor
        dsimp only
        split <;> rfl
      have hchan (c : Fin 4) : ((s.acceptWrite b (s.classify b.addr)).chan c).still = (s.chan c).still :=
        (s.acceptWrite_frame b _).same .channels rfl c
      refine ⟨fun c hc => ?_, fun c hc => ?_, fun hup e he => ?_⟩
      · rw [hpath]
        exact hlive c (by rw [← (Chan.still_fields (hchan c)).1]; exact hc)
      · rw [hpath]
        exact hwait c (by rw [← (Chan.still_fields (hchan c)).2.2]; exact hc)
      · rw [hpath] at hup he
        rcases List.mem_append.mp he with he | he
        · exact hclip hup e he
        · rw [List.mem_singleton.mp he]
          intro hk
          have hkind : s.classify b.addr = .clip := hk
          have hup' : s.path.fence = .up := hup
          simp [hkind, State.refuses, hup'] at hr

theorem FenceInv.commandKeeps : CommandKeeps true FenceInv where
  toPlayoutKeeps := FenceInv.playoutKeeps
  side f hl hq h := h.frame f hl hq
  present b h := h.presentWrite b
  defaults c _ _ h := h.setChan c (h.1 c) (h.2.1 c)
  install pt h := h.of_eq (fun c => by simp [State.installTables, State.chan, PlanTables.channels, Chan.swapped])
    (fun c => by simp [State.installTables, State.chan, PlanTables.channels, Chan.swapped]) rfl (.refl _)

theorem FenceInv.reset (s : State) : FenceInv s.resetState := by
  simp [FenceInv, State.chan, State.resetState, State.reset, Playout.atReset, Chan.atReset, MemPath.atReset, ChanState.live]

/-- Settles O7: the basic updates keep the clip fence's condition, channels going live under an UP fence alone, so every effect
does. -/
theorem stepKeepsClipFence : Obligations.StepKeepsClipFence :=
  step_keeps (fun _ _ h => h) (fun _ _ h => h) (fun s _ => .reset s) (fun _ _ _ h => h)
    (fun s h => h.frame (State.settle_frame _) rfl (by simp)) (fun c _ _ ho h => FenceInv.commandKeeps.effect c ho h)

end Sys2Proof.Machine
end


section
/-! PROOFS. Memory, the arbiter and the posted-write queue under every command (chapter 02): memory and the arbiter change at the end
of a burst and at the end of a command alone. -/

namespace Sys2Proof.Machine

variable {s t u : State}

/-! ### Memory and the arbiter left alone -/

/-- Memory and the arbiter are exactly the same in two states. -/
def Calm (s t : State) : Prop := t.mem = s.mem ∧ t.arb = s.arb

theorem Calm.refl (s : State) : Calm s s := ⟨rfl, rfl⟩

theorem Calm.trans (h : Calm s t) (k : Calm t u) : Calm s u := ⟨k.1.trans h.1, k.2.trans h.2⟩

theorem GatherSide.calm (h : GatherSide s t) : Calm s t := ⟨h.mem, h.arb⟩

/-- The playout unit's basic updates leave memory and the arbiter alone. -/
theorem calmKeeps (s : State) : PlayoutKeeps false (Calm s) where
  report _ h := h
  plan _ h := h
  lines _ h := h
  free _ h := h
  tracker _ h := h
  armed _ h := h
  order _ h := h
  brk _ _ _ h := h
  chan _ _ _ _ _ h := h
  begin _ _ _ _ h := h
  live _ _ _ := fun e => Bool.noConfusion e
  await _ _ _ _ _ _ h := h
  openUp _ h := h
  lower _ h := h

theorem State.endWait_calm (s : State) : Calm s s.endWait := by
  unfold State.endWait
  split <;> exact ⟨rfl, rfl⟩

theorem State.flushPool_calm (s : State) : Calm s s.flushPool :=
  Calm.trans (State.endWait_calm { s with gather := { s.gather with taking := false } }) (flushAll_gatherSide _ _).calm

theorem State.presentWrite_calm (s : State) (b : WriteBurst) : Calm s (s.presentWrite b) := by
  unfold State.presentWrite
  dsimp only
  split
  · exact ⟨rfl, rfl⟩
  · split
    · exact ⟨rfl, rfl⟩
    · unfold State.acceptWrite State.captureAnchor
      dsimp only
      split <;> exact ⟨rfl, rfl⟩

theorem State.presentRead_calm (s : State) (b : ReadBurst) : Calm s (s.presentRead b) := by
  unfold State.presentRead
  split
  · exact ⟨rfl, rfl⟩
  · split <;> exact ⟨rfl, rfl⟩
  · split
    · unfold State.presentOutput
      dsimp only
      have hread := (s.outputRead_gatherSide ‹Fin 12› ((s.grp ‹Fin 12›).outputPos b.addr)).calm
      split <;> exact hread.trans ⟨rfl, rfl⟩
    · exact ⟨rfl, rfl⟩
  · exact ⟨rfl, rfl⟩

theorem State.classifyDeferred_calm (s : State) : Calm s s.classifyDeferred := by
  unfold State.classifyDeferred
  split
  · exact s.presentRead_calm _
  · exact .refl s

theorem State.watchWords_calm (s : State) (e : QEntry) : Calm s (s.watchWords e) := by
  have hword (v : State) (w : Word) : Calm v (v.takeWord0 w) := by
    unfold State.takeWord0
    dsimp only
    split
    · exact .refl v
    · split <;> exact ⟨rfl, rfl⟩
  unfold State.watchWords
  dsimp only
  have hchange : Calm s (match e.watchChange, e.burst.fullWordAt s.anchorAddr with
      | true, some w => s.takeWord0 w
      | _, _ => s) := by
    split
    · exact hword s _
    · exact .refl s
  split
  · exact hchange.trans ⟨rfl, rfl⟩
  · exact hchange

theorem State.popHead_calm (s : State) : Calm s s.popHead := by
  unfold State.popHead
  split <;> exact ⟨rfl, rfl⟩

theorem State.noteLost_calm (s : State) (e : QEntry) (err : Bool) : Calm s (s.noteLost e err) := by
  unfold State.noteLost
  split <;> exact ⟨rfl, rfl⟩

theorem State.watchRegion_calm (s : State) (e : QEntry) : Calm s (s.watchRegion e) := by
  unfold State.watchRegion
  split
  · exact (calmKeeps s).programmeWrite _ _ (.refl s)
  · exact ((s.superviseWrite_gatherSide _ _).trans (State.gatherWrite_gatherSide _ _ _)).calm
  all_goals exact .refl s

theorem State.noteResult_calm (s : State) (g : Fin 12) (n : Nat) : Calm s (s.noteResult g n) := by
  unfold State.noteResult
  split <;> exact ⟨rfl, rfl⟩

theorem State.burstError_calm (s : State) (r : ErrSource) (a : Nat) (d : Word) : Calm s (s.burstError r a d) := ⟨rfl, rfl⟩

theorem State.serveWords_calm (s : State) (r : ReadTxn) (xs : List Word) : Calm s (s.serveWords r xs) := by
  unfold State.serveWords
  split
  · dsimp only
    split
    · have hmix := (calmKeeps s).mixView s.sight ‹ViewRead› xs ((calmKeeps s).drawSight (.refl s))
      exact hmix.trans ⟨rfl, rfl⟩
    · exact ⟨rfl, rfl⟩
  · exact ⟨rfl, rfl⟩

theorem State.decideChange_calm (s : State) (c : Change) : Calm s (s.decideChange c) := by
  unfold State.decideChange
  split
  · exact ⟨rfl, rfl⟩
  · split
    · unfold State.beginUpdate
      split
      · exact ⟨rfl, rfl⟩
      · split
        · exact ⟨rfl, rfl⟩
        · split <;> exact ⟨rfl, rfl⟩
    · exact ⟨rfl, rfl⟩

theorem State.readNext_calm (s : State) (st : Staged) : Calm s (s.readNext st) := by
  unfold State.readNext
  split <;> exact ⟨rfl, rfl⟩

theorem State.checkStaged_calm (s : State) (st : Staged) : Calm s (s.checkStaged st) := by
  unfold State.checkStaged
  split
  · exact ⟨rfl, rfl⟩
  · exact (s.setStage _).flushPool_calm

theorem State.lineLoaded_calm (s : State) (st : Staged) (l : StagedLine) (bs : List Byte) : Calm s (s.lineLoaded st l bs) := by
  unfold State.lineLoaded
  dsimp only
  split
  · exact s.readNext_calm _
  · split
    · split
      · exact s.readNext_calm _
      · exact ⟨rfl, rfl⟩
    · exact State.checkStaged_calm { s with plan := _ } _

theorem State.markAll_calm (s : State) : Calm s s.markAll := ⟨rfl, rfl⟩

theorem State.planOut_calm (s : State) (b : PlanBurst) : Calm s (s.planOut b) := ⟨rfl, rfl⟩

theorem State.finish_calm (s : State) (r : ResultCode) : Calm s (s.finish r) := ⟨rfl, rfl⟩

theorem State.activate_calm (s : State) (pt : PlanTables) (n : Nat) : Calm s (s.activate pt n) := by
  have hlines := PlayoutKeeps.foldl (reloadLine pt) (fun _ k h => (calmKeeps s).applyLine k _ _ h) (List.finRange 6)
    (show Calm s (s.installTables pt) from ⟨rfl, rfl⟩)
  have hloaded (v : State) (p : PartState) : Calm v (v.logLoaded p n) := by
    unfold State.logLoaded
    dsimp only
    split <;> exact ⟨rfl, rfl⟩
  unfold State.activate
  dsimp only
  generalize (List.finRange 6).foldl (reloadLine pt) (s.installTables pt) = v at hlines
  have hlog := hlines.trans (hloaded { v.setPartState .running with plan := { (v.setPartState .running).plan with
    generation := wrap16 (v.setPartState .running).plan.generation, lastError := .none } } s.plan.partState)
  split
  · exact ((hlog.trans (State.markAll_calm _)).trans (State.planOut_calm _ _)).trans (State.finish_calm _ _)
  · exact (((hlog.trans (State.markAll_calm _)).trans (State.planOut_calm _ _)).trans (State.planOut_calm _ _)).trans
      (State.finish_calm _ _)

theorem State.applySection_calm (s : State) (k : Fin 24) (en : Bool) (timeout : Nat) : Calm s (s.applySection k en timeout) := by
  rcases s.applySection_gatherSide k en timeout with g | ⟨v, g, e⟩
  · exact g.calm
  · rw [e]; exact g.calm.trans ⟨rfl, rfl⟩

theorem State.applyGroup_calm (s : State) (g : Fin 12) (e : GroupEntry) : Calm s (s.applyGroup g e) := by
  have hwait (v : State) : Calm v (v.endWaitOf g) := by
    unfold State.endWaitOf
    split
    · split
      · exact v.endWait_calm
      · exact .refl v
    · exact .refl v
  exact ((flushAll_gatherSide s _).calm.trans (hwait _)).trans ⟨rfl, rfl⟩

theorem State.logClamped_calm (s : State) (n : Nat) : Calm s (s.logClamped n) := by
  unfold State.logClamped
  split <;> exact ⟨rfl, rfl⟩

theorem State.handEntry_calm (s : State) (x : Fin 7) (i : Nat) (b : List Byte) : Calm s (s.handEntry x i b) := by
  have hend {v : State} (n : Nat) (h : Calm s v) : Calm s ((v.logClamped n).finish .done) :=
    (h.trans (v.logClamped_calm n)).trans ⟨rfl, rfl⟩
  unfold State.handEntry
  split
  · exact hend _ (s.applySection_calm _ _ _)
  · dsimp only
    split
    · exact hend _ (s.applyGroup_calm _ _)
    · exact ⟨rfl, rfl⟩
  · exact hend _ ⟨rfl, rfl⟩
  · exact hend _ ((calmKeeps s).applyLine _ _ _ (.refl s))
  · exact ⟨rfl, rfl⟩

theorem State.takeHead_calm (s : State) (err : Bool) (hq : s.path.queue ≠ []) : Calm (s.complete err) (s.takeHead err) := by
  unfold State.takeHead
  split
  · exact (((State.noteLost_calm _ _ err).trans (State.watchRegion_calm _ _)).trans
      (State.watchWords_calm _ _)).trans (State.popHead_calm _)
  · exact absurd ‹_› hq

/-! ### Every effect on memory and the arbiter -/

/-- The effect of a command leaves memory and the arbiter alone, but for the end of the burst on the port. -/
theorem State.effect_calm (s : State) (c : Instr) :
    Calm s (s.effect c).2 ∨ ∃ err, Calm (s.complete err) (s.effect c).2 := by
  have K := calmKeeps s
  have hs := Calm.refl s
  have hread (x : Fin 7) (err : Bool) : Calm s (s.entryLineRead x err) ∨ ∃ e, Calm (s.complete e) (s.entryLineRead x err) := by
    refine .inr ⟨err, ?_⟩
    unfold State.entryLineRead
    dsimp only
    split
    · exact ⟨rfl, rfl⟩
    · split
      · exact ⟨rfl, rfl⟩
      · exact State.handEntry_calm _ _ _ _
  cases c with
  | reset => exact .inl hs
  | resetRelease m l => exact .inl hs
  | hostWrite b =>
    refine .inl ?_
    change Calm s (if _ then _ else _)
    split
    · exact ⟨rfl, rfl⟩
    · exact s.presentWrite_calm b
  | heldWriteAccepted =>
    refine .inl ?_
    change Calm s s.acceptHeld
    unfold State.acceptHeld
    split
    · exact s.presentWrite_calm _
    · exact hs
  | hostRead b =>
    refine .inl ?_
    change Calm s (if _ then _ else _)
    split
    · exact ⟨rfl, rfl⟩
    · exact s.presentRead_calm b
  | outputReadReleased =>
    refine .inl ?_
    change Calm s s.releaseRead
    unfold State.releaseRead
    split <;> exact ⟨rfl, rfl⟩
  | writeTaken err =>
    by_cases hq : s.path.queue = []
    · have hidle : s.takeHead err = s := by unfold State.takeHead; rw [hq]
      exact .inl (show Calm s (s.takeHead err) by rw [hidle]; exact hs)
    · exact .inr ⟨err, s.takeHead_calm err hq⟩
  | poolRecordGiven =>
    refine .inl ?_
    change Calm s s.givePool
    unfold State.givePool
    split
    · split
      · exact s.endWait_calm.trans (State.openGather_gatherSide _ _).calm
      · exact s.endWait_calm
    · exact hs
  | readServed err =>
    change Calm s (s.serveRead err) ∨ ∃ e, Calm (s.complete e) (s.serveRead err)
    unfold State.serveRead
    split
    · split
      · exact .inr ⟨err, rfl, rfl⟩
      · exact .inr ⟨err, State.serveWords_calm _ _ _⟩
    · exact .inl hs
  | resultWriteComplete err =>
    change Calm s (s.resultWritten err) ∨ ∃ e, Calm (s.complete e) (s.resultWritten err)
    unfold State.resultWritten
    split
    · refine .inr ⟨err, ?_⟩
      have hnote := State.noteResult_calm (s.complete err).dropResult ‹Gather›.group ‹Gather›.pos
      dsimp only
      split
      · exact hnote.trans (State.burstError_calm _ _ _ _)
      · exact hnote
    · exact .inl hs
  | clipBlockLineComplete err =>
    change Calm s (s.clipLineRead err) ∨ ∃ e, Calm (s.complete e) (s.clipLineRead err)
    unfold State.clipLineRead State.endClip
    split
    · split
      · refine .inr ⟨err, ?_⟩
        dsimp only
        split <;> split <;> exact ⟨rfl, rfl⟩
      · exact .inl hs
    · exact .inl hs
  | listLineReadComplete err =>
    change Calm s (s.listLineRead err) ∨ ∃ e, Calm (s.complete e) (s.listLineRead err)
    unfold State.listLineRead
    split
    · split
      · refine .inr ⟨err, ?_⟩
        have hend : Calm (s.complete err) (s.endClip ‹ClipFetch› err) := by
          unfold State.endClip
          split <;> exact ⟨rfl, rfl⟩
        dsimp only
        split
        · exact (calmKeeps _).walk _ hend
        · exact hend
      · exact .inl hs
    · exact .inl hs
  | lossTimerExpiry k => exact .inl (s.loseSec_gatherSide k).calm
  | watchdogExpiry => exact .inl (K.loseReference hs)
  | freeRunTime => exact .inl (K.freeRunEvent hs)
  | gatherDeadline g n => exact .inl (s.expireGather_gatherSide g n).calm
  | inputEvent k high => exact .inl (K.inputChange k high hs)
  | debounceExpiry k => exact .inl (K.activateLine k hs)
  | clipFenceUp => exact .inl (K.begins hs)
  | argumentReadComplete err =>
    refine .inr ⟨err, ?_⟩
    change Calm (s.complete err) (s.argsRead err)
    unfold State.argsRead
    split
    · exact ⟨rfl, rfl⟩
    · exact State.decideChange_calm { s.complete err with plan := _ } _
  | reload => exact .inl ⟨rfl, rfl⟩
  | planFetchComplete err =>
    change Calm s (s.planLineRead err) ∨ ∃ e, Calm (s.complete e) (s.planLineRead err)
    unfold State.planLineRead
    split
    · split
      · exact .inr ⟨err, rfl, rfl⟩
      · exact .inr ⟨err, State.lineLoaded_calm _ _ _ _⟩
    · exact .inl hs
  | swapChannelStop =>
    refine .inl ?_
    change Calm s s.swapStop
    unfold State.swapStop
    split
    · exact K.setStage _ (K.stopAll hs)
    · exact hs
  | activationStep =>
    refine .inl ?_
    change Calm s s.activateStaged
    unfold State.activateStaged
    split
    · exact (s.activate_calm _ _).trans (State.classifyDeferred_calm _)
    · exact hs
  | updateSection err => exact hread 3 err
  | updateGroup err => exact hread 4 err
  | updateChannel err => exact hread 5 err
  | updateLine err => exact hread 6 err
  | start => exact .inl (K.hostStart _ _ _ _ _ hs)
  | stop => exact .inl (K.hostStop _ hs)
  | continueChannel => exact .inl (K.hostContinue _ hs)
  | ack => exact .inl (K.hostAck _ hs)
  | quiesce => exact .inl (State.flushPool_calm (s.setStage .quiescing))
  | quiesceStop => exact .inl (K.finish _ (K.plan _ (K.mark _ (K.plan _ (K.stopAll hs)))))
  | resume =>
    have htaking : Calm s { (s.setPartState .running).mark 0 with gather := { s.gather with taking := true } } := ⟨rfl, rfl⟩
    exact .inl (K.finish _ (K.plan _ (PlayoutKeeps.foldl _ (fun _ k h => K.resumeLine k h) _ htaking)))
  | writeBackComplete err =>
    refine .inr ⟨err, ?_⟩
    change Calm (s.complete err) (s.changeEnded err)
    unfold State.changeEnded
    dsimp only
    split <;> exact ⟨rfl, rfl⟩
  | headerFieldWriteComplete err =>
    change Calm s (s.fieldWritten err) ∨ ∃ e, Calm (s.complete e) (s.fieldWritten err)
    unfold State.fieldWritten
    split
    · refine .inr ⟨err, ?_⟩
      split <;> exact ⟨rfl, rfl⟩
    · exact .inl hs
  | mirrorWriteComplete err =>
    refine .inr ⟨err, ?_⟩
    change Calm (s.complete err) (s.mirrorWritten err)
    unfold State.mirrorWritten
    split <;> exact ⟨rfl, rfl⟩
  | logRecordWriteComplete err =>
    change Calm s (s.recordWritten err) ∨ ∃ e, Calm (s.complete e) (s.recordWritten err)
    unfold State.recordWritten
    split
    · refine .inr ⟨err, ?_⟩
      dsimp only
      split <;> exact ⟨rfl, rfl⟩
    · exact .inl hs
  | headerBurstComplete err =>
    change Calm s (s.headerWritten err) ∨ ∃ e, Calm (s.complete e) (s.headerWritten err)
    unfold State.headerWritten
    split
    · refine .inr ⟨err, ?_⟩
      dsimp only
      split <;> exact ⟨rfl, rfl⟩
    · exact .inl hs

/-! ### The queue under every command -/

/-- The commands that present a write to the queue. -/
def presentsWrite : Instr → Bool
  | .hostWrite _ => true
  | .heldWriteAccepted => true
  | _ => false

theorem State.takeHead_sub (s : State) (err : Bool) : (s.takeHead err).path.queue.Sublist s.path.queue := by
  have hsame {l : List Part} {u v : State} (f : Frame l u v) (hl : Part.within [.queue] l = false) :
      v.path.queue = u.path.queue := f.same .queue hl
  unfold State.takeHead
  split
  · rename_i e _ _
    have hcomplete := hsame (s.complete_frame err) rfl
    have hlost := hsame (State.noteLost_frame (s.complete err) e err) rfl
    have hregion := hsame (State.watchRegion_frame ((s.complete err).noteLost e err) e) rfl
    have hwords := hsame (State.watchWords_frame (((s.complete err).noteLost e err).watchRegion e) e) rfl
    rw [← hcomplete, ← hlost, ← hregion, ← hwords]
    exact State.popHead_sub _
  · exact .refl _

theorem State.handGroup_sub (s : State) (i : Nat) (b : List Byte) : (s.handEntry 4 i b).path.queue.Sublist s.path.queue := by
  rw [State.handEntry_group]
  split
  · split
    · have hlog : ∀ (v : State) (n : Nat), (v.logClamped n).path = v.path := fun v n => by
        unfold State.logClamped
        split <;> rfl
      change (State.logClamped _ _).path.queue.Sublist _
      rw [hlog]
      exact s.applyGroup_sub _ _
    · exact .refl _
  · exact .refl _

/-- Every command but those that present a write leaves the queue or takes its head off it. -/
theorem State.effect_queue_sub (s : State) (c : Instr) (ho : (s.effect c).1 = true) (hc : presentsWrite c = false) :
    (s.effect c).2.path.queue.Sublist s.path.queue := by
  have hf := s.effect_frame c ho
  have hsame : Part.within [.queue] (changedBy c) = false → (s.effect c).2.path.queue.Sublist s.path.queue := fun hl => by
    have hq : (s.effect c).2.path.queue = s.path.queue := hf.same .queue hl
    rw [hq]
  cases c with
  | reset => cases ho
  | resetRelease m l => cases ho
  | hostWrite b => cases hc
  | heldWriteAccepted => cases hc
  | writeTaken err => exact s.takeHead_sub err
  | poolRecordGiven => exact s.givePool_sub
  | planFetchComplete err => exact s.planLineRead_sub err
  | updateGroup err =>
    refine State.entryLineRead_keeps (P := fun v => v.path.queue.Sublist s.path.queue) 4 err (fun {u v} hu f => ?_)
      (fun u i b hu => (u.handGroup_sub i b).trans hu) (.refl _)
    have hq : v.path.queue = u.path.queue := f.same .queue rfl
    rw [hq]
    exact hu
  | quiesce => exact (s.setStage .quiescing).flushPool_sub
  | _ => exact hsame rfl

/-! ### The transaction that is no read yet -/

/-- A transaction that is no classified read: a held write, or a read that waits for the activation step. -/
def Txn.unread : Txn → Bool
  | .read _ => false
  | .write _ => true
  | .unclassified _ => true

/-- A transaction in progress in `t` that is no classified read was in progress in `s`. -/
def KeepsUnread (s t : State) : Prop := ∀ x, t.path.txn = some x → x.unread = true → s.path.txn = some x

theorem Txn.still_of_unread {x y : Txn} (hx : x.unread = true) (h : y.still = x.still) : y = x := by
  cases x with
  | read r => cases hx
  | write b =>
    cases y with
    | write b' => simpa [Txn.still] using h
    | unclassified b' => simp [Txn.still] at h
    | read r => simp only [Txn.still] at h; split at h <;> cases h
  | unclassified b =>
    cases y with
    | write b' => simp [Txn.still] at h
    | unclassified b' => simpa [Txn.still] using h
    | read r => simp only [Txn.still] at h; split at h <;> cases h

theorem KeepsUnread.frame {l : List Part} (f : Frame l s t) (hl : Part.within [.transaction] l = false) : KeepsUnread s t := by
  intro x hx hu
  have htxn : t.path.txn.map Txn.still = s.path.txn.map Txn.still := f.same .transaction hl
  rw [hx] at htxn
  cases hs : s.path.txn with
  | none => rw [hs] at htxn; cases htxn
  | some y =>
    rw [hs] at htxn
    rw [Txn.still_of_unread hu (Option.some.inj htxn).symm]

theorem KeepsUnread.trans (h : KeepsUnread s t) (k : KeepsUnread t u) : KeepsUnread s u := fun x hx hu => h x (k x hx hu) hu

theorem KeepsUnread.of_none (h : t.path.txn = none) : KeepsUnread s t := fun x hx => by rw [h] at hx; cases hx

theorem KeepsUnread.of_read {r : ReadTxn} (h : t.path.txn = some (.read r)) : KeepsUnread s t := fun x hx hu => by
  rw [h] at hx
  cases hx
  cases hu

theorem State.presentRead_keepsUnread (s v : State) (b : ReadBurst) : KeepsUnread v (s.presentRead b) := by
  unfold State.presentRead
  split
  · exact .of_none rfl
  · split <;> exact .of_read rfl
  · split
    · unfold State.presentOutput
      dsimp only
      split
      · exact .of_none rfl
      all_goals exact .of_read rfl
    · exact .of_read rfl
  · exact .of_read rfl

theorem State.presentWrite_keepsUnread (s : State) (b : WriteBurst) :
    (s.presentWrite b).path.txn = some (.write b) ∨ (s.presentWrite b).path.txn = none := by
  unfold State.presentWrite
  dsimp only
  split
  · exact .inr rfl
  · split
    · exact .inl rfl
    · unfold State.acceptWrite State.captureAnchor
      dsimp only
      split <;> exact .inr rfl

theorem State.noteResult_keepsUnread (s : State) (g : Fin 12) (n : Nat) : KeepsUnread s (s.noteResult g n) := by
  unfold State.noteResult
  split
  · exact .of_read rfl
  · exact fun _ h _ => h

theorem State.serveRead_keepsUnread (s : State) (err : Bool) : KeepsUnread s (s.serveRead err) := by
  unfold State.serveRead
  split
  · split
    · exact .of_none rfl
    · unfold State.serveWords
      split
      · split <;> exact .of_none rfl
      · exact .of_none rfl
  · exact fun _ h _ => h

theorem State.classifyDeferred_keepsUnread (s : State) : KeepsUnread s s.classifyDeferred := by
  unfold State.classifyDeferred
  split
  · exact s.presentRead_keepsUnread s _
  · exact fun _ h _ => h

/-- A transaction in progress after a command that is no classified read was so before, or is the command's own burst. -/
theorem State.effect_unread (s : State) (c : Instr) (ho : (s.effect c).1 = true) :
    KeepsUnread s (s.effect c).2 ∨ (∃ b, c = .hostWrite b ∧ (s.effect c).2.path.txn = some (.write b)) ∨
      ∃ b, c = .hostRead b ∧ (s.effect c).2.path.txn = some (.unclassified b) := by
  have hf := s.effect_frame c ho
  cases c with
  | reset => cases ho
  | resetRelease m l => cases ho
  | hostWrite b =>
    simp only [State.effect]
    split
    · exact .inr (.inl ⟨b, rfl, rfl⟩)
    · rcases s.presentWrite_keepsUnread b with h | h
      · exact .inr (.inl ⟨b, rfl, h⟩)
      · exact .inl (.of_none h)
  | heldWriteAccepted =>
    refine .inl ?_
    change KeepsUnread s s.acceptHeld
    unfold State.acceptHeld
    split
    · rename_i b hb
      have htxn : s.path.txn = some (.write b) := by
        unfold State.heldWrite at hb
        split at hb
        · split at hb
          · cases hb
          · cases hb; assumption
        · cases hb
      rcases s.presentWrite_keepsUnread b with h | h
      · exact fun x hx _ => by rw [← hx, h, htxn]
      · exact .of_none h
    · exact fun _ h _ => h
  | hostRead b =>
    simp only [State.effect]
    split
    · exact .inr (.inr ⟨b, rfl, rfl⟩)
    · exact .inl (s.presentRead_keepsUnread s b)
  | outputReadReleased =>
    refine .inl ?_
    change KeepsUnread s s.releaseRead
    unfold State.releaseRead
    split
    · exact .of_read rfl
    · exact fun _ h _ => h
  | readServed err => exact .inl (s.serveRead_keepsUnread err)
  | resultWriteComplete err =>
    refine .inl ?_
    change KeepsUnread s (s.resultWritten err)
    unfold State.resultWritten
    split
    · have hnote : KeepsUnread s ((s.complete err).dropResult.noteResult ‹Gather›.group ‹Gather›.pos) :=
        State.noteResult_keepsUnread (s.complete err).dropResult _ _
      dsimp only
      split
      · exact hnote.trans (.frame (State.burstError_frame _ _ _ _) rfl)
      · exact hnote
    · exact fun _ h _ => h
  | activationStep =>
    refine .inl ?_
    change KeepsUnread s s.activateStaged
    unfold State.activateStaged
    split
    · exact (KeepsUnread.frame (s.activate_frame _ _) rfl).trans (State.classifyDeferred_keepsUnread _)
    · exact fun _ h _ => h
  | _ => exact .inl (.frame hf rfl)

/-! ### The condition on the memory path -/

theorem State.complete_wf (h : Memory.wf s.mem = true) (err : Bool) : Memory.wf (s.complete err).mem = true := by
  unfold State.complete
  cases err
  · exact Memory.wf_writeCells h _
  · exact h

theorem State.effect_wf (c : Instr) (h : Memory.wf s.mem = true) :
    Memory.wf (s.effect c).2.mem = true ∧ (s.effect c).2.arb.runCount = s.arb.runCount := by
  rcases s.effect_calm c with ⟨hm, ha⟩ | ⟨err, hm, ha⟩
  · rw [hm, ha]
    exact ⟨h, rfl⟩
  · rw [hm, ha]
    exact ⟨State.complete_wf h err, rfl⟩

/-- The queue's part of the condition. -/
def BoundedQueue (s : State) : Prop := s.path.queue.length ≤ 16 ∧ ∀ e ∈ s.path.queue, (Instr.hostWrite e.burst).wf = true

theorem BoundedQueue.sub (h : BoundedQueue s) (hq : t.path.queue.Sublist s.path.queue) : BoundedQueue t :=
  ⟨hq.length_le.trans h.1, fun e he => h.2 e (hq.subset he)⟩

theorem BoundedQueue.presentWrite (h : BoundedQueue s) {b : WriteBurst} (hb : (Instr.hostWrite b).wf = true) :
    BoundedQueue (s.presentWrite b) := by
  unfold State.presentWrite
  dsimp only
  split
  · exact h
  · split
    · exact h
    · rename_i hroom
      have hq : (s.acceptWrite b (s.classify b.addr)).path.queue = s.path.queue ++ [s.entryFor b (s.classify b.addr)] := by
        unfold State.acceptWrite State.captureAnchor
        dsimp only
        split <;> rfl
      have hlen : s.path.queue.length < 16 := by
        simp only [State.mustHold, Bool.or_eq_true, decide_eq_true_eq, not_or, not_le] at hroom
        exact hroom.1
      refine ⟨by rw [hq, List.length_append]; exact hlen, fun e he => ?_⟩
      rw [hq, List.mem_append, List.mem_singleton] at he
      rcases he with he | rfl
      · exact h.2 e he
      · exact hb

theorem State.heldWrite_txn {b : WriteBurst} (h : s.heldWrite = some b) : s.path.txn = some (.write b) := by
  unfold State.heldWrite at h
  split at h
  · split at h
    · cases h
    · cases h; assumption
  · cases h

theorem MemoryInv.effect (h : MemoryInv s) {c : Instr} (hw : c.wf = true) (ho : (s.effect c).1 = true) :
    MemoryInv (s.effect c).2 := by
  obtain ⟨hmem, hlen, hqueue, hwrite, hread, hrun⟩ := h
  have hq : BoundedQueue s := ⟨hlen, hqueue⟩
  have hq' : BoundedQueue (s.effect c).2 := by
    cases c with
    | hostWrite b =>
      change BoundedQueue (if _ then _ else _)
      split
      · exact hq
      · exact hq.presentWrite hw
    | heldWriteAccepted =>
      change BoundedQueue s.acceptHeld
      unfold State.acceptHeld
      split
      · exact hq.presentWrite (hwrite _ (State.heldWrite_txn ‹_›))
      · exact hq
    | _ => exact hq.sub (s.effect_queue_sub _ ho rfl)
  obtain ⟨hmem', hrun'⟩ := State.effect_wf c hmem
  refine ⟨hmem', hq'.1, hq'.2, fun b hb => ?_, fun b hb => ?_, hrun'.trans_le hrun⟩
  · rcases s.effect_unread c ho with hk | ⟨b', rfl, hb'⟩ | ⟨b', -, hb'⟩
    · exact hwrite b (hk _ hb rfl)
    · rw [hb'] at hb
      cases hb
      exact hw
    · rw [hb'] at hb
      cases hb
  · rcases s.effect_unread c ho with hk | ⟨b', -, hb'⟩ | ⟨b', rfl, hb'⟩
    · exact hread b (hk _ hb rfl)
    · rw [hb'] at hb
      cases hb
    · rw [hb'] at hb
      cases hb
      exact hw

/-- A PASS grant that counts is made below 8, for with 8 counted and another requester waiting PASS is not granted (R38). -/
theorem State.winner_pass_room (h : s.winner = some .pass) : ¬(s.arb.runCount = 8 ∧ s.othersWait = true) := by
  have hpass : (s.eligible .pass && !(s.arb.runCount = 8 && s.othersWait)) = true := by
    by_contra hno
    unfold State.winner at h
    rw [if_neg hno] at h
    split_ifs at h <;> cases h
  intro hboth
  simp [hboth.1, hboth.2] at hpass

theorem State.arbitrate_runCount (h : s.arb.runCount ≤ 8) : s.arbitrate.arb.runCount ≤ 8 := by
  unfold State.arbitrate
  split
  · exact h
  · split
    · rename_i r hr
      change s.runAfter r ≤ 8
      cases r with
      | result => exact h
      | pass =>
        have hroom := State.winner_pass_room hr
        simp only [State.runAfter]
        split
        · rename_i hothers
          have hne : s.arb.runCount ≠ 8 := fun h8 => hroom ⟨h8, hothers⟩
          omega
        · exact Nat.zero_le 8
      | clip => exact Nat.zero_le 8
      | plan => exact Nat.zero_le 8
      | mirror => exact Nat.zero_le 8
      | log => exact Nat.zero_le 8
    · exact h

theorem State.presentAll_runCount (s : State) : s.presentAll.arb.runCount = s.arb.runCount := by
  have hclip : s.presentClip.arb.runCount = s.arb.runCount := by
    unfold State.presentClip
    split
    · rfl
    · split <;> rfl
  exact hclip

theorem MemoryInv.settle (h : MemoryInv s) : MemoryInv s.settle := by
  obtain ⟨hmem, hlen, hqueue, hwrite, hread, hrun⟩ := h
  have htxn : KeepsUnread s s.settle := .frame s.settle_frame rfl
  refine ⟨by simpa using hmem, by simpa using hlen, by simpa using hqueue, fun b hb => hwrite b (htxn _ hb rfl),
    fun b hb => hread b (htxn _ hb rfl), ?_⟩
  change s.presentAll.arbitrate.presentAll.arb.runCount ≤ 8
  rw [State.presentAll_runCount]
  exact State.arbitrate_runCount (by rwa [State.presentAll_runCount])

theorem MemoryInv.reset (h : MemoryInv s) : MemoryInv s.resetState := by
  have hmem : Memory.wf s.memAfterReset = true := by
    unfold State.memAfterReset
    split
    · exact Memory.wf_writeCells h.1 _
    · exact h.1
  refine ⟨hmem, Nat.zero_le _, fun e he => (List.not_mem_nil he).elim, fun b hb => ?_, fun b hb => ?_, Nat.zero_le _⟩
  all_goals cases hb

/-- Settles O5: the effects keep the queue and the transaction's form, and the end of a command the run count. -/
theorem stepKeepsMemoryPath : Obligations.StepKeepsMemoryPath :=
  step_keeps (fun _ _ h => h) (fun _ _ h => h) (fun _ h => h.reset) (fun _ _ _ h => h) (fun _ h => h.settle)
    (fun _ _ hw ho h => h.effect hw ho)

end Sys2Proof.Machine
end


section
/-! PROOFS. The gather pool under every command (chapter 06): its records, the keys of its OPEN gathers, and the arrival that waits. -/

namespace Sys2Proof.Machine

variable {s t u : State}

/-! ### The pool, by the keys of its OPEN gathers -/

def Gather.key (ga : Gather) : Fin 12 × Nat := (ga.group, ga.pos)

def Arrival.key (a : Arrival) : Fin 12 × Nat := (a.group, a.pos)

def State.openKeys (s : State) : List (Fin 12 × Nat) := s.gather.opens.map Gather.key

theorem Gather.hasKey_key {ga : Gather} {g : Fin 12} {n : Nat} : ga.hasKey g n = true ↔ ga.key = (g, n) := by
  simp [Gather.hasKey, Gather.key]

/-- The condition on the pool apart from the memory port: `parked` is what an arrival that waits is to know of the port. -/
structure PoolOk (parked : Prop) (s : State) : Prop where
  used : s.poolUsed ≤ 32
  keys : s.openKeys.Nodup
  waiting : ∀ a, s.gather.waiting = some a → a.key ∉ s.openKeys ∧ parked

theorem poolInv_iff : PoolInv s ↔ PoolOk (s.arb.port ≠ some .queueHead) s := by
  have hkeys : s.gather.opens.Pairwise (fun a b => ¬(a.group = b.group ∧ a.pos = b.pos)) ↔ s.openKeys.Nodup := by
    rw [State.openKeys, List.Nodup, List.pairwise_map]
    simp [Gather.key]
  have hopen (a : Arrival) : s.openAt a.group a.pos = none ↔ a.key ∉ s.openKeys := by
    simp [State.openAt, State.openKeys, Gather.hasKey_key, Arrival.key]
  unfold PoolInv
  rw [hkeys]
  simp only [hopen]
  exact ⟨fun ⟨a, b, c⟩ => ⟨a, b, c⟩, fun ⟨a, b, c⟩ => ⟨a, b, c⟩⟩

theorem State.openAt_mem {g : Fin 12} {n : Nat} {ga : Gather} (h : s.openAt g n = some ga) : ga.key ∈ s.openKeys :=
  List.mem_map_of_mem (List.mem_of_find?_eq_some h)

theorem State.openAt_none {a : Arrival} (h : s.openAt a.group a.pos = none) : a.key ∉ s.openKeys := by
  simpa [State.openAt, State.openKeys, Gather.hasKey_key, Arrival.key] using h

/-! ### The pool under the gather engine's operations -/

theorem State.closeGather_pool (s : State) (ga : Gather) (st : CloseStatus) :
    (s.closeGather ga st).openKeys = s.openKeys.filter (fun x => x != ga.key) ∧
    (s.closeGather ga st).gather.results.length = s.gather.results.length + 1 ∧
    (s.closeGather ga st).gather.waiting = s.gather.waiting := by
  obtain ⟨hopens, hresults, -⟩ := s.closeGather_closed ga st
  refine ⟨?_, by rw [hresults]; simp, (s.closeGather_frame ga st).same .arrival rfl⟩
  rw [State.openKeys, State.openKeys, hopens, List.filter_map]
  congr 1

theorem State.openKeys_length (s : State) : s.openKeys.length = s.gather.opens.length := List.length_map _

namespace PoolOk

variable {parked : Prop}

theorem congr (h : PoolOk parked s) (ho : t.gather.opens = s.gather.opens) (hr : t.gather.results = s.gather.results)
    (hw : t.gather.waiting = s.gather.waiting) : PoolOk parked t := by
  obtain ⟨hused, hkeys, hwait⟩ := h
  have hk : t.openKeys = s.openKeys := by rw [State.openKeys, ho]; rfl
  exact ⟨by rw [State.poolUsed, ho, hr]; exact hused, by rwa [hk], by rwa [hw, hk]⟩

theorem frame {l : List Part} (h : PoolOk parked s) (f : Frame l s t)
    (hl : (Part.within [.opens] l || Part.within [.results] l || Part.within [.arrival] l) = false) : PoolOk parked t := by
  simp only [Bool.or_eq_false_iff] at hl
  obtain ⟨⟨ho, hr⟩, hw⟩ := hl
  exact h.congr (f.same .opens ho) (f.same .results hr) (f.same .arrival hw)

/-- A close moves an OPEN record to the result list: the pool holds no more, and no further key is OPEN (R110). -/
theorem closeGather (h : PoolOk parked s) {ga : Gather} (hga : ga.key ∈ s.openKeys) (st : CloseStatus) :
    PoolOk parked (s.closeGather ga st) := by
  obtain ⟨hused, hkeys, hwait⟩ := h
  obtain ⟨hk, hr, hw⟩ := s.closeGather_pool ga st
  refine ⟨?_, by rw [hk]; exact hkeys.filter _, fun a ha => ?_⟩
  · have hlt : (s.openKeys.filter fun x => x != ga.key).length < s.openKeys.length :=
      List.length_filter_lt_length_iff_exists.mpr ⟨ga.key, hga, by simp⟩
    rw [← hk, State.openKeys_length, State.openKeys_length] at hlt
    unfold State.poolUsed at hused ⊢
    omega
  · obtain ⟨hnot, hp⟩ := hwait a (hw ▸ ha)
    rw [hk]
    exact ⟨fun hmem => hnot (List.mem_filter.mp hmem).1, hp⟩

theorem putOpen_openKeys (s : State) (ga : Gather) : (s.putOpen ga).openKeys = s.openKeys := by
  simp only [State.openKeys, State.putOpen, List.map_map]
  refine List.map_congr_left fun x _ => ?_
  simp only [Function.comp_apply]
  split
  · exact (Gather.hasKey_key.mp ‹_›).symm
  · rfl

theorem putOpen (h : PoolOk parked s) (ga : Gather) : PoolOk parked (s.putOpen ga) := by
  obtain ⟨hused, hkeys, hwait⟩ := h
  have hk := putOpen_openKeys s ga
  refine ⟨?_, by rwa [hk], by rwa [hk]⟩
  rw [State.poolUsed, ← State.openKeys_length, hk, State.openKeys_length]
  exact hused

theorem joinedRecord_key (s : State) (ga : Gather) (k : Fin 24) (l : List Byte) : (s.joinedRecord ga k l).key = ga.key := by
  unfold State.joinedRecord
  dsimp only
  split <;> rfl

theorem joinGather (h : PoolOk parked s) {ga : Gather} (hga : ga.key ∈ s.openKeys) (k : Fin 24) (l : List Byte) :
    PoolOk parked (s.joinGather ga k l) := by
  have hput := h.putOpen (s.joinedRecord ga k l)
  unfold State.joinGather
  dsimp only
  split
  · refine hput.closeGather ?_ _
    rw [putOpen_openKeys, joinedRecord_key]
    exact hga
  · exact hput

/-- A gather opens for an arrival whose key has no OPEN record, while a record is free and none waits (R106). -/
theorem openGather (h : PoolOk parked s) {a : Arrival} (hroom : s.poolUsed < 32) (hnew : a.key ∉ s.openKeys)
    (hnone : s.gather.waiting = none) : PoolOk parked (s.openGather a) := by
  obtain ⟨hused, hkeys, hwait⟩ := h
  let v : State := { s with gather := { s.gather with opens := s.gather.opens ++ [s.openedRecord a] } }
  have hk : v.openKeys = s.openKeys ++ [a.key] := List.map_append
  have hv : PoolOk parked v := by
    refine ⟨?_, ?_, fun b hb => ?_⟩
    · simp only [State.poolUsed, v, List.length_append, List.length_singleton] at hroom ⊢
      omega
    · rw [hk]
      rw [← List.concat_eq_append]
      exact hkeys.concat hnew
    · rw [show v.gather.waiting = none from hnone] at hb
      cases hb
  have hmark : PoolOk parked (v.mark (mirrorOfGroup a.group)) := hv.congr rfl rfl rfl
  exact hmark.joinGather (show _ ∈ v.openKeys by rw [hk]; exact List.mem_append_right _ (List.mem_singleton_self _)) _ _

theorem evictee_mem : ∀ {l : List Gather} {ga : Gather}, evictee l = some ga → ga ∈ l
  | [], _, h => by cases h
  | a :: as, ga, h => by
    unfold evictee at h
    split at h
    · rename_i b hb
      cases h
      have hmem := evictee_mem hb
      unfold earlier
      split
      · exact List.mem_cons_of_mem _ hmem
      · split
        · exact List.mem_cons_of_mem _ hmem
        · exact List.mem_cons_self
    · cases h
      exact List.mem_cons_self

theorem openOrWait (h : PoolOk parked s) {a : Arrival} (hnew : a.key ∉ s.openKeys) (hnone : s.gather.waiting = none)
    (hp : parked) : PoolOk parked (s.openOrWait a) := by
  have hwait {v : State} (hv : PoolOk parked v) (hk : a.key ∉ v.openKeys) :
      PoolOk parked { v with gather := { v.gather with waiting := some a } } :=
    ⟨hv.used, hv.keys, fun b hb => by cases hb; exact ⟨hk, hp⟩⟩
  unfold State.openOrWait
  dsimp only
  split
  · exact h.openGather ‹_› hnew hnone
  · split
    · rename_i ga hga
      refine hwait (h.closeGather (List.mem_map_of_mem (evictee_mem hga)) _) ?_
      rw [(s.closeGather_pool ga _).1]
      exact fun hmem => hnew (List.mem_filter.mp hmem).1
    · exact hwait h hnew

theorem arrive (h : PoolOk parked s) (a : Arrival) (hnone : s.gather.waiting = none) (hp : parked) :
    PoolOk parked (s.arrive a) := by
  unfold State.arrive
  split
  · rename_i ga hga
    have hmem := State.openAt_mem hga
    split
    · split
      · exact h.congr rfl rfl rfl
      · exact h.joinGather hmem _ _
    · obtain ⟨hk, -, hw⟩ := s.closeGather_pool ga .superseded
      refine (h.closeGather hmem _).openOrWait ?_ (hw.trans hnone) hp
      have hkey : ga.key = a.key := by
        obtain ⟨hg, hn⟩ := State.openAt_key hga
        rw [Gather.key, Arrival.key, hg, hn]
      rw [hk, hkey]
      simp
  · split
    · exact h.congr rfl rfl rfl
    · exact h.openOrWait (State.openAt_none ‹_›) hnone hp

theorem gatherWrite (h : PoolOk parked s) (g : Fin 12) (b : WriteBurst) (hnone : s.gather.waiting = none) (hp : parked) :
    PoolOk parked (s.gatherWrite g b) := by
  unfold State.gatherWrite
  dsimp only
  split
  · exact h
  · split
    · exact h
    · split
      · exact h.frame (State.log_frame s _ _ _ _) rfl
      · split
        · exact h
        · exact h.arrive _ hnone hp

/-- Closes one after another, each of another OPEN record. -/
theorem closes (st : CloseStatus) {l : List Gather} (h : PoolOk parked s) (hnodup : (l.map Gather.key).Nodup)
    (hmem : ∀ ga ∈ l, ga.key ∈ s.openKeys) : PoolOk parked (l.foldl (fun v ga => v.closeGather ga st) s) := by
  induction l generalizing s with
  | nil => exact h
  | cons ga l ih =>
    rw [List.map_cons, List.nodup_cons] at hnodup
    obtain ⟨hnot, hrest⟩ := hnodup
    refine ih (h.closeGather (hmem ga List.mem_cons_self) st) hrest fun x hx => ?_
    rw [(s.closeGather_pool ga st).1, List.mem_filter]
    refine ⟨hmem x (List.mem_cons_of_mem _ hx), ?_⟩
    have hne : x.key ≠ ga.key := fun e => hnot (e ▸ List.mem_map_of_mem hx)
    simpa using hne

/-- Closes of gathers that are OPEN, in any order. -/
theorem closesOpen (h : PoolOk parked s) (st : CloseStatus) {l m : List Gather} (hl : l.Perm m)
    (hm : m.Sublist s.gather.opens) : PoolOk parked (l.foldl (fun v ga => v.closeGather ga st) s) := by
  refine closes st h ?_ fun ga hga => List.mem_map_of_mem (hm.subset (hl.subset hga))
  exact (hl.map Gather.key).nodup_iff.mpr (h.keys.sublist (hm.map _))

theorem leaveExpected (h : PoolOk parked s) (k : Fin 24) : PoolOk parked (s.leaveExpected k) := by
  rw [State.leaveExpected, checkFold s k _ s rfl fun _ => rfl]
  exact h.closesOpen .complete ((sortKeys_perm _).filter _) List.filter_sublist

theorem endWait (h : PoolOk parked s) : PoolOk parked s.endWait := by
  unfold State.endWait
  split
  · exact ⟨h.used, h.keys, fun a ha => nomatch ha⟩
  · exact h

theorem flushPool (h : PoolOk parked s) : PoolOk parked s.flushPool := by
  have hend : PoolOk parked ({ s with gather := { s.gather with taking := false } } : State).endWait :=
    PoolOk.endWait (h.congr rfl rfl rfl)
  exact hend.closesOpen .flushed (sortKeys_perm _) (.refl _)

theorem applyGroup (h : PoolOk parked s) (g : Fin 12) (e : GroupEntry) : PoolOk parked (s.applyGroup g e) := by
  have hflush := h.closesOpen .flushed (sortKeys_perm (s.gather.opens.filter fun ga => ga.group = g)) List.filter_sublist
  have hwait (v : State) (hv : PoolOk parked v) : PoolOk parked (v.endWaitOf g) := by
    unfold State.endWaitOf
    split
    · split
      · exact hv.endWait
      · exact hv
    · exact hv
  exact ((hwait _ hflush).frame (State.setGrp_frame _ g _) rfl).frame (State.markIf_frame _ _ _) rfl

theorem givePool (h : PoolOk parked s) (hready : s.poolReady = true) : PoolOk parked s.givePool := by
  simp only [State.poolReady, Bool.and_eq_true, decide_eq_true_eq] at hready
  unfold State.givePool
  split
  · rename_i a ha
    have hused : s.endWait.poolUsed = s.poolUsed := by unfold State.endWait; split <;> rfl
    have hkeys : s.endWait.openKeys = s.openKeys := by unfold State.endWait; split <;> rfl
    have hnone : s.endWait.gather.waiting = none := by rw [State.endWait, if_pos hready.1]
    split
    · exact h.endWait.openGather (hused ▸ hready.2) (hkeys ▸ (h.waiting a ha).1) hnone
    · exact h.endWait
  · exact h

theorem outputRead (h : PoolOk parked s) (g : Fin 12) (n : Nat) : PoolOk parked (s.outputRead g n).1 := by
  unfold State.outputRead
  dsimp only
  split
  · rename_i ga hga
    have hmem := State.openAt_mem hga
    split
    · exact h.closeGather hmem .onRead
    · have hput := h.putOpen { ga with retries := ga.retries + 1 }
      split
      · refine hput.closeGather ?_ .retryLimit
        rw [putOpen_openKeys]
        exact hmem
      · exact hput
  · split <;> exact h

theorem presentRead (h : PoolOk parked s) (b : ReadBurst) : PoolOk parked (s.presentRead b) := by
  unfold State.presentRead
  split
  · exact h.congr rfl rfl rfl
  · split <;> exact h.congr rfl rfl rfl
  · split
    · unfold State.presentOutput
      dsimp only
      have hread := h.outputRead ‹Fin 12› ((s.grp ‹Fin 12›).outputPos b.addr)
      split <;> exact hread.congr rfl rfl rfl
    · exact h.congr rfl rfl rfl
  · exact h.congr rfl rfl rfl

theorem resultWritten (h : PoolOk parked s) (err : Bool) : PoolOk parked (s.resultWritten err) := by
  unfold State.resultWritten
  split
  · rename_i ga _ _
    have hdrop : PoolOk parked (s.complete err).dropResult := by
      refine ⟨?_, h.keys, h.waiting⟩
      have hused := h.used
      simp only [State.poolUsed, State.dropResult, State.complete, State.freePort, List.length_tail] at hused ⊢
      omega
    have hnote := hdrop.frame (State.noteResult_frame _ ga.group ga.pos) rfl
    dsimp only
    split
    · exact hnote.frame (State.burstError_frame _ _ _ _) rfl
    · exact hnote
  · exact h

theorem moveSec (h : PoolOk parked s) (k : Fin 24) (r : SectionRec) (n : SectionState) (c : SecCause) :
    PoolOk parked (s.moveSec k r n c) := h.congr rfl rfl rfl

theorem loseSec (h : PoolOk parked s) (k : Fin 24) : PoolOk parked (s.loseSec k) :=
  ((h.moveSec k _ _ _).leaveExpected k).frame (State.clearGates_frame _ _) rfl

theorem applySection (h : PoolOk parked s) (k : Fin 24) (en : Bool) (n : Nat) : PoolOk parked (s.applySection k en n) := by
  have hput (r : SectionRec) : PoolOk parked (s.putSec k r) := h.congr rfl rfl rfl
  unfold State.applySection
  split
  · unfold State.retimeSec
    dsimp only
    split
    · exact (hput _).loseSec k
    · exact hput _
  · exact (((h.moveSec k _ _ _).leaveExpected k).frame (State.clearGates_frame _ _) rfl).congr rfl rfl rfl
  · exact h.moveSec k _ _ _
  · exact hput _

theorem readNext (h : PoolOk parked s) (st : Staged) : PoolOk parked (s.readNext st) := by
  unfold State.readNext
  split <;> exact h.congr rfl rfl rfl

theorem planLineRead (h : PoolOk parked s) (err : Bool) : PoolOk parked (s.planLineRead err) := by
  have hend : PoolOk parked (s.complete err) := h.congr rfl rfl rfl
  unfold State.planLineRead
  split
  · split
    · exact hend.congr rfl rfl rfl
    · unfold State.lineLoaded
      dsimp only
      split
      · exact hend.readNext _
      · split
        · split
          · exact hend.readNext _
          · exact hend.congr rfl rfl rfl
        · unfold State.checkStaged
          split
          · exact hend.congr rfl rfl rfl
          · exact PoolOk.flushPool (hend.congr rfl rfl rfl)
  · exact h

theorem takeHead (h : PoolOk parked s) (err : Bool) (hnone : s.gather.waiting = none) (hp : parked) :
    PoolOk parked (s.takeHead err) := by
  unfold State.takeHead
  split
  · rename_i e _ _
    have hlost : Frame (.memory :: errorParts) s ((s.complete err).noteLost e err) :=
      ((s.complete_frame err).wide rfl).trans ((State.noteLost_frame _ e err).wide rfl)
    have hregion : PoolOk parked (((s.complete err).noteLost e err).watchRegion e) := by
      have hl := h.frame hlost rfl
      have hwait : ((s.complete err).noteLost e err).gather.waiting = none :=
        Eq.trans (hlost.same .arrival rfl) hnone
      generalize (s.complete err).noteLost e err = v at hl hwait
      unfold State.watchRegion
      split
      · exact hl.frame (State.programmeWrite_frame _ _ _) rfl
      · have hsup := State.superviseWrite_frame v ‹_› e.burst
        exact (hl.frame hsup rfl).gatherWrite _ _ (Eq.trans (hsup.same .arrival rfl) hwait) hp
      all_goals exact hl
    exact (hregion.frame (State.watchWords_frame _ e) rfl).frame (State.popHead_frame _) rfl
  · exact h

theorem handSection (h : PoolOk parked s) (i : Nat) (b : List Byte) : PoolOk parked (s.handEntry 3 i b) := by
  rw [State.handEntry_section]
  split
  · exact ((h.applySection _ _ _).frame (State.logClamped_frame _ _) rfl).frame (State.finish_frame _ _) rfl
  · exact h.frame (State.finish_frame _ _) rfl

theorem handGroup (h : PoolOk parked s) (i : Nat) (b : List Byte) : PoolOk parked (s.handEntry 4 i b) := by
  rw [State.handEntry_group]
  split
  · split
    · exact ((h.applyGroup _ _).frame (State.logClamped_frame _ _) rfl).frame (State.finish_frame _ _) rfl
    · exact h.frame (State.finish_frame _ _) rfl
  · exact h.frame (State.finish_frame _ _) rfl

theorem activateStaged (h : PoolOk parked s) : PoolOk parked s.activateStaged := by
  unfold State.activateStaged
  split
  · rename_i p _
    have hact := h.frame (s.activate_frame p.1.tables p.2) rfl
    unfold State.classifyDeferred
    split
    · exact hact.presentRead _
    · exact hact
  · exact h

/-- Every effect keeps the pool; an arrival begins to wait while the write it came with ends on the memory port (R28, R107). -/
theorem effect (h : PoolOk parked s) (c : Instr) (ho : (s.effect c).1 = true)
    (htaken : ∀ err, c = .writeTaken err → s.gather.waiting = none ∧ parked) : PoolOk parked (s.effect c).2 := by
  have hf := s.effect_frame c ho
  cases c with
  | reset => cases ho
  | resetRelease m l => cases ho
  | hostRead b =>
    change PoolOk parked (if _ then _ else _)
    split
    · exact h.congr rfl rfl rfl
    · exact h.presentRead b
  | writeTaken err =>
    obtain ⟨hnone, hp⟩ := htaken err rfl
    exact h.takeHead err hnone hp
  | poolRecordGiven => exact h.givePool ho
  | resultWriteComplete err => exact h.resultWritten err
  | lossTimerExpiry k => exact h.loseSec k
  | gatherDeadline g n =>
    change PoolOk parked (s.expireGather g n)
    unfold State.expireGather State.expiredGather
    split
    · rename_i ga hga
      split at hga
      · split at hga
        · cases hga
          exact h.closeGather (State.openAt_mem ‹_›) _
        · cases hga
      · cases hga
    · exact h
  | planFetchComplete err => exact h.planLineRead err
  | activationStep => exact h.activateStaged
  | updateSection err =>
    exact State.entryLineRead_keeps 3 err (fun h f => h.frame f rfl) (fun _ i b hu => hu.handSection i b) h
  | updateGroup err =>
    exact State.entryLineRead_keeps 4 err (fun h f => h.frame f rfl) (fun _ i b hu => hu.handGroup i b) h
  | quiesce => exact PoolOk.flushPool (h.congr rfl rfl rfl)
  | _ => exact h.frame hf rfl

end PoolOk

/-! ### The waiting arrival and the memory port -/

theorem PoolInv.effect (h : PoolInv s) (c : Instr) (ho : (s.effect c).1 = true) : PoolInv (s.effect c).2 := by
  rw [poolInv_iff] at h ⊢
  by_cases htaken : ∃ err, c = .writeTaken err
  · obtain ⟨err, rfl⟩ := htaken
    simp only [State.effect, State.headOnPort, Bool.and_eq_true, decide_eq_true_eq, Bool.not_eq_true', List.isEmpty_eq_false_iff] at ho
    obtain ⟨hport, hq⟩ := ho
    have hnone : s.gather.waiting = none := by
      cases hw : s.gather.waiting with
      | none => rfl
      | some a => exact absurd hport (h.waiting a hw).2
    have hfree : (s.takeHead err).arb.port = none := by rw [(s.takeHead_calm err hq).2]; rfl
    change PoolOk ((s.takeHead err).arb.port ≠ some .queueHead) (s.takeHead err)
    rw [hfree]
    exact PoolOk.takeHead ⟨h.used, h.keys, fun a ha => ⟨(h.waiting a ha).1, nofun⟩⟩ err hnone nofun
  · have hpool := h.effect c ho fun err he => absurd ⟨err, he⟩ htaken
    refine ⟨hpool.used, hpool.keys, fun a ha => ⟨(hpool.waiting a ha).1, ?_⟩⟩
    rcases s.effect_calm c with ⟨-, harb⟩ | ⟨err, -, harb⟩
    · rw [harb]
      exact (hpool.waiting a ha).2
    · rw [harb]
      exact nofun

/-- While an arrival waits on the pool the queue head is not granted the port (R27, R107). -/
theorem State.arbitrate_parked (h : s.gather.waiting.isSome = true → s.arb.port ≠ some .queueHead) :
    s.gather.waiting.isSome = true → s.arbitrate.arb.port ≠ some .queueHead := by
  intro hw
  unfold State.arbitrate
  split
  · exact h hw
  · split
    · rename_i r hr
      have helig := s.winner_eligible r hr
      change s.grantedBurst r ≠ _
      cases r with
      | pass =>
        have hread : s.readReady = true := by
          have hne : s.gather.waiting.isNone = false := by simpa using hw
          simpa [State.eligible, State.presents, State.headReady, hne] using helig
        simp [State.grantedBurst, hread]
      | result => simp [State.grantedBurst]
      | clip => simp [State.grantedBurst]
      | plan => simp [State.grantedBurst]
      | mirror => simp [State.grantedBurst]
      | log => simp only [State.grantedBurst]; split <;> simp
    · exact h hw

theorem PoolInv.settle (h : PoolInv s) : PoolInv s.settle := by
  rw [poolInv_iff] at h ⊢
  have hpool := h.frame s.settle_frame rfl
  refine ⟨hpool.used, hpool.keys, fun a ha => ⟨(hpool.waiting a ha).1, ?_⟩⟩
  have hwait : s.presentAll.gather.waiting = some a := by
    rw [State.settle_waiting] at ha
    exact Eq.trans (s.presentAll_frame.same .arrival rfl) ha
  rw [State.settle, State.presentAll_port]
  refine State.arbitrate_parked (fun _ => ?_) (by rw [hwait]; rfl)
  rw [State.presentAll_port]
  exact (hpool.waiting a ha).2

/-- Settles O9: closes take a record from the OPEN ones to the result list, a gather opens in a free record only, and the queue head
is not granted the port while an arrival waits. -/
theorem stepKeepsGatherPool : Obligations.StepKeepsGatherPool :=
  step_keeps (fun _ _ h => h) (fun _ _ h => h)
    (fun _ _ => ⟨Nat.zero_le _, List.Pairwise.nil, fun _ ha => nomatch ha⟩) (fun _ _ _ h => h) (fun _ h => h.settle)
    (fun c _ _ ho h => h.effect c ho)

end Sys2Proof.Machine
end


section
/-! PROOFS. The reset state, the board and the system port: RESET, presented writes and reads, classification (chapters 02, 03, 11). -/

namespace Sys2Proof.Machine

variable {s t u : State}

/-- Settles O4: each condition, at the reset values of its records. -/
theorem resetMeetsConditions : Obligations.ResetMeetsConditions := by
  have hmemory : MemoryInv State.reset :=
    ⟨State.reset_wf, Nat.zero_le _, fun e he => (List.not_mem_nil he).elim, nofun, nofun, Nat.zero_le _⟩
  have hline : LineInv State.reset := fun k => by simp [State.line, State.reset, LineRec.ok, LineRec.atReset]
  exact ⟨hmemory, BreakInv.reset State.reset, FenceInv.reset State.reset, SectionInv.reset State.reset,
    TimingInv.reset State.reset, hline, Nat.zero_le _, List.Pairwise.nil, fun _ ha => nomatch ha⟩

/-! ### RESET -/

/-- RESET changes no byte of memory but those of the write on the memory port (R34). -/
theorem State.memAfterReset_outside (h : Memory.wf s.mem = true) (hm : t.mem = s.memAfterReset) :
    SameOutside s.portCells s t := by
  intro a ha
  rw [hm]
  unfold State.memAfterReset
  split
  · exact Memory.read_writeCells_other h _ a ha
  · rfl

/-- Settles O10: the fields of the reset state, one by one. -/
theorem resetSetsEveryBlock : Obligations.ResetSetsEveryBlock := by
  unfold Obligations.ResetSetsEveryBlock
  constructor
  · intro s hwf
    refine ⟨_, exec_reset s, rfl, rfl, rfl, State.memAfterReset_outside hwf rfl, rfl, rfl, rfl,
      Table.get_fill SectionRec.atReset, Table.get_fill ProgRec.atReset, rfl, rfl, rfl, rfl, rfl,
      fun c => ⟨Table.get_fill Chan.atReset c, Table.get_fill false c⟩, rfl, Table.get_fill BreakRec.atReset,
      Table.get_fill Group.atReset, rfl, rfl, rfl, rfl, fun k => ?_, rfl⟩
    exact Table.get_ofFn (fun k => { LineRec.atReset with high := (s.line k).high }) k
  · intro m levels s hreset
    refine ⟨_, exec_resetRelease m levels s, ?_⟩
    rw [if_pos hreset]
    refine ⟨rfl, rfl, rfl, fun k => ?_, s.released_frame m levels⟩
    simp [State.line, State.released]

/-! ### Commands whose event occurs -/

/-- A command whose event can occur, with RESET high: its effect, then the end of every command. -/
theorem exec_effect {c : Instr} (hw : c.wf = true) (hp : ofResetPin c = false) (hreset : s.inReset = false)
    (ho : (s.effect c).1 = true) : exec c s = .next (s.effect c).2.settle := by
  rw [exec_eq_act s hw hp, act_next _ _ _ hreset ho]

theorem Frame.settled {l : List Part} (h : Frame l s t) : Frame l s t.settle := h.trans (t.settle_frame.mono nofun)

/-- A piece of state listed in a frame, which is the same after all. -/
theorem Frame.drop {p : Part} {l : List Part} (h : Frame (p :: l) s t) (hp : Same p s t) : Frame l s t := fun q hq => by
  by_cases hqp : q = p
  · exact hqp ▸ hp
  · exact h q (by simp [hqp, hq])

/-! ### Classification -/

theorem State.classify_beyond {a : Nat} (h : s.path.memSize ≤ a) : s.classify a = .beyondMemory := if_pos h

theorem State.classify_inForce {a : Nat} (h : a < s.path.memSize) (hf : s.inForce = true) :
    s.classify a = s.path.kindAt a := by
  rw [State.classify, if_neg (by omega), if_pos hf]

theorem MemPath.kindAt_uncovered {p : MemPath} {a : Nat} (h : ∀ r ∈ p.allRegions, r.covers a = false) : p.kindAt a = .plain := by
  have hnone : p.regionAt a = none := List.find?_eq_none.mpr fun r hr => by simp [h r hr]
  rw [MemPath.kindAt, hnone]

theorem MemPath.kindAt_covered {p : MemPath} {a : Nat} {r : Region} (hr : r ∈ p.allRegions) (hc : r.covers a = true)
    (hone : ∀ q ∈ p.allRegions, q.covers a = true → q = r) : p.kindAt a = r.kind := by
  unfold MemPath.kindAt
  cases hfind : p.regionAt a with
  | none => exact absurd hc (List.find?_eq_none.mp hfind r hr)
  | some q =>
    rw [MemPath.regionAt] at hfind
    have hq : q.covers a = true := by simpa using List.find?_some hfind
    rw [hone q (List.mem_of_find?_eq_some hfind) hq]

theorem Region.covers_iff (r : Region) (a : Nat) : r.covers a = true ↔ r.base ≤ a ∧ a / 64 * 64 < r.base + r.size := by
  simp [Region.covers]

/-- Settles O15. -/
theorem regionClassification : Obligations.RegionClassification := by
  intro s a
  refine ⟨State.classify_beyond, fun ha hf => ?_, fun ha hf hno => ?_, fun r hr ha hf hbase hsize hone => ?_⟩
  · rw [State.classify, if_neg (by omega), if_neg (by simp [hf])]
  · rw [State.classify_inForce ha hf]
    refine MemPath.kindAt_uncovered fun r hr => ?_
    have hout := hno r hr
    rw [← Bool.not_eq_true, Region.covers_iff]
    omega
  · rw [State.classify_inForce ha hf]
    refine MemPath.kindAt_covered hr ((r.covers_iff a).mpr ⟨hbase, hsize⟩) fun q hq hc => ?_
    obtain ⟨hq1, hq2⟩ := (q.covers_iff a).mp hc
    exact hone q hq hq1 hq2

/-! ### Presented writes -/

theorem State.refuses_iff (s : State) (k : LineKind) : s.refuses k = true ↔ s.refused k := by
  cases k <;> simp [State.refuses, State.refused]

theorem State.mustHold_iff (s : State) : s.mustHold = true ↔ s.noSlot := by
  simp [State.mustHold, State.noSlot]

/-- Outside the drain of a swap no activation step is due (R33). -/
theorem State.drained_of_not_draining (h : s.draining = false) : s.drained = none := by
  cases hd : s.drained with
  | none => rfl
  | some p =>
    obtain ⟨⟨n, hn⟩, -⟩ := s.drained_isSome.mp (by rw [hd]; rfl)
    simp [State.draining, hn] at h

theorem State.presentWrite_refused {b : WriteBurst} (h : s.refused (s.classify b.addr)) :
    s.presentWrite b = s.refuseWrite b (s.classify b.addr) := if_pos ((s.refuses_iff _).mpr h)

theorem State.presentWrite_held {b : WriteBurst} (h : ¬s.refused (s.classify b.addr)) (hslot : s.noSlot) :
    s.presentWrite b = s.holdTxn (.write b) := by
  unfold State.presentWrite
  dsimp only
  rw [if_neg (mt (s.refuses_iff _).mp h), if_pos (s.mustHold_iff.mpr hslot)]

theorem State.presentWrite_accepted {b : WriteBurst} (h : ¬s.refused (s.classify b.addr)) (hslot : ¬s.noSlot) :
    s.presentWrite b = s.acceptWrite b (s.classify b.addr) := by
  unfold State.presentWrite
  dsimp only
  rw [if_neg (mt (s.refuses_iff _).mp h), if_neg (mt s.mustHold_iff.mp hslot)]

theorem State.acceptWrite_path (s : State) (b : WriteBurst) (k : LineKind) :
    (s.acceptWrite b k).path = { s.path with txn := none, response := some .accept, queue := s.path.queue ++ [s.entryFor b k] } := by
  unfold State.acceptWrite State.captureAnchor
  dsimp only
  split <;> rfl

/-- The first write accepted in AWAIT_ANCHOR captures the anchor, no other does (R20). -/
theorem State.acceptWrite_anchor (s : State) (b : WriteBurst) (k : LineKind) :
    (s.plan.partState = .awaitAnchor → (s.acceptWrite b k).plan.anchor = some (b.addr / 4096 * 4096) ∧
      (s.acceptWrite b k).plan.partState = .anchored) ∧
    (s.plan.partState ≠ .awaitAnchor → (s.acceptWrite b k).plan.anchor = s.plan.anchor ∧
      (s.acceptWrite b k).plan.partState = s.plan.partState) := by
  have hplan : (s.acceptWrite b k).plan = if s.plan.partState = .awaitAnchor then
      { s.plan with anchor := some (b.addr / 4096 * 4096), partState := .anchored } else s.plan := by
    unfold State.acceptWrite State.captureAnchor State.respond
    dsimp only
    split
    · rw [if_pos ‹_›]
    · rw [if_neg ‹_›]
  exact ⟨fun h => by rw [hplan, if_pos h]; exact ⟨rfl, rfl⟩, fun h => by rw [hplan, if_neg h]; exact ⟨rfl, rfl⟩⟩

theorem State.refuseWrite_logNow (s : State) (b : WriteBurst) (k : LineKind) : (s.refuseWrite b k).logNow =
    s.logged [s.record .writeRefused k.code (wNat b.addr) (w4 b.words.length k.code 0 0)] := by
  rw [State.refuseWrite, State.log_logNow, State.record_respond, (s.respond_frame .error).logged rfl]

theorem Same.transaction_none (hs : s.path.txn = none) (ht : t.path.txn = none) : Same .transaction s t := by
  simp [Same, hs, ht]

/-- What a presented write does before the end of the command, the port being idle (R23, R26). -/
theorem exec_hostWrite_idle {b : WriteBurst} (hw : (Instr.hostWrite b).wf = true) (h : s.portIdle) :
    exec (.hostWrite b) s = .next (s.presentWrite b).settle := by
  have heffect : s.effect (.hostWrite b) = (s.path.txn.isNone, s.presentWrite b) := by
    simp [State.effect, State.portIdle.notDrained s h]
  obtain ⟨hreset, htxn, -⟩ := h
  rw [exec_effect hw rfl hreset (by rw [heffect]; simp [htxn]), heffect]

theorem exec_hostWrite_due {b : WriteBurst} (hw : (Instr.hostWrite b).wf = true) (hreset : s.inReset = false)
    (htxn : s.path.txn = none) (hdue : s.installDue) :
    exec (.hostWrite b) s = .next (s.holdTxn (.write b)).settle := by
  have heffect : s.effect (.hostWrite b) = (s.path.txn.isNone, s.holdTxn (.write b)) := by
    simp [State.effect, s.drained_isSome.mpr hdue]
  rw [exec_effect hw rfl hreset (by rw [heffect]; simp [htxn]), heffect]

/-- Once the queue has a slot, a held write is presented again (R26, R33). -/
theorem exec_heldWriteAccepted {b : WriteBurst} (hreset : s.inReset = false) (htxn : s.path.txn = some (.write b))
    (hslot : ¬s.noSlot) : exec .heldWriteAccepted s = .next (s.presentWrite b).settle := by
  have hheld : s.heldWrite = some b := by
    simp only [State.heldWrite, htxn]
    rw [if_neg (mt s.mustHold_iff.mp hslot)]
  have heffect : s.effect .heldWriteAccepted = (true, s.presentWrite b) := by
    simp [State.effect, State.acceptHeld, hheld]
  rw [exec_effect rfl rfl hreset (by rw [heffect]), heffect]

/-- What a presented write does, unless it is held, does not depend on the transaction before it. -/
theorem State.presentWrite_txn (x : Option Txn) {b : WriteBurst} (hslot : ¬s.noSlot) :
    State.presentWrite { s with path := { s.path with txn := x } } b = s.presentWrite b := by
  by_cases hr : s.refused (s.classify b.addr)
  · rw [State.presentWrite_refused hr]
    exact State.presentWrite_refused hr
  · rw [State.presentWrite_accepted hr hslot]
    exact State.presentWrite_accepted hr hslot

/-- Settles O16: the cases of a presented write, and a held write presented again. -/
theorem hostWriteAnswered : Obligations.HostWriteAnswered := by
  refine ⟨fun b s hw hidle => ?_, fun b s hw hreset htxn hdue => ?_, fun b s hw hreset htxn hslot => ?_⟩
  · refine ⟨_, exec_hostWrite_idle hw hidle, fun hr => ?_, fun hr hslot => ?_, fun hr hslot => ?_⟩
    · rw [State.presentWrite_refused hr]
      have htxn : (s.refuseWrite b (s.classify b.addr)).settle.path.txn = none := State.settle_txn_none _ rfl
      refine ⟨htxn, by simp [State.refuseWrite, State.respond, State.log], ?_, ?_⟩
      · rw [State.settle_logNow, State.refuseWrite_logNow]
      · exact (s.refuseWrite_frame b _).settled.drop (Same.transaction_none hidle.2.1 htxn)
    · rw [State.presentWrite_held hr hslot]
      exact ⟨State.settle_txn_write _ b rfl, by simp [State.holdTxn], (s.holdTxn_frame _).settled⟩
    · rw [State.presentWrite_accepted hr hslot]
      have hpath := s.acceptWrite_path b (s.classify b.addr)
      have htxn : (s.acceptWrite b (s.classify b.addr)).settle.path.txn = none := State.settle_txn_none _ (by rw [hpath])
      refine ⟨htxn, by simp [hpath], ⟨s.entryFor b (s.classify b.addr), by simp [hpath], rfl, rfl, ?_, ?_⟩, fun hps => ?_, fun hps => ?_, ?_⟩
      · simp [State.entryFor]
      · simp [State.entryFor]
      · simpa using (s.acceptWrite_anchor b _).1 hps
      · simpa using (s.acceptWrite_anchor b _).2 hps
      · exact (s.acceptWrite_frame b _).settled.drop (Same.transaction_none hidle.2.1 htxn)
  · exact ⟨_, exec_hostWrite_due hw hreset htxn hdue, State.settle_txn_write _ b rfl, by simp [State.holdTxn],
      (s.holdTxn_frame _).settled⟩
  · have hagain : exec (.hostWrite b) { s with path := { s.path with txn := none } } = .next (s.presentWrite b).settle := by
      have hdrain : s.draining = false := by
        rw [← Bool.not_eq_true]
        exact fun h => hslot (.inr h)
      have hidle : State.portIdle { s with path := { s.path with txn := none } } :=
        ⟨hreset, rfl, fun hdue => by
          have hnone := State.drained_of_not_draining (s := { s with path := { s.path with txn := none } }) hdrain
          rw [← State.drained_isSome, hnone] at hdue
          cases hdue⟩
      rw [exec_hostWrite_idle hw hidle, State.presentWrite_txn none hslot]
    refine ⟨_, exec_heldWriteAccepted hreset htxn hslot, hagain, ?_, fun hr => ?_, fun hr => ?_, (s.presentWrite_frame b).settled⟩
    · refine State.settle_txn_none _ ?_
      by_cases hr : s.refused (s.classify b.addr)
      · rw [State.presentWrite_refused hr]
        rfl
      · rw [State.presentWrite_accepted hr hslot, State.acceptWrite_path]
    · rw [State.presentWrite_refused hr]
      simp [State.refuseWrite, State.respond, State.log]
    · rw [State.presentWrite_accepted hr hslot, State.settle_response, State.acceptWrite_path]

/-! ### Presented reads -/

theorem exec_hostRead_idle {b : ReadBurst} (hw : (Instr.hostRead b).wf = true) (h : s.portIdle) :
    exec (.hostRead b) s = .next (s.presentRead b).settle := by
  have heffect : s.effect (.hostRead b) = (s.path.txn.isNone, s.presentRead b) := by
    simp [State.effect, State.portIdle.notDrained s h]
  obtain ⟨hreset, htxn, -⟩ := h
  rw [exec_effect hw rfl hreset (by rw [heffect]; simp [htxn]), heffect]

theorem exec_hostRead_due {b : ReadBurst} (hw : (Instr.hostRead b).wf = true) (hreset : s.inReset = false)
    (htxn : s.path.txn = none) (hdue : s.installDue) :
    exec (.hostRead b) s = .next (s.holdTxn (.unclassified b)).settle := by
  have heffect : s.effect (.hostRead b) = (s.path.txn.isNone, s.holdTxn (.unclassified b)) := by
    simp [State.effect, s.drained_isSome.mpr hdue]
  rw [exec_effect hw rfl hreset (by rw [heffect]; simp [htxn]), heffect]

theorem State.presentRead_beyond {b : ReadBurst} (h : s.classify b.addr = .beyondMemory) :
    s.presentRead b = s.respond .error := by
  unfold State.presentRead
  rw [h]

/-- A read of a passed kind waits for the memory port with its own address (R22). -/
theorem State.presentRead_passed {b : ReadBurst} (hmem : s.classify b.addr ≠ .beyondMemory)
    (hview : ∀ p, s.classify b.addr ≠ .view p) (hout : ∀ g, s.classify b.addr = .output g → s.plan.partState ≠ .running) :
    s.presentRead b = s.startRead b (s.classify b.addr) b.addr none .waiting := by
  unfold State.presentRead
  split
  · exact absurd ‹_› hmem
  · exact absurd ‹_› (hview _)
  · rename_i g hg
    rw [if_neg (hout g hg), hg]
  · rfl

theorem State.presentRead_output {b : ReadBurst} {g : Fin 12} (h : s.classify b.addr = .output g)
    (hrun : s.plan.partState = .running) : s.presentRead b = s.presentOutput b g := by
  unfold State.presentRead
  rw [h]
  exact if_pos hrun

/-- The transaction of a read that has been put in progress, after the end of the command. -/
theorem State.startRead_settle (s : State) (b : ReadBurst) (k : LineKind) (a : Nat) (v : Option ViewRead) (ph : ReadPhase) :
    (s.startRead b k a v ph).settle.path.txn.map Txn.still =
        some (Txn.still (.read ⟨b, k, a, v, decide (s.plan.partState = .running), ph⟩)) ∧
      (s.startRead b k a v ph).settle.path.response = none := by
  simp [State.startRead]

/-- Settles O17. -/
theorem hostReadPassed : Obligations.HostReadPassed := by
  refine ⟨fun b s hw hreset htxn hdue => ?_, fun b s hw hidle => ⟨_, exec_hostRead_idle hw hidle, fun hk => ?_, fun hk hv ho => ?_⟩⟩
  · exact ⟨_, exec_hostRead_due hw hreset htxn hdue, State.settle_txn_unclassified _ b rfl, by simp [State.holdTxn],
      (s.holdTxn_frame _).settled⟩
  · rw [State.presentRead_beyond hk]
    have htxn : (s.respond .error).settle.path.txn = none := State.settle_txn_none _ rfl
    exact ⟨htxn, by simp [State.respond], (s.respond_frame _).settled.drop (Same.transaction_none hidle.2.1 htxn)⟩
  · rw [State.presentRead_passed hk hv ho]
    obtain ⟨htxn, hresponse⟩ := s.startRead_settle b (s.classify b.addr) b.addr none .waiting
    exact ⟨htxn, hresponse, (s.startRead_frame _ _ _ _ _).settled⟩

/-! ### Section views (R52) -/

/-- The translation of a read within the region of a programme's views: 24 sections of one ring each (R52). -/
theorem viewTranslate_within {vb rb rl : Nat} {p : Fin 6} {b : ReadBurst} (h : (b.addr - vb) / 192 / rl < 24) :
    viewTranslate vb rb rl p b = some (⟨⟨(b.addr - vb) / 192 / rl, h⟩, p, (b.addr - vb) / 192 % rl, (b.addr - vb) % 192 / 64,
      viewFrames ((b.addr - vb) % 192 / 64) b.addr b.len⟩, rb + (b.addr - vb) / 192 % rl * 192 + (b.addr - vb) % 192) := by
  simp [viewTranslate, toFin?, h]

theorem State.presentRead_view {b : ReadBurst} {p : Fin 6} {v : ViewRead} {a : Nat} (h : s.classify b.addr = .view p)
    (ht : viewTranslate (s.path.baseOf (.view p)) (s.prog p).base (s.prog p).ringLen p b = some (v, a)) :
    s.presentRead b = s.startRead b (.view p) a (some v) .waiting := by
  unfold State.presentRead
  rw [h]
  dsimp only
  rw [ht]

/-- The place of an offset within a view region: its section, ring position, word and line, by division (R52). -/
theorem view_place {a vb rb rl n r : Nat} (hlow : vb ≤ a) (hhigh : a < vb + 24 * rl * 192) (hvb : vb % 64 = 0) (hrb : rb % 64 = 0)
    (hn : n = (a - vb) / 192 % rl) (hr : r = (a - vb) % 192) :
    (a - vb) / 192 / rl < 24 ∧ n < rl ∧ r % 64 / 4 = a / 4 % 16 ∧ (rb + n * 192 + r) / 4 % 16 = a / 4 % 16 ∧
      (rb + n * 192 + r - rb) / 192 = n ∧ (rb + n * 192 + r - rb) % 192 / 64 = r / 64 := by
  have hpos : 0 < rl := by
    rcases Nat.eq_zero_or_pos rl with h0 | h0
    · subst h0; omega
    · exact h0
  have hoffset : a - vb < 24 * (192 * rl) := by
    have hcomm : 24 * rl * 192 = 24 * (192 * rl) := by ring
    omega
  refine ⟨?_, hn ▸ Nat.mod_lt _ hpos, by omega, by omega, by omega, by omega⟩
  rwa [Nat.div_div_eq_div_mul, Nat.div_lt_iff_lt_mul (by omega)]

theorem viewFrames_eq (j a len : Nat) : viewFrames j a len = (List.range len).map fun i => 16 * j + (a / 4 + i) % 16 := by
  simp [viewFrames, burstWord, wordOff]

/-- Settles O18: the offset's block, ring position and place within the block, by division. -/
theorem viewReadTranslated : Obligations.ViewReadTranslated := by
  intro b p s hw hidle hview hlow hhigh hvb hrb
  obtain ⟨hsec, hn, hword, hkept, hpos, hline⟩ := view_place hlow hhigh hvb hrb rfl rfl
  have htrans := viewTranslate_within (rb := (s.prog p).base) (p := p) hsec
  have hexec := exec_hostRead_idle hw hidle
  rw [State.presentRead_view hview htrans, viewFrames_eq] at hexec
  obtain ⟨htxn, hresponse⟩ := s.startRead_settle b (.view p) _ (some _) .waiting
  exact ⟨_, _, _, _, _, _, _, hexec, rfl, rfl, rfl, rfl, hn, rfl, rfl, hword, hkept, hpos, hline, htxn, hresponse,
    (s.startRead_frame _ _ _ _ _).settled⟩

/-! ### OUTPUT reads (R113, R114) -/

/-- The OPEN record of a key, once it has been replaced by one with the same key. -/
theorem State.openAt_putOpen {g : Fin 12} {n : Nat} {ga x : Gather} (h : s.openAt g n = some ga) (hx : x.hasKey g n = true) :
    (s.putOpen x).openAt g n = some x := by
  obtain ⟨hg, hn⟩ := (x.hasKey_iff g n).mp hx
  unfold State.openAt at h ⊢
  simp only [State.putOpen, hg, hn]
  generalize s.gather.opens = l at h ⊢
  induction l with
  | nil => cases h
  | cons y l ih =>
    rw [List.find?_cons] at h
    rw [List.map_cons, List.find?_cons]
    cases hy : y.hasKey g n with
    | true => simp [hx]
    | false =>
      simp only [hy] at h ⊢
      simp only [Bool.false_eq_true, if_false, hy]
      exact ih h

/-- Under ON_READ a read of an OPEN gather closes it (R113). -/
theorem State.outputRead_onRead {g : Fin 12} {n : Nat} {ga : Gather} (h : s.openAt g n = some ga)
    (hp : (s.grp g).policy = .onRead) :
    s.outputRead g n = (s.closeGather ga .onRead, .held ((s.closeGather ga .onRead).closingCount g n)) := by
  simp [State.outputRead, h, hp]

/-- Under WAIT a read of an OPEN gather is counted, and below the retry limit answered RETRY (R113). -/
theorem State.outputRead_retry {g : Fin 12} {n : Nat} {ga : Gather} (h : s.openAt g n = some ga)
    (hp : (s.grp g).policy = .wait) (hr : ga.retries + 1 ≠ (s.grp g).retryLimit) :
    s.outputRead g n = (s.putOpen { ga with retries := ga.retries + 1 }, .retry) := by
  simp [State.outputRead, h, hp, hr]

/-- Under WAIT the read that reaches the retry limit closes the gather (R113). -/
theorem State.outputRead_limit {g : Fin 12} {n : Nat} {ga : Gather} (h : s.openAt g n = some ga)
    (hp : (s.grp g).policy = .wait) (hr : ga.retries + 1 = (s.grp g).retryLimit) :
    s.outputRead g n =
      ((s.putOpen { ga with retries := ga.retries + 1 }).closeGather { ga with retries := ga.retries + 1 } .retryLimit,
        .held (((s.putOpen { ga with retries := ga.retries + 1 }).closeGather { ga with retries := ga.retries + 1 }
          .retryLimit).closingCount g n)) := by
  simp [State.outputRead, h, hp, hr]

theorem State.outputRead_none {g : Fin 12} {n : Nat} (h : s.openAt g n = none) :
    s.outputRead g n = (s, if 0 < s.closingCount g n then .held (s.closingCount g n) else .released) := by
  simp only [State.outputRead, h]
  split <;> rfl

/-- A close does not see which record of its key is OPEN, only the key (R110). -/
theorem ClosedAs.of_putOpen {ga : Gather} {st : CloseStatus} (h : ClosedAs (s.putOpen ga) t ga st) : ClosedAs s t ga st := by
  obtain ⟨hopens, hresults, hgroup, hothers, hlog⟩ := h
  refine ⟨?_, hresults, hgroup, hothers, ?_⟩
  · rw [hopens, State.putOpen]
    dsimp only
    induction s.gather.opens with
    | nil => rfl
    | cons x l ih =>
      rw [List.map_cons, List.filter_cons, List.filter_cons, ih]
      by_cases hx : x.hasKey ga.group ga.pos = true
      · have hkey := (x.hasKey_iff _ _).mp hx
        simp [hx, hkey]
      · rw [if_neg hx]
  · rw [hlog, (s.putOpen_frame ga).logged rfl]
    rfl

theorem State.closeGather_retried (s : State) (ga : Gather) (st : CloseStatus) :
    ClosedAs s ((s.putOpen ga).closeGather ga st) ga st := (State.closeGather_closed _ ga st).of_putOpen

theorem State.settle_closingCount (s : State) (g : Fin 12) (n : Nat) : s.settle.closingCount g n = s.closingCount g n := by
  simp [State.closingCount]

/-- What an OUTPUT read does, by what the gather engine answers (R113). -/
theorem exec_hostRead_output {b : ReadBurst} {g : Fin 12} (hw : (Instr.hostRead b).wf = true) (hidle : s.portIdle)
    (hrun : s.plan.partState = .running) (hk : s.classify b.addr = .output g) :
    exec (.hostRead b) s = .next (s.presentOutput b g).settle := by
  rw [exec_hostRead_idle hw hidle, State.presentRead_output hk hrun]

/-- A read held for the results of its key, after the gather has closed (R113, R114). -/
theorem startRead_held {u : State} {ga : Gather} {st : CloseStatus} (hclosed : ClosedAs s u ga st)
    (hrun : u.plan.partState = .running) (b : ReadBurst) (g : Fin 12) (n : Nat) :
    ClosedAs s (u.startRead b (.output g) b.addr none (.held g n (u.closingCount g n))).settle ga st ∧
      (u.startRead b (.output g) b.addr none (.held g n (u.closingCount g n))).settle.path.txn.map Txn.still =
        some (.read ⟨b, .output g, b.addr, none, true, .held g n
          ((u.startRead b (.output g) b.addr none (.held g n (u.closingCount g n))).settle.closingCount g n)⟩) ∧
      (u.startRead b (.output g) b.addr none (.held g n (u.closingCount g n))).settle.path.response = none := by
  obtain ⟨htxn, hresponse⟩ := u.startRead_settle b (.output g) b.addr none (.held g n (u.closingCount g n))
  refine ⟨ClosedAs.settle (t := u.startRead b (.output g) b.addr none (.held g n (u.closingCount g n))) hclosed, ?_, hresponse⟩
  rw [htxn, State.settle_closingCount, hrun]
  rfl

/-- Settles O19: the gather engine's three answers to a read of an OPEN gather. -/
theorem outputReadOfOpenGather : Obligations.OutputReadOfOpenGather := by
  intro b g ga s hw hidle hrun hk ho
  obtain ⟨hg, hn⟩ := State.openAt_key ho
  have hkey : (b.addr - (s.grp g).outputBase) / 64 = ga.pos := hn.symm
  rw [hkey] at ho
  have hpos : (s.grp g).outputPos b.addr = ga.pos := hkey
  refine ⟨_, exec_hostRead_output hw hidle hrun hk, fun hp hr => ?_, fun hp hr => ?_, fun hp => ?_⟩
  · have hread : s.presentOutput b g = (s.putOpen { ga with retries := ga.retries + 1 }).respond .retry := by
      simp only [State.presentOutput, hpos, State.outputRead_retry ho hp hr]
    rw [hread]
    have htxn : ((s.putOpen { ga with retries := ga.retries + 1 }).respond .retry).settle.path.txn = none :=
      State.settle_txn_none _ rfl
    refine ⟨htxn, by simp [State.respond], ?_, fun x hx hne => ?_, ?_⟩
    · rw [State.settle_openAt]
      exact State.openAt_putOpen ho ((Gather.hasKey_iff _ _ _).mpr ⟨hg, rfl⟩)
    · rw [State.settle_opens]
      refine List.mem_map.mpr ⟨x, hx, if_neg ?_⟩
      simpa [hg] using hne
    · refine Frame.drop (p := .transaction) ?_ (Same.transaction_none hidle.2.1 htxn)
      exact Frame.settled (((s.putOpen_frame _).wide rfl).trans ((State.respond_frame _ _).wide rfl))
  · have hframe : Frame [.opens, .results, .groups, .logQueue, .lostCount] s
        ((s.putOpen { ga with retries := ga.retries + 1 }).closeGather { ga with retries := ga.retries + 1 } .retryLimit) :=
      ((s.putOpen_frame _).wide rfl).trans ((State.closeGather_frame _ _ _).wide rfl)
    simp only [State.presentOutput, hpos, State.outputRead_limit ho hp hr]
    obtain ⟨hclosed, htxn, hresponse⟩ := startRead_held (s.closeGather_retried { ga with retries := ga.retries + 1 } .retryLimit)
      (Eq.trans (hframe.same .partState rfl) hrun) b g ga.pos
    exact ⟨hclosed, htxn, hresponse, Frame.settled ((hframe.wide rfl).trans ((State.startRead_frame _ _ _ _ _ _).wide rfl))⟩
  · have hframe := s.closeGather_quiet_frame ga .onRead rfl
    simp only [State.presentOutput, hpos, State.outputRead_onRead ho hp]
    obtain ⟨hclosed, htxn, hresponse⟩ := startRead_held (s.closeGather_closed ga .onRead)
      (Eq.trans (hframe.same .partState rfl) hrun) b g ga.pos
    exact ⟨hclosed, htxn, hresponse, Frame.settled ((hframe.wide rfl).trans ((State.startRead_frame _ _ _ _ _ _).wide rfl))⟩

/-- Settles O20: with no OPEN gather the read waits for the results of its key alone. -/
theorem outputReadHeldOrPassed : Obligations.OutputReadHeldOrPassed := by
  refine ⟨fun b g s hw hidle hrun hk ho => ?_, fun r g n s hreset htxn hphase => ?_⟩
  · refine ⟨_, exec_hostRead_output hw hidle hrun hk, ?_⟩
    have hpos : (s.grp g).outputPos b.addr = (b.addr - (s.grp g).outputBase) / 64 := rfl
    generalize (b.addr - (s.grp g).outputBase) / 64 = n at ho hpos ⊢
    have hread : s.presentOutput b g = s.startRead b (.output g) b.addr none
        (if s.closingCount g n = 0 then .waiting else .held g n (s.closingCount g n)) := by
      simp only [State.presentOutput, hpos, State.outputRead_none ho]
      by_cases hc : s.closingCount g n = 0
      · rw [if_neg (by omega), if_pos hc]
      · rw [if_pos (by omega), if_neg hc]
    rw [hread]
    obtain ⟨hread, hresponse⟩ := s.startRead_settle b (.output g) b.addr none
      (if s.closingCount g n = 0 then .waiting else .held g n (s.closingCount g n))
    refine ⟨hresponse, (s.startRead_frame _ _ _ _ _).settled, ?_⟩
    rw [hread, hrun]
    split <;> rfl
  · have hdue : s.releaseDue = true := by simp [State.releaseDue, htxn, hphase]
    refine ⟨_, exec_effect rfl rfl hreset hdue, ?_, s.releaseRead_frame.settled⟩
    rw [State.settle_txn]
    change s.releaseRead.path.txn.map Txn.still = _
    simp [State.releaseRead, htxn, ReadTxn.released, hphase, Txn.still]

end Sys2Proof.Machine
end


section
/-! PROOFS. Taken writes (chapters 01, 02, 03, 06, 10, 11): WRITE_TAKEN at memory, at the watchers of its region and at the watched
words. -/

namespace Sys2Proof.Machine

variable {s t u : State} {e : QEntry} {rest : List QEntry}

/-! ### The bytes of a burst -/

/-- The bytes that word `i` of a write burst writes (R17). -/
def wordCells (a i : Nat) (w : BurstWord) : List (Nat × Byte) :=
  (List.range 4).filterMap fun j =>
    if w.en.getLsbD j then some (burstWordAddr a i + j, BitVec.ofNat 8 (w.data.toNat / 256 ^ j)) else none

theorem WriteBurst.cells_eq (b : WriteBurst) : b.cells = (List.range b.words.length).flatMap fun i =>
    (b.words[i]?).elim [] (wordCells b.addr i) := by
  unfold WriteBurst.cells
  congr 1
  funext i
  cases b.words[i]? <;> rfl

theorem mem_wordCells_addr {a i x : Nat} {w : BurstWord} (h : x ∈ (wordCells a i w).map Prod.fst) :
    ∃ j, j < 4 ∧ x = burstWordAddr a i + j := by
  simp only [wordCells, List.mem_map, List.mem_filterMap, List.mem_range] at h
  obtain ⟨c, ⟨j, hj, hc⟩, rfl⟩ := h
  split at hc
  · cases hc
    exact ⟨j, hj, rfl⟩
  · cases hc

theorem wordCells_nodup (a i : Nat) (w : BurstWord) : ((wordCells a i w).map Prod.fst).Nodup := by
  rw [wordCells, List.map_filterMap]
  refine List.Nodup.filterMap (fun j j' x hj hj' => ?_) List.nodup_range
  have haddr : ∀ {j : Nat}, x ∈ Option.map Prod.fst (if w.en.getLsbD j = true then
      some (burstWordAddr a i + j, BitVec.ofNat 8 (w.data.toNat / 256 ^ j)) else none) → x = burstWordAddr a i + j := by
    intro j hx
    split at hx <;> simp_all
  have h1 := haddr hj
  have h2 := haddr hj'
  omega

theorem burstWordAddr_eq (a i : Nat) : burstWordAddr a i = a / 64 * 64 + 4 * ((a / 4 + i) % 16) := by
  simp [burstWordAddr, lineNo, burstWord, wordOff]

/-- A burst of at most 16 words writes each byte of its line at most once (R17). -/
theorem WriteBurst.cells_nodup {b : WriteBurst} (h : b.words.length ≤ 16) : (b.cells.map Prod.fst).Nodup := by
  have haddr : ∀ {i x : Nat}, x ∈ ((b.words[i]?).elim [] (wordCells b.addr i)).map Prod.fst →
      ∃ j, j < 4 ∧ x = burstWordAddr b.addr i + j := by
    intro i x hx
    cases hw : b.words[i]? with
    | none => simp [hw] at hx
    | some w => exact mem_wordCells_addr (by simpa [hw] using hx)
  rw [WriteBurst.cells_eq, List.map_flatMap, List.nodup_flatMap]
  refine ⟨fun i _ => ?_, ?_⟩
  · cases b.words[i]? with
    | none => exact List.nodup_nil
    | some w => exact wordCells_nodup _ _ w
  · refine List.Pairwise.imp_of_mem (fun {i i'} hi hi' hne => ?_) List.nodup_range
    intro x hx hx'
    obtain ⟨j, hj, rfl⟩ := haddr hx
    obtain ⟨j', hj', he⟩ := haddr hx'
    rw [burstWordAddr_eq, burstWordAddr_eq] at he
    rw [List.mem_range] at hi hi'
    omega

/-! ### The write itself -/

theorem State.headEnded_logNow (s : State) (e : QEntry) (err : Bool) :
    (s.headEnded e err).logNow = s.logged (s.lostRecords e err) := by
  unfold State.headEnded State.noteLost State.lostRecords
  cases err with
  | false =>
    rw [if_neg nofun, if_neg nofun, State.logged_nil]
    exact (s.complete_frame false).logNow rfl rfl
  | true =>
    change (((s.complete true).log .writeLost _ _ _).memError).logNow = _
    rw [(State.memError_frame _).logNow rfl rfl, State.log_logNow, State.record_complete, (s.complete_frame true).logged rfl]
    rfl

theorem State.headEnded_memErrors (s : State) (e : QEntry) (err : Bool) :
    (s.headEnded e err).plan.memErrors = s.errorsAfter err := by
  cases err <;> rfl

theorem State.takes_portCells (h : s.takes e rest) : s.portCells = e.burst.cells := by
  obtain ⟨-, hport, hqueue, -⟩ := h
  simp [State.portCells, hport, hqueue]

/-- The slot of a taken write frees at the end of its command where no arrival waits (R27, R28). -/
theorem State.headDone_queue (s : State) (e : QEntry) (h : s.gather.waiting = none) :
    (s.headDone e).path.queue = s.path.queue.tail := by
  have hwait : (s.watchWords e).gather.waiting = none := Eq.trans ((s.watchWords_frame e).same .arrival rfl) h
  have hqueue : (s.watchWords e).path.queue = s.path.queue := (s.watchWords_frame e).same .queue rfl
  rw [State.headDone, State.settle_queue, State.popHead, hwait, if_neg (by simp), hqueue]

theorem State.headDone_queue_waiting (s : State) (e : QEntry) (h : s.gather.waiting.isSome = true) :
    (s.headDone e).path.queue = s.path.queue := by
  have hwait : (s.watchWords e).gather.waiting = s.gather.waiting := (s.watchWords_frame e).same .arrival rfl
  have hqueue : (s.watchWords e).path.queue = s.path.queue := (s.watchWords_frame e).same .queue rfl
  rw [State.headDone, State.settle_queue, State.popHead, hwait, if_pos h, hqueue]

theorem State.headDone_waiting (s : State) (e : QEntry) : (s.headDone e).gather.waiting = s.gather.waiting :=
  (s.headDone_frame e).same .arrival rfl

/-- An arrival that begins to wait is that of the write being taken (R107). -/
theorem State.gatherWrite_waiting {g : Fin 12} {b : WriteBurst} {a : Arrival} (hs : s.gather.waiting = none)
    (h : (s.gatherWrite g b).gather.waiting = some a) : a.group = g := by
  have hopen (u : State) (x : Arrival) (hu : u.gather.waiting = none) (ho : (u.openOrWait x).gather.waiting = some a) : x = a := by
    unfold State.openOrWait at ho
    split at ho
    · have hgather : (u.openGather x).gather.waiting = u.gather.waiting := by
        unfold State.openGather State.joinGather
        dsimp only
        split
        · exact (State.closeGather_pool _ _ _).2.2
        · rfl
      rw [hgather, hu] at ho
      cases ho
    · exact Option.some.inj ho
  have hjoin (ga : Gather) (k : Fin 24) (l : List Byte) : (s.joinGather ga k l).gather.waiting = none := by
    unfold State.joinGather
    dsimp only
    split
    · exact Eq.trans (State.closeGather_pool _ _ _).2.2 hs
    · exact hs
  have harrive (x : Arrival) (ha : (s.arrive x).gather.waiting = some a) : x = a := by
    unfold State.arrive at ha
    split at ha
    · split at ha
      · split at ha
        · exact absurd (Eq.trans hs.symm ha) nofun
        · rw [hjoin] at ha
          cases ha
      · exact hopen _ x (Eq.trans (State.closeGather_pool _ _ _).2.2 hs) ha
    · split at ha
      · exact absurd (Eq.trans hs.symm ha) nofun
      · exact hopen _ x hs ha
  unfold State.gatherWrite at h
  dsimp only at h
  have hidle : s.gather.waiting ≠ some a := by rw [hs]; nofun
  split at h
  · exact absurd h hidle
  · split at h
    · exact absurd h hidle
    · split at h
      · exact absurd h hidle
      · split at h
        · exact absurd h hidle
        · rw [← harrive _ h]

theorem State.watchRegion_waiting {a : Arrival} (hs : s.gather.waiting = none)
    (h : (s.watchRegion e).gather.waiting = some a) : e.kind = .uplink a.group := by
  have hidle : s.gather.waiting ≠ some a := by rw [hs]; nofun
  unfold State.watchRegion at h
  split at h
  · rename_i p hk
    exact absurd (Eq.trans ((s.programmeWrite_frame p e.burst).same .arrival rfl).symm h) hidle
  · rename_i g hk
    have hsup : (s.superviseWrite g e.burst).gather.waiting = none :=
      Eq.trans ((s.superviseWrite_frame g e.burst).same .arrival rfl) hs
    rw [hk, State.gatherWrite_waiting hsup h]
  all_goals exact absurd h hidle

theorem State.watchRegion_plain (h : e.kind.plainLike) : s.watchRegion e = s := by
  unfold State.watchRegion
  cases hk : e.kind <;> simp_all [LineKind.plainLike]

theorem exec_writeTaken_plain (err : Bool) (h : s.takes e rest) (hk : e.kind.plainLike) :
    exec (.writeTaken err) s = .next ((s.headEnded e err).headDone e) := by
  rw [exec_writeTaken_of_takes err h, State.watchRegion_plain hk]

theorem State.headEnded_waiting (h : s.takes e rest) (err : Bool) : (s.headEnded e err).gather.waiting = none :=
  Eq.trans ((s.headEnded_frame e err).same .arrival rfl) h.2.2.2

theorem State.headEnded_queue (h : s.takes e rest) (err : Bool) : (s.headEnded e err).path.queue = e :: rest :=
  Eq.trans ((s.headEnded_frame e err).same .queue rfl) h.2.2.1

/-- After a write of a kind that no block watches its slot is free. -/
theorem State.headDone_plain_queue (h : s.takes e rest) (err : Bool) :
    ((s.headEnded e err).headDone e).path.queue = rest := by
  rw [State.headDone_queue _ _ (State.headEnded_waiting h err), State.headEnded_queue h]
  rfl

/-- The log and the frame of a taken write that nothing watches. -/
theorem State.headDone_unwatched (s : State) (err : Bool) (hw : e.unwatched) :
    ((s.headEnded e err).headDone e).logNow = s.logged (s.lostRecords e err) ∧
      Frame plainWriteParts s ((s.headEnded e err).headDone e) := by
  have hdone := State.headDone_frame_unwatched (s.headEnded e err) hw
  refine ⟨by rw [hdone.logNow rfl rfl, State.headEnded_logNow], ?_⟩
  exact ((s.headEnded_frame e err).wide rfl).trans (hdone.wide rfl)

/-- Settles O21: the write's end, and its region's and words' watchers apart from it. -/
theorem writeTakenReachesMemory : Obligations.WriteTakenReachesMemory := by
  refine ⟨fun err e rest s h hwf hburst => ?_, fun err e rest s h hk hw => ?_⟩
  · have hlen : e.burst.words.length ≤ 16 := by
      simp only [Instr.wf, wfLen, Bool.and_eq_true, decide_eq_true_eq] at hburst
      exact hburst.2.2
    have hqueue : s.path.queue ≠ [] := by rw [h.2.2.1]; nofun
    have hexec := exec_writeTaken_of_takes err h
    have heffect : exec (.writeTaken err) s = .next (s.takeHead err).settle :=
      exec_effect rfl rfl h.1 (by simp [State.effect, State.headOnPort, h.2.1, hqueue])
    refine ⟨_, hexec, ?_, ?_, fun hn => ?_, fun a ha => ?_, ?_⟩
    · have hstored := s.complete_stored err hwf (by rw [State.takes_portCells h]; exact WriteBurst.cells_nodup hlen)
      rw [State.takes_portCells h] at hstored
      rw [hexec] at heffect
      rw [Host.Outcome.next.inj heffect]
      refine hstored.mem_eq ?_
      rw [State.settle_mem, (s.takeHead_calm err hqueue).1]
    · rw [← State.headEnded_memErrors s e err]
      exact ((State.watchRegion_frame _ e).same .memErrors rfl).trans ((State.headDone_frame _ e).same .memErrors rfl)
    · rw [State.headDone_waiting] at hn
      rw [State.headDone_queue _ _ hn]
      have hq : ((s.headEnded e err).watchRegion e).path.queue = _ := (State.watchRegion_frame _ e).same .queue rfl
      rw [hq, State.headEnded_queue h]
      rfl
    · rw [State.headDone_waiting] at ha
      have hq : ((s.headEnded e err).watchRegion e).path.queue = _ := (State.watchRegion_frame _ e).same .queue rfl
      refine ⟨?_, State.watchRegion_waiting (State.headEnded_waiting h err) ha⟩
      rw [State.headDone_queue_waiting _ _ (by rw [ha]; rfl), hq, State.headEnded_queue h]
    · rw [hexec] at heffect
      rw [Host.Outcome.next.inj heffect]
      exact (s.takeHead_frame err).settled
  · exact ⟨_, exec_writeTaken_plain err h hk, State.headDone_plain_queue h err, State.headDone_unwatched s err hw⟩

/-! ### PROGRAMME writes -/

/-- A PROGRAMME write that does not cover the last word of its block moves no head (R45). -/
theorem State.watchRegion_block {p : Fin 6} (hk : e.kind = .programme p) (h : coversLast (s.prog p).base e.burst = false) :
    s.watchRegion e = s := by
  simp [State.watchRegion, hk, State.programmeWrite, h]

/-- Whatever the timing state, the head advance leaves the programmes as the moved head left them (R46). -/
theorem State.headAdvance_progs (s : State) (p : Fin 6) (n : Nat) :
    (s.headAdvance p n).tracker.progs = (s.setHead p n).tracker.progs := by
  unfold State.headAdvance
  dsimp only
  split
  · split
    · exact (State.lockedAdvance_frame _).same .programmes rfl
    · exact (State.regainReference_frame _ p).same .programmes rfl
    · rfl
  · rfl

theorem State.setHead_prog (s : State) (p q : Fin 6) (n : Nat) : (s.setHead p n).prog q =
    if q = p then { s.prog p with head := n, gen := wrap16 (s.prog p).gen, lastAdvance := s.now } else s.prog q := by
  by_cases h : q = p
  · subst h
    simp [State.prog, State.setHead]
  · rw [if_neg h]
    simp [State.prog, State.setHead, Ne.symm h]

/-- Settles O22: a write that does not cover the last word of its block moves no head, and a head advance that is not the
reference's moves a head alone. -/
theorem programmeWriteAdvancesHead : Obligations.ProgrammeWriteAdvancesHead := by
  intro err e rest p s h hk hw
  have hwait (v : State) (hv : v.gather.waiting = none) : (v.watchRegion e).gather.waiting = none := by
    cases ha : (v.watchRegion e).gather.waiting with
    | none => rfl
    | some a =>
      have hkind := State.watchRegion_waiting hv ha
      rw [hk] at hkind
      cases hkind
  refine ⟨_, exec_writeTaken_of_takes err h, ?_, fun hno => ?_, fun hline hword => ?_⟩
  · rw [State.headDone_queue _ _ (hwait _ (State.headEnded_waiting h err))]
    have hq : ((s.headEnded e err).watchRegion e).path.queue = _ := (State.watchRegion_frame _ e).same .queue rfl
    rw [hq, State.headEnded_queue h]
    rfl
  · have hlast : coversLast ((s.headEnded e err).prog p).base e.burst = false := by
      rw [State.headEnded_prog, ← Bool.not_eq_true, coversLast_iff]
      exact hno
    rw [State.watchRegion_block hk hlast]
    exact State.headDone_unwatched s err hw
  · have hlast : coversLast ((s.headEnded e err).prog p).base e.burst = true := by
      rw [State.headEnded_prog]
      exact (coversLast_iff _ _).mpr ⟨hline, hword⟩
    rw [State.watchRegion_headAdvance hk hlast, State.headEnded_prog]
    have hdone := State.headDone_frame_unwatched
      ((s.headEnded e err).headAdvance p ((e.burst.addr - (s.prog p).base) / 192)) hw
    have hprogs := Eq.trans (hdone.same .programmes rfl) (State.headAdvance_progs _ _ _)
    have hprog (q : Fin 6) := congrArg (fun x : Table ProgRec 6 => x.get q) hprogs
    refine ⟨?_, fun q hq => ?_, fun href => ?_⟩
    · refine (hprog p).trans ?_
      have hset := State.setHead_prog (s.headEnded e err) p p ((e.burst.addr - (s.prog p).base) / 192)
      rw [if_pos rfl, State.headEnded_prog, State.headEnded_now] at hset
      exact hset
    · refine (hprog q).trans ?_
      have hset := State.setHead_prog (s.headEnded e err) p q ((e.burst.addr - (s.prog p).base) / 192)
      rw [if_neg hq, State.headEnded_prog] at hset
      exact hset
    · rw [State.headAdvance_other _ (by simpa using href)] at hdone ⊢
      have hset := (State.setHead_frame (s.headEnded e err) p ((e.burst.addr - (s.prog p).base) / 192))
      refine ⟨?_, (((s.headEnded_frame e err).wide rfl).trans (hset.wide rfl)).trans (hdone.wide rfl)⟩
      rw [hdone.logNow rfl rfl, hset.logNow rfl rfl, State.headEnded_logNow]

/-! ### UPLINK writes at the section supervisor -/

@[simp] theorem State.headEnded_sec (s : State) (e : QEntry) (err : Bool) (k : Fin 24) : (s.headEnded e err).sec k = s.sec k :=
  (s.headEnded_frame e err).sec_eq rfl k

@[simp] theorem State.headEnded_grp (s : State) (e : QEntry) (err : Bool) (g : Fin 12) : (s.headEnded e err).grp g = s.grp g := by
  have hgroups : (s.headEnded e err).gather.groups = s.gather.groups := (s.headEnded_frame e err).same .groups rfl
  simp [State.grp, hgroups]

/-- The flags of the band report that an uplink write is, if it is one (R7). -/
theorem State.reportFlags_eq (s : State) (g : Fin 12) (b : WriteBurst) : s.reportFlags g b =
    if b.fullLine = true ∧ (s.grp g).kind = .rank then some (uplinkFlag b.lineBytes 0, uplinkFlag b.lineBytes 1) else none := by
  simp [State.reportFlags]

theorem Group.sectionOf_eq {gr : Group} {a : Nat} {k : Fin 24} (h : (a - gr.uplinkBase) / 64 / gr.ringLen = k.val) :
    gr.sectionOf a = some k := by
  simp [Group.sectionOf, Group.lineIndex, h, toFin?]

/-- The watchers of an UPLINK write of section `k` (R5, R103). -/
theorem State.watchRegion_uplink {g : Fin 12} {k : Fin 24} (hk : e.kind = .uplink g)
    (hsec : (s.grp g).sectionOf e.burst.addr = some k) :
    s.watchRegion e = (s.superviseSec k (s.reportFlags g e.burst)).gatherWrite g e.burst := by
  simp only [State.watchRegion, hk, State.superviseWrite, hsec]

/-- The records of the sections after a taken uplink write of section `k` (R5). -/
theorem State.watchRegion_uplink_sec {g : Fin 12} {k : Fin 24} (hk : e.kind = .uplink g)
    (hsec : (s.grp g).sectionOf e.burst.addr = some k) (j : Fin 24) :
    ((s.watchRegion e).headDone e).sec j = (s.superviseSec k (s.reportFlags g e.burst)).sec j := by
  rw [(State.headDone_frame _ e).sec_eq rfl, State.watchRegion_uplink hk hsec, (State.gatherWrite_frame _ _ _).sec_eq rfl]

/-- Settles O24: the section supervisor's step on the section that the write's address names. -/
theorem uplinkWriteHeard : Obligations.UplinkWriteHeard := by
  intro err e rest g k s h hk haddr
  have hsec : ((s.headEnded e err).grp g).sectionOf e.burst.addr = some k := by
    rw [State.headEnded_grp]
    exact Group.sectionOf_eq haddr
  refine ⟨_, exec_writeTaken_of_takes err h, fun j hj => ?_, fun hd => ?_, fun hd => ?_⟩
  · rw [State.watchRegion_uplink_sec hk hsec, State.superviseSec_sec_ne _ _ (.inl hj.symm), State.headEnded_sec]
  · rw [State.watchRegion_uplink_sec hk hsec, State.superviseSec_sec_ne _ _ (.inr (by simpa using hd)), State.headEnded_sec]
  · rw [State.watchRegion_uplink_sec hk hsec, State.superviseSec_sec _ _ _ (by simpa using hd), State.headEnded_sec,
      State.headEnded_now, State.reportFlags_eq, State.headEnded_grp]

/-! ### UPLINK writes at the gather engine -/

theorem State.putSec_logNow (s : State) (k : Fin 24) (r : SectionRec) : (s.putSec k r).logNow = s.logNow :=
  (s.putSec_frame k r).logNow rfl rfl

/-- A move of a section is logged with its cause (R15). -/
theorem State.moveSec_logNow (s : State) (k : Fin 24) (r : SectionRec) (n : SectionState) (c : SecCause) :
    (s.moveSec k r n c).logNow = s.logged [s.record .sectionState k.val (w4 r.state.code n.code c.code 0)
      (w2 (bump r.transitions) 0)] := by
  unfold State.moveSec
  dsimp only
  rw [State.log_logNow, (s.putSec_frame k _).logged rfl]
  rfl

/-- A heard section either keeps its state, or moves with the cause that its old state gives (R6, R7). -/
theorem State.superviseSec_eq (s : State) (k : Fin 24) (f : Option (Bool × Bool)) (hd : (s.sec k).state ≠ .disabled) :
    s.superviseSec k f =
      if ((s.sec k).hears s.now f).state = (s.sec k).state then s.putSec k ((s.sec k).heard s.now f)
      else (s.putSec k ((s.sec k).heard s.now f)).moveSec k ((s.sec k).heard s.now f) ((s.sec k).hears s.now f).state
        (if (s.sec k).state = .unseen ∨ (s.sec k).state = .lost then .arrival else .report) := by
  unfold State.superviseSec SectionRec.hears SectionRec.heard SectionRec.refreshed heardState
  dsimp only
  generalize s.sec k = r at hd ⊢
  obtain ⟨enabled, timeout, state, refresh, deadline, fault, alarm, transitions⟩ := r
  cases state with
  | disabled => exact absurd rfl hd
  | unseen => cases f <;> simp <;> split <;> simp
  | lost => cases f <;> simp <;> split <;> simp
  | online =>
    rcases f with _ | ⟨a, b⟩
    · simp
    · cases a <;> cases b <;> simp
  | degraded =>
    rcases f with _ | ⟨a, b⟩
    · simp
    · cases a <;> cases b <;> simp

theorem SectionRec.heard_moves (r : SectionRec) (now : Nat) (f : Option (Bool × Bool)) :
    (r.heard now f).state = r.state ∧ (r.heard now f).transitions = r.transitions := by
  cases f <;> exact ⟨rfl, rfl⟩

/-- What the section supervisor logs of a heard section (R6, R7, R15). -/
theorem State.superviseSec_logNow (s : State) (k : Fin 24) (f : Option (Bool × Bool)) :
    (s.superviseSec k f).logNow = s.logged (s.heardRecords k f) := by
  unfold State.heardRecords
  by_cases hd : (s.sec k).state = .disabled
  · rw [if_pos (.inl hd), State.logged_nil]
    simp [State.superviseSec, hd]
  · rw [State.superviseSec_eq s k f hd]
    by_cases hm : ((s.sec k).hears s.now f).state = (s.sec k).state
    · rw [if_pos hm, if_pos (.inr hm), State.putSec_logNow, State.logged_nil]
    · obtain ⟨hstate, htrans⟩ := (s.sec k).heard_moves s.now f
      have hcount : ((s.sec k).hears s.now f).transitions = bump (s.sec k).transitions := if_neg hm
      rw [if_neg hm, if_neg (not_or.mpr ⟨hd, hm⟩), State.moveSec_logNow, (s.putSec_frame k _).logged rfl, hstate, htrans, hcount]
      split <;> rfl

theorem State.logPartial_logNow (s : State) (g : Fin 12) (k : Fin 24) (n : Nat) (b : WriteBurst) :
    (s.logPartial g k n b).logNow = s.logged [s.record .partialUplink g.val
      (w4 k.val b.words.length (n % 256) (n / 256)) (wNat b.addr)] := State.log_logNow _ _ _ _ _

/-- A taken uplink write makes an arrival (R103). -/
theorem State.gatherWrite_arrives {g : Fin 12} {k : Fin 24} {b : WriteBurst} (hsec : (s.grp g).sectionOf b.addr = some k)
    (htake : s.gather.taking = true) (hfull : b.fullLine = true) (hset : has (s.grp g).set k = true)
    (hd : (s.sec k).state ≠ .disabled) :
    s.gatherWrite g b = s.arrive ⟨k, g, (s.grp g).positionOf b.addr, uplinkSeq b.lineBytes, b.lineBytes⟩ := by
  simp [State.gatherWrite, hsec, htake, hfull, hset, hd]

theorem State.gatherWrite_partial {g : Fin 12} {k : Fin 24} {b : WriteBurst} (hsec : (s.grp g).sectionOf b.addr = some k)
    (htake : s.gather.taking = true) (hfull : b.fullLine = false) :
    s.gatherWrite g b = s.logPartial g k ((s.grp g).positionOf b.addr) b := by
  simp [State.gatherWrite, hsec, htake, hfull]

theorem State.gatherWrite_none {g : Fin 12} {k : Fin 24} {b : WriteBurst} (hsec : (s.grp g).sectionOf b.addr = some k)
    (h : s.gather.taking = false ∨ (b.fullLine = true ∧ (has (s.grp g).set k = false ∨ (s.sec k).state = .disabled))) :
    s.gatherWrite g b = s := by
  rcases h with h | ⟨hfull, h | h⟩ <;> simp [State.gatherWrite, hsec, h]
  all_goals simp [hfull]

/-- A section is DISABLED after it has been heard exactly where it was before (R5). -/
theorem State.superviseSec_disabled (s : State) (k : Fin 24) (f : Option (Bool × Bool)) :
    ((s.superviseSec k f).sec k).state = .disabled ↔ (s.sec k).state = .disabled := by
  by_cases hd : (s.sec k).state = .disabled
  · rw [State.superviseSec_sec_ne s f (.inr hd)]
  · rw [State.superviseSec_sec s k f hd]
    unfold SectionRec.hears
    dsimp only
    split
    · split <;> simp [hd]
    · simp [hd]

/-- Settles O25: the gather engine decides on the state in which the write has ended and its section has been heard. -/
theorem uplinkWriteArrives : Obligations.UplinkWriteArrives := by
  intro err e rest g k n s h hk hw haddr hn
  have hflags : (s.headEnded e err).reportFlags g e.burst = if e.burst.fullLine = true ∧ (s.grp g).kind = .rank then
      some (uplinkFlag e.burst.lineBytes 0, uplinkFlag e.burst.lineBytes 1) else none := by
    rw [State.reportFlags_eq, State.headEnded_grp]
  generalize hf : (s.headEnded e err).reportFlags g e.burst = f at hflags
  have hended := s.headEnded_frame e err
  have hheard := (s.headEnded e err).superviseSec_frame k f
  have hsec : ((s.headEnded e err).grp g).sectionOf e.burst.addr = some k := by
    rw [State.headEnded_grp]
    exact Group.sectionOf_eq haddr
  have hregion : (s.headEnded e err).watchRegion e = ((s.headEnded e err).superviseSec k f).gatherWrite g e.burst := by
    rw [State.watchRegion_uplink hk hsec, hf]
  have hlog : ((s.headEnded e err).superviseSec k f).logNow = s.logged (s.lostRecords e err ++ s.heardRecords k f) := by
    have hrecords : (s.headEnded e err).heardRecords k f = s.heardRecords k f := by
      simp [State.heardRecords, State.record]
    rw [State.superviseSec_logNow, hrecords]
    exact hended.logged_append rfl _ _ (s.headEnded_logNow e err)
  have hframe : Frame [.memory, .memErrors, .logQueue, .lostCount, .sections] s ((s.headEnded e err).superviseSec k f) :=
    (hended.wide rfl).trans (hheard.wide rfl)
  have hnow : ((s.headEnded e err).superviseSec k f).now = s.now := hframe.same .timebase rfl
  have hgroups : ((s.headEnded e err).superviseSec k f).gather.groups = s.gather.groups := hframe.same .groups rfl
  have hgrp : ((s.headEnded e err).superviseSec k f).grp g = s.grp g := by rw [State.grp, hgroups]; rfl
  have htaking : ((s.headEnded e err).superviseSec k f).gather.taking = s.gather.taking := hframe.same .taking rfl
  have hdisabled := State.superviseSec_disabled (s.headEnded e err) k f
  have hrecord := State.superviseSec_sec (s.headEnded e err) k f
  rw [State.headEnded_sec] at hdisabled hrecord
  rw [State.headEnded_now] at hrecord
  refine ⟨_, f, exec_writeTaken_of_takes err h, hflags, ?_⟩
  rw [hregion]
  generalize (s.headEnded e err).superviseSec k f = u at *
  have hsec' : (u.grp g).sectionOf e.burst.addr = some k := by
    rw [hgrp]
    exact Group.sectionOf_eq haddr
  have hpos : (u.grp g).positionOf e.burst.addr = n := by rw [hgrp]; exact hn
  refine ⟨fun hno => ?_, fun htake hpart => ?_, fun htake hfull hset hd => ?_⟩
  · rw [State.gatherWrite_none hsec' (by rwa [htaking, hgrp, hdisabled])]
    have hdone := State.headDone_frame_unwatched u hw
    exact ⟨by rw [hdone.logNow rfl rfl, hlog], (hframe.wide rfl).trans (hdone.wide rfl)⟩
  · rw [State.gatherWrite_partial hsec' (by rwa [htaking]) hpart, hpos]
    have hdone := State.headDone_frame_unwatched (u.logPartial g k n e.burst) hw
    refine ⟨?_, ((hframe.wide rfl).trans ((State.log_frame _ _ _ _ _).wide rfl)).trans (hdone.wide rfl)⟩
    rw [hdone.logNow rfl rfl, State.logPartial_logNow, hframe.logged_append rfl _ _ hlog]
    simp [State.record, hnow]
  · rw [State.gatherWrite_arrives hsec' (by rwa [htaking]) hfull (by rwa [hgrp]) (by rwa [ne_eq, hdisabled]), hpos]
    exact ⟨u, hframe, hrecord hd, hlog, State.headDone_frame_unwatched _ hw⟩

/-! ### The watched words -/

theorem State.anchorAddr_frame {l : List Part} (h : Frame l s t) (hl : Part.within [.anchor] l = false) :
    t.anchorAddr = s.anchorAddr := by
  have ha : t.plan.anchor = s.plan.anchor := h.same .anchor hl
  rw [State.anchorAddr, ha]
  rfl

theorem State.watchWords_change {w : Word} (hc : e.watchChange = true) (hk : e.watchConsumer = false)
    (hw : e.burst.fullWordAt s.anchorAddr = some w) : s.watchWords e = s.takeWord0 w := by
  simp [State.watchWords, hc, hk, hw]

theorem State.watchWords_consumer {w : Word} (hc : e.watchChange = false) (hk : e.watchConsumer = true)
    (hw : e.burst.fullWordAt (s.anchorAddr + 64) = some w) : s.watchWords e = s.takeConsumer w := by
  simp [State.watchWords, hc, hk, hw]

theorem State.takeWord0_none {w : Word} (h : w.toNat % 256 = 0) : s.takeWord0 w = s := if_pos h

theorem State.takeWord0_created {w : Word} (h : w.toNat % 256 ≠ 0) (hc : s.plan.change = none) :
    s.takeWord0 w = { s with plan := { s.plan with
      change := some ⟨w.toNat % 256, w, 0, 0, 0, .arguments⟩, out := s.plan.out ++ [.argRead] } } := by
  simp [State.takeWord0, h, hc]

theorem State.takeWord0_collides {w : Word} {c : Change} (h : w.toNat % 256 ≠ 0) (hc : s.plan.change = some c) :
    s.takeWord0 w = s.collide c (w.toNat % 256) := by
  simp [State.takeWord0, h, hc]

/-- The end of a taken write, once its watched words have been seen. -/
theorem State.headDone_eq {v : State} (h : s.watchWords e = v) : s.headDone e = v.popHead.settle := by
  rw [State.headDone, h]

theorem State.popHead_plan (s : State) : s.popHead.plan = s.plan := by
  unfold State.popHead
  split <;> rfl

theorem State.popHead_report (s : State) : s.popHead.report = s.report := by
  unfold State.popHead
  split <;> rfl

/-- Settles O26: no request, a change created, or a collision. -/
theorem changeWordTaken : Obligations.ChangeWordTaken := by
  intro err e rest w s h hk hc hcon hword
  have hended := s.headEnded_frame e err
  have hchange : (s.headEnded e err).plan.change = s.plan.change := hended.same .change rfl
  have hnow : (s.headEnded e err).now = s.now := State.headEnded_now err
  have hlog := s.headEnded_logNow e err
  have hwords := State.watchWords_change (s := s.headEnded e err) hc hcon
    (by rw [State.anchorAddr_frame hended rfl]; exact hword)
  refine ⟨_, exec_writeTaken_plain err h hk, State.headDone_plain_queue h err, ?_⟩
  rw [State.headDone_eq hwords]
  generalize s.headEnded e err = u at *
  have hpop (v : State) : Frame [.queue] v v.popHead.settle := v.popHead_frame.settled
  refine ⟨fun hkind => ?_, fun hkind hnone => ?_, fun c hkind hsome => ?_⟩
  · rw [State.takeWord0_none hkind]
    exact ⟨by rw [(hpop u).logNow rfl rfl, hlog], (hended.wide rfl).trans ((hpop u).wide rfl)⟩
  · have hframe := u.takeWord0_frame w
    rw [State.takeWord0_created hkind (hchange.trans hnone)] at hframe ⊢
    refine ⟨⟨⟨w.toNat % 256, w, 0, 0, 0, .arguments⟩, ?_, rfl, rfl, rfl⟩, ?_, ?_, ?_⟩
    · rw [State.settle_plan_change, State.popHead_plan]
    · refine State.settle_planHas _ _ (.inl ?_)
      rw [State.popHead_plan]
      exact List.mem_append_right _ (List.mem_singleton_self _)
    · rw [(hpop _).logNow rfl rfl]
      exact hlog
    · exact ((hended.wide rfl).trans (hframe.wide rfl)).trans ((hpop _).wide rfl)
  · rw [State.takeWord0_collides hkind (hchange.trans hsome)]
    refine ⟨?_, ((hended.wide rfl).trans ((State.log_frame _ _ _ _ _).wide rfl)).trans ((hpop _).wide rfl)⟩
    rw [(hpop _).logNow rfl rfl, State.collide, State.log_logNow, hended.logged_append rfl _ _ hlog]
    simp [State.record, hnow]

theorem AttnClass.bit_injective {c d : AttnClass} (h : c.bit = d.bit) : c = d := by
  cases c <;> cases d <;> first | rfl | cases h

/-- The slots passed by the consumer index, where no count falls below 0: each class's count falls by the slots of that class, and
no free value is drawn (R178). -/
theorem passSlots_counts (xs : List Nat) (r : Report) (n : Nat)
    (h : ∀ c : AttnClass, (xs.filter fun j => tagAt r.tags j = some c).length ≤ r.unconsumed.get c.bit) :
    ∃ u, xs.foldl passSlot (r, n) = ({ r with unconsumed := u }, n) ∧ ∀ c : AttnClass, u.get c.bit =
      r.unconsumed.get c.bit - (xs.filter fun j => tagAt r.tags j = some c).length := by
  induction xs generalizing r with
  | nil => exact ⟨r.unconsumed, rfl, fun c => rfl⟩
  | cons x xs ih =>
    rw [List.foldl_cons]
    cases htag : tagAt r.tags x with
    | none =>
      have hstep : passSlot (r, n) x = (r, n) := by simp [passSlot, htag]
      rw [hstep]
      have hcount (c : AttnClass) : ((x :: xs).filter fun j => tagAt r.tags j = some c) =
          xs.filter fun j => tagAt r.tags j = some c := by simp [htag]
      simp only [hcount] at h ⊢
      exact ih r h
    | some d =>
      have hcount (c : AttnClass) : ((x :: xs).filter fun j => tagAt r.tags j = some c).length =
          (xs.filter fun j => tagAt r.tags j = some c).length + if d = c then 1 else 0 := by
        rw [List.filter_cons, htag]
        by_cases hd : d = c <;> simp [hd]
      simp only [hcount] at h ⊢
      have hpos : r.unconsumed.get d.bit ≠ 0 := by
        have := h d
        simp at this
        omega
      have hstep : passSlot (r, n) x = ({ r with unconsumed := r.unconsumed.set d.bit (r.unconsumed.get d.bit - 1) }, n) := by
        simp [passSlot, htag, hpos]
      have hget (c : AttnClass) : (r.unconsumed.set d.bit (r.unconsumed.get d.bit - 1)).get c.bit =
          r.unconsumed.get c.bit - if d = c then 1 else 0 := by
        by_cases hd : d = c
        · subst hd; simp
        · rw [Table.get_set_ne _ _ fun hb => hd (AttnClass.bit_injective hb), if_neg hd]; rfl
      rw [hstep]
      obtain ⟨u, hu, hcounts⟩ := ih { r with unconsumed := r.unconsumed.set d.bit (r.unconsumed.get d.bit - 1) } fun c => by
        rw [hget c]
        exact Nat.le_sub_of_add_le (h c)
      refine ⟨u, hu, fun c => ?_⟩
      rw [hcounts c]
      dsimp only
      rw [hget c, Nat.sub_sub, Nat.add_comm]

theorem attnOf_iff (mask : BitVec 6) (counts : Table Nat 6) :
    attnOf mask counts = true ↔ ∃ c : Fin 6, mask.getLsbD c.val = true ∧ 0 < counts.get c := by
  simp [attnOf]

/-- A taken write of the consumer index that no count falls below 0 for (R178, R181). -/
theorem State.takeConsumer_report (s : State) (w : Word)
    (h : ∀ c : AttnClass, ((slotsPassed s.report.logLen s.report.consumer (w.toNat % s.report.logLen)).filter
      fun j => tagAt s.report.tags j = some c).length ≤ s.report.unconsumed.get c.bit) :
    ∃ u q, s.takeConsumer w = { s with report := { s.report with
        unconsumed := u, consumer := w.toNat % s.report.logLen, attn := attnOf s.report.attnMask u, req := q } } ∧
      ∀ c : AttnClass, u.get c.bit = s.report.unconsumed.get c.bit -
        ((slotsPassed s.report.logLen s.report.consumer (w.toNat % s.report.logLen)).filter
          fun j => tagAt s.report.tags j = some c).length := by
  obtain ⟨u, hu, hcounts⟩ := passSlots_counts _ s.report s.free h
  obtain ⟨q, hq⟩ := Report.choose_eq ({ s.report with unconsumed := u, consumer := w.toNat % s.report.logLen } : Report).evalAttn
  refine ⟨u, q, ?_, hcounts⟩
  unfold State.takeConsumer
  dsimp only
  rw [hu, hq]
  rfl

/-- Settles O27: the counts after the slots passed, and ATTN from the counts. -/
theorem consumerIndexTaken : Obligations.ConsumerIndexTaken := by
  intro err e rest w s h hk hc hcon hword hcounts
  have hended := s.headEnded_frame e err
  have hlog := s.headEnded_logNow e err
  obtain ⟨hproducer, hconsumer⟩ := hended.same .logIndices rfl
  have htags : (s.headEnded e err).report.tags = s.report.tags := hended.same .classTags rfl
  have hunconsumed : (s.headEnded e err).report.unconsumed = s.report.unconsumed := hended.same .classCounts rfl
  have hmask : (s.headEnded e err).report.attnMask = s.report.attnMask := hended.same .attnMask rfl
  obtain ⟨-, -, hlen⟩ := hended.same .reportBases rfl
  have hwords := State.watchWords_consumer (s := s.headEnded e err) hc hcon
    (by rw [State.anchorAddr_frame hended rfl]; exact hword)
  rw [← hlen, ← hconsumer, ← htags, ← hunconsumed] at hcounts
  obtain ⟨u, q, htaken, hu⟩ := State.takeConsumer_report (s.headEnded e err) w hcounts
  have hframe := State.takeConsumer_frame (s.headEnded e err) w
  refine ⟨_, exec_writeTaken_plain err h hk, State.headDone_plain_queue h err, ?_⟩
  rw [State.headDone_eq hwords]
  have hdone := ((s.headEnded e err).takeConsumer w).popHead_frame.settled
  rw [htaken] at hframe hdone ⊢
  rw [hlen, hconsumer, htags, hunconsumed] at hu
  generalize s.headEnded e err = v at *
  refine ⟨?_, ?_, fun c => ?_, ?_, ?_, ?_⟩
  · simp [State.popHead_report, hlen]
  · simp [State.popHead_report, hproducer]
  · simp [State.popHead_report, hu c]
  · rw [State.settle_attn, State.settle_unconsumed, State.popHead_report, ← hmask]
    exact attnOf_iff _ _
  · rw [hdone.logNow rfl rfl]
    exact hlog
  · have hrest : Frame [.logIndices, .classCounts, .attn] v _ := hframe.drop rfl
    exact ((hended.wide rfl).trans (hrest.wide rfl)).trans (hdone.wide rfl)

end Sys2Proof.Machine
end


section
/-! PROOFS. The gather engine (chapters 06 and 07): arrivals, opens, evictions, the pool, result writes, and what a join scores. -/

namespace Sys2Proof.Machine

variable {s t u : State} {ga : Gather} {a : Arrival}

/-! ### Joins -/

theorem State.putGrp_grp (s : State) (g h : Fin 12) (r : Group) : (s.putGrp g r).grp h = if h = g then r else s.grp h := by
  by_cases hg : h = g
  · subst hg; simp [State.putGrp]
  · simp [State.putGrp, hg, Ne.symm hg]

theorem State.covered_iff (s : State) (ga : Gather) : s.covered ga = true ↔
    ∀ k, has (s.grp ga.group).set k = true → (s.sec k).state.eligible = true → has ga.contributors k = true := by
  simp only [State.covered, State.isCandidate, List.all_eq_true, List.mem_finRange, true_implies, Bool.or_eq_true,
    Bool.not_eq_true', Bool.and_eq_false_iff]
  refine forall_congr' fun k => ?_
  cases has (s.grp ga.group).set k <;> cases (s.sec k).state.eligible <;> simp

theorem State.joinedRecord_contributors (s : State) (ga : Gather) (k : Fin 24) (l : List Byte) :
    (s.joinedRecord ga k l).contributors = ga.contributors ||| single k := by
  unfold State.joinedRecord
  dsimp only
  split <;> rfl

theorem State.joinedRecord_group (s : State) (ga : Gather) (k : Fin 24) (l : List Byte) :
    (s.joinedRecord ga k l).group = ga.group ∧ (s.joinedRecord ga k l).pos = ga.pos := by
  unfold State.joinedRecord
  dsimp only
  split <;> exact ⟨rfl, rfl⟩

/-- After section `k` has joined, its gather is covered where every other section expected had joined before (R108). -/
theorem State.joined_covered (s : State) (ga : Gather) (k : Fin 24) (l : List Byte) :
    (s.putOpen (s.joinedRecord ga k l)).covered (s.joinedRecord ga k l) = true ↔
      ∀ j, has (s.grp ga.group).set j = true → (s.sec j).state.eligible = true → j = k ∨ has ga.contributors j = true := by
  rw [State.covered_iff, State.joinedRecord_contributors, (s.joinedRecord_group ga k l).1]
  refine forall_congr' fun j => forall_congr' fun _ => forall_congr' fun _ => ?_
  rw [has_or, has_single, Bool.or_eq_true, decide_eq_true_eq, or_comm, eq_comm]

theorem State.joinGather_complete {k : Fin 24} (l : List Byte) (h : ∀ j, has (s.grp ga.group).set j = true →
    (s.sec j).state.eligible = true → j = k ∨ has ga.contributors j = true) :
    ClosedAs s (s.joinGather ga k l) (s.joinedRecord ga k l) .complete ∧ Frame closeParts s (s.joinGather ga k l) := by
  have hjoin : s.joinGather ga k l =
      (s.putOpen (s.joinedRecord ga k l)).closeGather (s.joinedRecord ga k l) .complete :=
    if_pos ((s.joined_covered ga k l).mpr h)
  rw [hjoin]
  exact ⟨s.closeGather_retried _ _, ((s.putOpen_frame _).wide rfl).trans (State.closeGather_frame _ _ _)⟩

theorem State.joinGather_open {k j : Fin 24} (l : List Byte) (hset : has (s.grp ga.group).set j = true)
    (helig : (s.sec j).state.eligible = true) (hne : j ≠ k) (hno : has ga.contributors j = false) :
    s.joinGather ga k l = s.putOpen (s.joinedRecord ga k l) := by
  refine if_neg fun hcov => ?_
  rcases (s.joined_covered ga k l).mp hcov j hset helig with h | h
  · exact hne h
  · rw [hno] at h
    cases h

/-! ### Arrivals -/

/-- Settles O28: the cases of an arrival against the records of its key. -/
theorem arrivalMeetsItsKey : Obligations.ArrivalMeetsItsKey := by
  intro a s
  refine ⟨fun ga ho hseq hc => ?_, fun ho hlate => ?_, fun ga ho hseq hc => ?_, fun ga ho hseq => ?_, fun ho hfresh => ?_⟩
  · have harrive : s.arrive a = s.countDuplicate a.group := by simp [State.arrive, ho, hseq, hc]
    rw [harrive]
    refine ⟨?_, fun g hg => ?_, s.putGrp_frame _ _⟩
    · rw [State.countDuplicate, State.putGrp_grp, if_pos rfl]; rfl
    · rw [State.countDuplicate, State.putGrp_grp, if_neg hg]
  · obtain ⟨ga, hga, hgroup, hpos, hseq⟩ := hlate
    have hany : (s.gather.results.any fun x => x.hasKey a.group a.pos && x.seq = a.seq) = true :=
      List.any_eq_true.mpr ⟨ga, hga, by simp [Gather.hasKey, hgroup, hpos, hseq]⟩
    have harrive : s.arrive a = s.countLate a.group := by simp only [State.arrive, ho, hany, if_true]
    rw [harrive]
    refine ⟨?_, fun g hg => ?_, s.putGrp_frame _ _⟩
    · rw [State.countLate, State.putGrp_grp, if_pos rfl]; rfl
    · rw [State.countLate, State.putGrp_grp, if_neg hg]
  · have harrive : s.arrive a = s.joinGather ga a.sec a.line := by simp [State.arrive, ho, hseq, hc]
    obtain ⟨hg, hn⟩ := State.openAt_key ho
    rw [harrive]
    refine ⟨s.joinedRecord_contributors ga a.sec a.line, fun hcov => ?_, fun j hset helig hne hno => ?_⟩
    · exact State.joinGather_complete a.line (by rwa [hg])
    · rw [State.joinGather_open a.line (by rwa [hg]) helig hne hno]
      refine ⟨State.openAt_putOpen ho ((Gather.hasKey_iff _ _ _).mpr ?_), s.putOpen_frame _⟩
      obtain ⟨hg', hn'⟩ := s.joinedRecord_group ga a.sec a.line
      exact ⟨hg'.trans hg, hn'.trans hn⟩
  · exact ⟨_, s.closeGather_closed ga .superseded, s.closeGather_frame ga .superseded, by simp [State.arrive, ho, hseq]⟩
  · have hnone : (s.gather.results.any fun x => x.hasKey a.group a.pos && x.seq = a.seq) = false := by
      rw [List.any_eq_false]
      intro x hx
      have := hfresh x hx
      simp only [Gather.hasKey, Bool.and_eq_true, decide_eq_true_eq]
      rintro ⟨⟨hg, hn⟩, hs⟩
      exact this hg hn hs
    simp only [State.arrive, ho, hnone]
    rfl

/-! ### Opens and evictions -/

theorem State.openOrWait_free (h : s.poolUsed < 32) (a : Arrival) : s.openOrWait a = s.openGather a := if_pos h

/-- The state in which the first section of a gather that opens joins it (R106). -/
def State.withRecord (s : State) (a : Arrival) : State :=
  State.mark { s with gather := { s.gather with opens := s.gather.opens ++ [s.openedRecord a] } } (mirrorOfGroup a.group)

theorem State.openGather_eq (s : State) (a : Arrival) :
    s.openGather a = (s.withRecord a).joinGather (s.openedRecord a) a.sec a.line := rfl

theorem State.withRecord_frame (s : State) (a : Arrival) : Frame [.opens] s (s.withRecord a) :=
  (openList_frame s (s.gather.opens ++ [s.openedRecord a])).trans ((State.mark_frame _ _).mono nofun)

theorem openAt_none_hasKey (hnew : s.openAt a.group a.pos = none) : ∀ x ∈ s.gather.opens, x.hasKey a.group a.pos = false := by
  intro x hx
  simpa using List.find?_eq_none.mp hnew x hx

theorem State.joinedRecord_opened (s : State) (a : Arrival) :
    (s.joinedRecord (s.openedRecord a) a.sec a.line).group = a.group ∧
      (s.joinedRecord (s.openedRecord a) a.sec a.line).pos = a.pos :=
  s.joinedRecord_group (s.openedRecord a) a.sec a.line

/-- A gather that opens where another section is expected: it stands behind the OPEN records with its first contributor (R106). -/
theorem State.openGather_open {j : Fin 24} (hnew : s.openAt a.group a.pos = none) (hset : has (s.grp a.group).set j = true)
    (helig : (s.sec j).state.eligible = true) (hne : j ≠ a.sec) :
    (s.openGather a).gather.opens = s.gather.opens ++ [s.joinedRecord (s.openedRecord a) a.sec a.line] ∧
      Frame [.opens] s (s.openGather a) := by
  have hjoin := State.joinGather_open (s := s.withRecord a) (ga := s.openedRecord a) (k := a.sec) a.line hset helig hne
    (BitVec.getLsbD_zero)
  rw [State.openGather_eq, hjoin]
  refine ⟨?_, (s.withRecord_frame a).trans (State.putOpen_frame _ _)⟩
  obtain ⟨hgroup, hpos⟩ := s.joinedRecord_opened a
  change (s.gather.opens ++ [s.openedRecord a]).map (fun x =>
    if x.hasKey (s.joinedRecord (s.openedRecord a) a.sec a.line).group (s.joinedRecord (s.openedRecord a) a.sec a.line).pos = true
    then s.joinedRecord (s.openedRecord a) a.sec a.line else x) = _
  rw [hgroup, hpos, List.map_append, List.map_singleton]
  congr 1
  · conv_rhs => rw [← List.map_id s.gather.opens]
    refine List.map_congr_left fun x hx => if_neg ?_
    simp [openAt_none_hasKey hnew x hx]
  · have hkey : (s.openedRecord a).hasKey a.group a.pos = true := (Gather.hasKey_iff _ _ _).mpr ⟨rfl, rfl⟩
    rw [if_pos hkey]

/-- A gather that opens where no other section is expected closes as COMPLETE at once (R106, R108). -/
theorem State.openGather_complete (hcov : ∀ k, has (s.grp a.group).set k = true → (s.sec k).state.eligible = true → k = a.sec) :
    ClosedAs s (s.openGather a) (s.joinedRecord (s.openedRecord a) a.sec a.line) .complete ∧
      Frame closeParts s (s.openGather a) := by
  obtain ⟨hclosed, hframe⟩ := State.joinGather_complete (s := s.withRecord a) (ga := s.openedRecord a) (k := a.sec) a.line
    fun k hset helig => .inl (hcov k hset helig)
  have hopened := s.withRecord_frame a
  rw [State.openGather_eq]
  refine ⟨?_, (hopened.wide rfl).trans hframe⟩
  have hjoined : (s.withRecord a).joinedRecord (s.openedRecord a) a.sec a.line =
      s.joinedRecord (s.openedRecord a) a.sec a.line := rfl
  rw [hjoined] at hclosed
  obtain ⟨hopens, hresults, hgroup, hothers, hlog⟩ := hclosed
  obtain ⟨hg, hn⟩ := s.joinedRecord_opened a
  have hrecords : (s.withRecord a).gather.opens = s.gather.opens ++ [s.openedRecord a] := rfl
  have hnew : (s.openedRecord a).group = a.group ∧ (s.openedRecord a).pos = a.pos := ⟨rfl, rfl⟩
  refine ⟨?_, hresults, hgroup, hothers, ?_⟩
  · simp [hopens, hrecords, hg, hn, hnew]
  · exact hlog.trans (hopened.logged rfl _)

/-- Gather `x` is not evicted before gather `ga` (R107). -/
def evictsFirst (ga x : Gather) : Prop := ga.firstArrival < x.firstArrival ∨ (ga.firstArrival = x.firstArrival ∧
  (ga.group < x.group ∨ (ga.group = x.group ∧ ga.pos ≤ x.pos)))

theorem evictsFirst_trans {x y z : Gather} (h : evictsFirst x y) (k : evictsFirst y z) : evictsFirst x z := by
  unfold evictsFirst at *
  omega

theorem earlier_first (x y : Gather) : evictsFirst (earlier x y) x ∧ evictsFirst (earlier x y) y := by
  unfold earlier evictsFirst
  split
  · omega
  · split <;> omega

theorem evictee_none {l : List Gather} (h : evictee l = none) : l = [] := by
  cases l with
  | nil => rfl
  | cons x l =>
    unfold evictee at h
    split at h <;> cases h

theorem evictee_first {l : List Gather} {ga : Gather} (h : evictee l = some ga) : ∀ x ∈ l, evictsFirst ga x := by
  induction l generalizing ga with
  | nil => cases h
  | cons y l ih =>
    unfold evictee at h
    intro x hx
    split at h
    · rename_i b hb
      cases h
      obtain ⟨hy, hl⟩ := earlier_first y b
      rcases List.mem_cons.mp hx with rfl | hx
      · exact hy
      · exact evictsFirst_trans hl (ih hb x hx)
    · rename_i hb
      cases h
      rw [evictee_none hb, List.mem_singleton] at hx
      subst hx
      exact .inr ⟨rfl, .inr ⟨rfl, Nat.le_refl _⟩⟩

/-- With the pool full the arrival waits, after the eviction if any gather is OPEN (R107). -/
theorem State.openOrWait_full (h : 32 ≤ s.poolUsed) (a : Arrival) : s.openOrWait a =
    { (match evictee s.gather.opens with | some ga => s.closeGather ga .evicted | none => s) with
      gather := { (match evictee s.gather.opens with | some ga => s.closeGather ga .evicted | none => s).gather with
        waiting := some a } } := if_neg (by omega)

/-- Settles O29: a free record, and the eviction with the pool full. -/
theorem arrivalOpensOrWaits : Obligations.ArrivalOpensOrWaits := by
  intro a s new hnew hrec
  have hrec' : new = s.joinedRecord (s.openedRecord a) a.sec a.line := hrec
  subst hrec'
  refine ⟨fun hfree => ?_, fun hfull => ?_⟩
  · rw [State.openOrWait_free hfree]
    exact ⟨fun k hset helig hne => State.openGather_open hnew hset helig hne, fun hcov => State.openGather_complete hcov⟩
  · refine ⟨by rw [State.openOrWait_full hfull], s.openOrWait_frame a, fun hempty => ?_, fun hsome => ?_⟩
    · rw [State.openOrWait_full hfull, hempty]
      exact arrival_frame s (some a)
    · cases hev : evictee s.gather.opens with
      | none => exact absurd (evictee_none hev) hsome
      | some ga =>
        rw [State.openOrWait_full hfull, hev]
        exact ⟨ga, PoolOk.evictee_mem hev, s.closeGather_closed ga .evicted, evictee_first hev⟩

/-! ### The pool and the deadlines -/

theorem State.mark_mirrorDue (h : s.inForce = true) {m : Nat} (hm : m < 47) : (s.mark m).mirrorDue m := by
  refine .inl ?_
  simp [State.mark, h, hm]

/-- Settles O30. -/
theorem poolRecordAndDeadline : Obligations.PoolRecordAndDeadline := by
  refine ⟨fun a s hreset hwait hused => ?_, fun g n d ga s hreset ho hd hnow => ?_⟩
  · have hready : s.poolReady = true := by simp [State.poolReady, hwait, hused]
    have hend : s.endWait.gather.waiting = none ∧ s.endWait.path.queue = s.path.queue.tail ∧ s.endWait.poolUsed < 32 := by
      rw [State.endWait, if_pos (by rw [hwait]; rfl)]
      exact ⟨rfl, rfl, hused⟩
    obtain ⟨hnone, hqueue, hfree⟩ := hend
    have hgive : s.givePool = if has (s.grp a.group).set a.sec && (s.sec a.sec).state != .disabled then s.endWait.openGather a
        else s.endWait := by
      unfold State.givePool
      rw [hwait]
    refine ⟨s.givePool.settle, s.endWait, exec_effect rfl rfl hreset hready, s.endWait_frame, hnone, hqueue, fun hset hd => ?_,
      fun hno => ?_⟩
    · rw [hgive, if_pos (by simp [hset, hd]), State.openOrWait_free hfree]
      exact State.settle_frame _
    · rw [hgive, if_neg (by rcases hno with h | h <;> simp [h])]
      exact State.settle_frame _
  · have hexpired : s.expiredGather g n = some ga := by simp [State.expiredGather, ho, reached, hd, hnow]
    have hexpire : s.expireGather g n = s.closeGather ga .deadline := by simp only [State.expireGather, hexpired]
    have hkey := State.openAt_key ho
    have hexec : exec (.gatherDeadline g n) s = .next (s.expireGather g n).settle :=
      exec_effect rfl rfl hreset (by simp [State.effect, hexpired])
    rw [hexpire] at hexec
    refine ⟨_, hexec, (s.closeGather_closed ga .deadline).settle, fun hf => ?_, (s.closeGather_quiet_frame ga _ rfl).settled⟩
    rw [← hkey.1]
    exact State.settle_mirrorDue _ _ (State.mark_mirrorDue hf (m := mirrorOfGroup ga.group) (by unfold mirrorOfGroup; omega))

/-! ### Result writes -/

theorem State.burstError_logNow (s : State) (src : ErrSource) (n : Nat) (d : Word) :
    (s.burstError src n d).logNow = s.logged [s.record .memoryError src.code (wNat n) d] := by
  rw [State.burstError, State.log_logNow, s.memError_frame.logged rfl]
  rfl

/-- The end of a burst that was answered with an error, or was not: counted and logged after an error (R32). -/
theorem State.errorEnd (s v : State) (src : ErrSource) (n : Nat) (d : Word) (err : Bool) {l : List Part} (h : Frame l s v)
    (hl : (Part.within [.logQueue] l || Part.within [.lostCount] l || Part.within [.partState] l || Part.within [.logIndices] l ||
      Part.within [.reportBases] l || Part.within [.memErrors] l || Part.within [.timebase] l) = false) :
    (if err then v.burstError src n d else v).logNow = s.logged (s.errorRecords src n d err) ∧
      (if err then v.burstError src n d else v).plan.memErrors = s.errorsAfter err := by
  simp only [Bool.or_eq_false_iff] at hl
  obtain ⟨⟨⟨⟨⟨⟨hq, hlost⟩, hpart⟩, hidx⟩, hbase⟩, herr⟩, hnow⟩ := hl
  have hmem : v.plan.memErrors = s.plan.memErrors := h.same .memErrors herr
  have hclock : v.now = s.now := h.same .timebase hnow
  have hlogged := h.logged (by simp [hq, hlost, hpart, hidx, hbase])
  cases err with
  | false =>
    simp only [Bool.false_eq_true, if_false, State.errorRecords, State.errorsAfter, State.logged_nil]
    exact ⟨h.logNow hq hlost, hmem⟩
  | true =>
    simp only [if_true, State.errorRecords, State.errorsAfter]
    refine ⟨?_, ?_⟩
    · rw [State.burstError_logNow, hlogged]
      simp [State.record, hclock]
    · exact congrArg bump hmem

/-- A held read of the key awaits one result write less (R114). -/
theorem State.noteResult_held {g : Fin 12} {n c : Nat} {r : ReadTxn} (ht : s.path.txn = some (.read r))
    (hp : r.phase = .held g n c) :
    (s.noteResult g n).path.txn = some (.read { r with phase := .held g n (c - 1) }) := by
  simp [State.noteResult, ht, ReadTxn.awaitedLess, hp]

/-- Any other transaction stays as it is (R114). -/
theorem State.noteResult_other {g : Fin 12} {n : Nat}
    (h : ∀ r c, s.path.txn = some (.read r) → r.phase ≠ .held g n c) : (s.noteResult g n).path.txn = s.path.txn := by
  unfold State.noteResult
  split
  · rename_i r hr
    have hsame : r.awaitedLess g n = r := by
      unfold ReadTxn.awaitedLess
      split
      · rename_i g' n' c hp
        refine if_neg fun hkey => h r c hr ?_
        simp only [Bool.and_eq_true, decide_eq_true_eq] at hkey
        rw [hp, hkey.1, hkey.2]
      · rfl
    rw [hsame, hr]
  · rfl

/-- Settles O31: the write's end at memory, at the result list and at the read that is held. -/
theorem resultWriteFreesRecord : Obligations.ResultWriteFreesRecord := by
  intro err ga rest s hreset hport hresults hwf
  have hdue : s.resultOnPort = true := by simp [State.resultOnPort, hport, hresults]
  have hexec : exec (.resultWriteComplete err) s = .next (s.resultWritten err).settle := exec_effect rfl rfl hreset hdue
  have haddr : s.resultAddr = (s.grp ga.group).outputBase + ga.pos * 64 := by simp [State.resultAddr, hresults]
  have hcells : s.portCells = cellsFrom ((s.grp ga.group).outputBase + ga.pos * 64) ga.result := by
    simp [State.portCells, hport, hresults, haddr]
  have hstored := s.complete_stored err hwf (by rw [hcells]; exact cellsFrom_nodup _ _)
  rw [hcells] at hstored
  have hwritten : s.resultWritten err = if err then
      ((s.complete err).dropResult.noteResult ga.group ga.pos).burstError .result ((s.grp ga.group).outputBase + ga.pos * 64)
        (w2 ga.group.val ga.pos)
      else (s.complete err).dropResult.noteResult ga.group ga.pos := by
    rw [← haddr]
    simp only [State.resultWritten, hresults]
  have hframe := s.resultWritten_frame err
  rw [hwritten] at hexec hframe
  have hdrop : Frame [.memory, .results] s (s.complete err).dropResult :=
    ((s.complete_frame err).wide rfl).trans ((State.dropResult_frame _).wide rfl)
  have hnote : Frame [.memory, .results, .transaction] s ((s.complete err).dropResult.noteResult ga.group ga.pos) :=
    (hdrop.wide rfl).trans ((State.noteResult_frame _ _ _).wide rfl)
  obtain ⟨hlog, herrors⟩ := State.errorEnd s _ .result ((s.grp ga.group).outputBase + ga.pos * 64) (w2 ga.group.val ga.pos) err
    hnote rfl
  have hrest : Frame errorParts ((s.complete err).dropResult.noteResult ga.group ga.pos) (if err = true then
      ((s.complete err).dropResult.noteResult ga.group ga.pos).burstError .result ((s.grp ga.group).outputBase + ga.pos * 64)
        (w2 ga.group.val ga.pos)
      else (s.complete err).dropResult.noteResult ga.group ga.pos) :=
    Frame.ite (State.burstError_frame _ _ _ _) (Frame.refl _ _)
  refine ⟨_, hexec, ?_, ?_, ?_, ?_, fun r c ht hp => ?_, fun hother => ?_, hframe.settled⟩
  · refine hstored.mem_eq ?_
    rw [State.settle_mem]
    have hcalm := (State.noteResult_calm (s.complete err).dropResult ga.group ga.pos).1
    split
    · exact hcalm
    · exact hcalm
  · rw [State.settle_results]
    have hres : ((s.complete err).dropResult.noteResult ga.group ga.pos).gather.results = s.gather.results.tail :=
      (State.noteResult_frame _ _ _).same .results rfl
    exact (Eq.trans (hrest.same .results rfl) hres).trans (by rw [hresults]; rfl)
  · exact Eq.trans (State.settle_memErrors _) herrors
  · rw [State.settle_logNow, hlog]
  · have htxn : ((s.complete err).dropResult.noteResult ga.group ga.pos).path.txn = _ :=
      State.noteResult_held (s := (s.complete err).dropResult) ht hp
    rw [State.settle_txn, hrest.same .transaction rfl, htxn]
    rfl
  · refine Same.trans ?_ ((State.settle_frame _).mono (m := []) (by simp) _ (by simp))
    refine Same.trans ?_ (hrest.same .transaction rfl)
    have htxn : ((s.complete err).dropResult.noteResult ga.group ga.pos).path.txn = _ :=
      State.noteResult_other (s := (s.complete err).dropResult) hother
    change Option.map _ _ = _
    rw [htxn]
    rfl

/-! ### What a join scores (R121 to R125) -/

/-- What an action in force adds to the focus of section `k` in group `g` (R124). -/
def focusOf (g : Fin 12) (k : Fin 24) : Action → Nat
  | .focus g' m bonus => if g' = g.val && has m k then bonus else 0
  | _ => 0

theorem State.focusBonus_eq (s : State) (g : Fin 12) (k : Fin 24) :
    s.focusBonus g k = s.actionsInForce.foldl (fun acc x => max acc (focusOf g k x)) 0 := by
  unfold State.focusBonus
  congr 1
  funext acc x
  cases x <;> simp only [focusOf, Nat.max_zero]
  split <;> simp

/-- The largest of a list's values, and of a first one. -/
theorem foldl_max_spec {α : Type} (f : α → Nat) (l : List α) (m : Nat) :
    (∀ b, m ≤ b → (∀ x ∈ l, f x ≤ b) → l.foldl (fun acc x => max acc (f x)) m ≤ b) ∧
      m ≤ l.foldl (fun acc x => max acc (f x)) m ∧ ∀ x ∈ l, f x ≤ l.foldl (fun acc x => max acc (f x)) m := by
  induction l generalizing m with
  | nil => exact ⟨fun b hb _ => hb, Nat.le_refl _, fun x hx => (List.not_mem_nil hx).elim⟩
  | cons y l ih =>
    obtain ⟨hle, hm, hmem⟩ := ih (max m (f y))
    refine ⟨fun b hb hall => ?_, ?_, fun x hx => ?_⟩
    · exact hle b (Nat.max_le.mpr ⟨hb, hall y List.mem_cons_self⟩) fun x hx => hall x (List.mem_cons_of_mem _ hx)
    · exact (Nat.le_max_left _ _).trans hm
    · rcases List.mem_cons.mp hx with rfl | hx
      · exact (Nat.le_max_right _ _).trans hm
      · exact hmem x hx

/-- The focus bonus is the largest of the FOCUS actions in force that name the group and the section (R124). -/
theorem State.focusBonus_spec {g : Fin 12} {k : Fin 24} {focus : Nat}
    (hle : ∀ (l : Fin 6) (j : Fin 3) (mask : SecSet) (bonus : Nat), (s.line l).state = .active ∨ (s.line l).state = .latched →
      (s.line l).actions.get j = .focus g.val mask bonus → has mask k = true → bonus ≤ focus)
    (hmem : focus = 0 ∨ ∃ (l : Fin 6) (j : Fin 3) (mask : SecSet), ((s.line l).state = .active ∨ (s.line l).state = .latched) ∧
      (s.line l).actions.get j = .focus g.val mask focus ∧ has mask k = true) :
    s.focusBonus g k = focus := by
  obtain ⟨hbound, -, hreach⟩ := foldl_max_spec (focusOf g k) s.actionsInForce 0
  rw [State.focusBonus_eq]
  refine Nat.le_antisymm (hbound focus (Nat.zero_le _) fun x hx => ?_) ?_
  · obtain ⟨l, j, hstate, hx⟩ := (s.mem_actionsInForce x).mp hx
    unfold focusOf
    split
    · split
      · rename_i g' m bonus _ hname
        simp only [Bool.and_eq_true, decide_eq_true_eq] at hname
        exact hle l j m bonus hstate (by rw [hx, hname.1]) hname.2
      · exact Nat.zero_le _
    · exact Nat.zero_le _
  · rcases hmem with rfl | ⟨l, j, mask, hstate, hact, hmask⟩
    · exact Nat.zero_le _
    · have := hreach _ ((s.mem_actionsInForce _).mpr ⟨l, j, hstate, hact⟩)
      simpa [focusOf, hmask] using this

/-- The metric is the sum of the terms of R122, clamped to 0 to 1593. -/
theorem State.metric_eq (s : State) (g : Fin 12) (k : Fin 24) (line : List Byte) :
    (s.metric g k line : Int) = max 0 (min 1593 (4 * (field line 4 1 : Int)
      - (s.grp g).vote.errorWeight * field line 5 1
      + (if (field line 3 1).testBit 1 then ((s.grp g).vote.crcBonus : Int) else 0)
      + (if (s.grp g).lastWinner = some k then ((s.grp g).vote.hysteresis : Int) else 0)
      + s.focusBonus g k
      - (if (s.sec k).state = .degraded then ((s.grp g).vote.penalty : Int) else 0))) := by
  unfold State.metric metricOf metricSum uplinkFlag
  simp only [beq_iff_eq, decide_eq_true_eq]
  omega

/-- A block is the best candidate from its join exactly where it beats the one before (R125). -/
theorem Vote.beats_iff (v : Vote) (k : Fin 24) (m : Nat) : v.beats k m = true ↔
    v.best = none ∨ ∃ b, v.best = some b ∧ (v.metric < m ∨ (v.metric = m ∧ k < b)) := by
  unfold Vote.beats
  cases v.best <;> simp

/-- Settles O32: the metric of the block, and the vote's contents by whether the block is eligible and the best. -/
theorem blockScoredAtJoin : Obligations.BlockScoredAtJoin := by
  refine ⟨fun ga k line s m focus hkind hle hmem hm => ?_, fun ga k line s hkind => ?_⟩
  · have hmetric : s.metric ga.group k line = m := by
      have heq := s.metric_eq ga.group k line
      rw [State.focusBonus_spec hle hmem, ← hm] at heq
      exact_mod_cast heq
    refine ⟨ga.vote.joined k m line, ?_, ?_, fun hno => ?_, fun hel => ⟨?_, fun hbest => ?_, fun b hb hworse => ?_⟩⟩
    · simp only [State.joinedRecord, hkind, hmetric]
    · unfold Vote.joined
      dsimp only
      split
      · split <;> rfl
      · rfl
    · exact if_neg (by simp [uplinkFlag, hno])
    · unfold Vote.joined
      dsimp only
      rw [if_pos (by simpa [uplinkFlag] using hel)]
      split <;> rfl
    · unfold Vote.joined
      dsimp only
      rw [if_pos (by simpa [uplinkFlag] using hel), if_pos ((ga.vote.beats_iff k m).mpr hbest)]
      exact ⟨rfl, rfl, rfl, rfl⟩
    · have hno : ¬ga.vote.beats k m = true := by
        rw [Vote.beats_iff, hb]
        rintro (h | ⟨b', h, hbeat⟩)
        · cases h
        · cases h
          omega
      unfold Vote.joined
      dsimp only
      rw [if_pos (by simpa [uplinkFlag] using hel), if_neg hno]
      exact ⟨hb, rfl, rfl, rfl⟩
  · simp only [State.joinedRecord, hkind]
    rfl

end Sys2Proof.Machine
end


section
/-! PROOFS. The forms the part writes (chapter 12): fields of little-endian bytes, and the layouts of result lines, mirror records and
log records. -/

namespace Sys2Proof.Machine

variable {s : State}

/-! ### Fields of bytes -/

@[simp] theorem length_le_bytes (n v : Nat) : (le n v).length = n := by
  induction n generalizing v with
  | zero => rfl
  | succ n ih => simp [le, ih]

@[simp] theorem length_zeros (n : Nat) : (zeros n).length = n := List.length_replicate

theorem ofLe_le (n v : Nat) : ofLe (le n v) = v % 256 ^ n := by
  induction n generalizing v with
  | zero => simp [le, ofLe, Nat.mod_one]
  | succ n ih =>
    have hbyte : (BitVec.ofNat 8 v).toNat = v % 256 := BitVec.toNat_ofNat v 8
    rw [le, ofLe, ih, hbyte, Nat.pow_succ', Nat.mod_mul]

theorem zeros_eq_le (n : Nat) : zeros n = le n 0 := by
  induction n with
  | zero => rfl
  | succ n ih =>
    rw [zeros, List.replicate_succ, le, Nat.zero_div]
    exact congrArg _ ih

/-- The field at the front of a form. -/
@[simp] theorem field_front (n v : Nat) (l : List Byte) : field (le n v ++ l) 0 n = v % 256 ^ n := by
  rw [field, List.drop_zero, List.take_left' (length_le_bytes n v), ofLe_le]

@[simp] theorem field_whole (n v : Nat) : field (le n v) 0 n = v % 256 ^ n := by
  simpa using field_front n v []

/-- A field behind an earlier one. -/
theorem field_behind {m off : Nat} (h : m ≤ off) (n v : Nat) (l : List Byte) : field (le m v ++ l) off n = field l (off - m) n := by
  rw [field, field, List.drop_append, List.drop_eq_nil_of_le (by simpa using h), length_le_bytes, List.nil_append]

@[simp] theorem field_zeros (n : Nat) (l : List Byte) : field (zeros n ++ l) 0 n = 0 := by
  rw [zeros_eq_le, field_front, Nat.zero_mod]

theorem padTo_eq {n : Nat} {l : List Byte} (h : l.length ≤ n) : padTo n l = l ++ zeros (n - l.length) := by
  rw [padTo, List.take_of_length_le]
  simp
  omega

theorem padTo_length (n : Nat) (l : List Byte) : (padTo n l).length = n := by
  simp [padTo]
  omega

/-- Reserved bytes between a form and what follows them. -/
theorem drop_take_zeros (l r : List Byte) (n : Nat) : ((l ++ (zeros n ++ r)).drop l.length).take n = List.replicate n 0 := by
  rw [List.drop_left, List.take_left' (length_zeros n)]
  rfl

/-- Settles the log record's part of O34. -/
theorem LogRec.bytes_fields (e : LogRec) : e.bytes.length = 16 ∧ field e.bytes 0 1 = e.kind.code ∧ field e.bytes 1 1 = 0 ∧
    field e.bytes 2 2 = e.subject % 65536 ∧ field e.bytes 4 4 = e.time % 4294967296 ∧ field e.bytes 8 4 = e.d1.toNat ∧
    field e.bytes 12 4 = e.d2.toNat := by
  have hkind : e.kind.code < 256 := by cases e.kind <;> decide
  simp [LogRec.bytes, List.append_assoc, field_behind, zeros_eq_le, Nat.mod_eq_of_lt, hkind, e.d1.isLt, e.d2.isLt]

/-! ### Mirror records (R176) -/

theorem mirrorPart_length (p : PlanUnit) : (mirrorPart p).length = 12 := by
  unfold mirrorPart
  split <;> simp

/-- The part's mirror record. -/
theorem mirrorPart_fields (p : PlanUnit) (tail l : List Byte) (hl : l = mirrorPart p ++ tail) :
    field l 0 1 = p.partState.code ∧ field l 1 1 = 0 ∧ field l 2 2 = p.generation % 65536 ∧ field l 6 2 = p.memErrors % 65536 ∧
      (p.lastError = .none → field l 4 1 = 0 ∧ field l 5 1 = 0 ∧ field l 8 4 = 0) ∧
      (∀ c e, p.lastError = .check c e → field l 4 1 = c.code ∧ field l 5 1 = e % 256 ∧ field l 8 4 = 0) ∧
      (∀ off, p.lastError = .fetch off → field l 4 1 = 13 ∧ field l 5 1 = 255 ∧ field l 8 4 = off % 4294967296) := by
  have hstate : p.partState.code < 256 := by cases p.partState <;> decide
  have hcheck (c : PlanCheck) : c.code < 256 := by cases c <;> decide
  subst hl
  unfold mirrorPart
  cases p.lastError <;>
    simp [List.append_assoc, field_behind, zeros_eq_le, Nat.mod_eq_of_lt, hstate, hcheck]

theorem mirrorSection_length (r : SectionRec) (b : BreakRec) : (mirrorSection r b).length = 10 := by
  simp [mirrorSection]

theorem mirrorSection_fields (r : SectionRec) (b : BreakRec) (tail l : List Byte) (hl : l = mirrorSection r b ++ tail) :
    field l 0 1 = r.state.code ∧ field l 1 1 = (if r.feederFault then 1 else 0) + (if r.unitAlarm then 2 else 0) ∧
      field l 2 2 = r.transitions % 65536 ∧ field l 4 1 = (match b.active with | some c => c.val | none => 255) ∧
      field l 5 1 = (match b.suspended with | some c => c.val | none => 255) ∧ field l 6 1 = b.st.code ∧ field l 7 1 = 0 ∧
      field l 8 2 = b.gain % 65536 := by
  have hstate : r.state.code < 256 := by cases r.state <;> decide
  have hbreak : b.st.code < 256 := by cases b.st <;> decide
  have hflags : (if r.feederFault = true then 1 else 0) + (if r.unitAlarm = true then 2 else 0) < 256 := by
    split <;> split <;> decide
  have href (x : Option (Fin 4)) : refCode x % 256 = (match x with | some c => c.val | none => 255) := by
    cases x with
    | none => rfl
    | some c => exact Nat.mod_eq_of_lt (by have := c.isLt; simp only [refCode]; omega)
  subst hl
  unfold mirrorSection
  simp [List.append_assoc, field_behind, zeros_eq_le, Nat.mod_eq_of_lt, hstate, hbreak, hflags, href]

theorem mirrorChan_length (c : Chan) : (mirrorChan c).length = 20 := by
  simp [mirrorChan]

theorem mirrorChan_fields (c : Chan) (tail l : List Byte) (hl : l = mirrorChan c ++ tail) :
    field l 0 1 = c.st.code ∧ field l 1 1 = (match c.owner with | some (.line k) => k.val | some .host => 6 | none => 15) ∧
      field l 2 1 = c.prio % 256 ∧ field l 3 1 = c.repeats % 256 ∧ field l 4 2 = c.walk.entry % 65536 ∧ field l 6 2 = 0 ∧
      field l 8 4 = (c.i % 4294967296).toNat ∧ field l 12 2 = c.underruns % 65536 ∧ field l 14 2 = c.lateReads % 65536 ∧
      field l 16 2 = c.saturations % 65536 ∧ field l 18 2 = c.marksPassed % 65536 := by
  have hstate : c.st.code < 256 := by cases c.st <;> decide
  have howner : ownerCode c.owner % 256 = (match c.owner with | some (.line k) => k.val | some .host => 6 | none => 15) := by
    cases c.owner with
    | none => rfl
    | some o =>
      cases o with
      | host => rfl
      | line k => exact Nat.mod_eq_of_lt (by have := k.isLt; simp only [ownerCode]; omega)
  have hindex : (wInt c.i).toNat = (c.i % 4294967296).toNat := BitVec.toNat_ofInt c.i
  have hbound : (c.i % 4294967296).toNat % 4294967296 = (c.i % 4294967296).toNat := Nat.mod_eq_of_lt (by omega)
  subst hl
  unfold mirrorChan
  simp [List.append_assoc, field_behind, zeros_eq_le, Nat.mod_eq_of_lt, hstate, howner, hindex, hbound]

theorem mirrorLine_length (l : LineRec) : (mirrorLine l).length = 3 := by
  simp [mirrorLine]

theorem mirrorLine_fields (r : LineRec) (tail l : List Byte) (hl : l = mirrorLine r ++ tail) :
    field l 0 1 = r.state.code ∧ field l 1 1 = (if r.acked then 1 else 0) ∧ field l 2 1 = r.request.code := by
  have hstate : r.state.code < 256 := by cases r.state <;> decide
  have hrequest : r.request.code < 256 := by cases r.request <;> decide
  have hacked : (if r.acked = true then 1 else 0) < 256 := by split <;> decide
  subst hl
  unfold mirrorLine
  simp [List.append_assoc, field_behind, Nat.mod_eq_of_lt, hstate, hrequest, hacked]

/-- The field of one of several values of the same length, one after another. -/
theorem field_values (m : Nat) (vs : List Nat) (tail : List Byte) (i : Nat) (h : i < vs.length) :
    field (vs.flatMap (le m) ++ tail) (m * i) m = vs[i] % 256 ^ m := by
  induction vs generalizing i with
  | nil => exact absurd h (Nat.not_lt_zero i)
  | cons v vs ih =>
    rw [List.flatMap_cons, List.append_assoc]
    cases i with
    | zero => exact field_front m v _
    | succ i =>
      rw [field_behind (Nat.le_mul_of_pos_right m (Nat.succ_pos i)), Nat.mul_succ, Nat.add_sub_cancel]
      exact ih i (Nat.lt_of_succ_lt_succ h)

theorem field_flatMap {n : Nat} (m : Nat) (f : Fin n → Nat) (tail : List Byte) (i : Fin n) :
    field ((List.finRange n).flatMap (fun x => le m (f x)) ++ tail) (m * i.val) m = f i % 256 ^ m := by
  have hvalues := field_values m ((List.finRange n).map f) tail i.val (by simp)
  rw [List.flatMap_map] at hvalues
  simpa using hvalues

theorem length_flatMap_le {n : Nat} (m : Nat) (f : Fin n → Nat) :
    ((List.finRange n).flatMap fun x => le m (f x)).length = n * m := by
  simp [List.length_flatMap]

theorem mirrorGroup_length (n : Nat) (g : Group) : (mirrorGroup n g).length = 20 := by
  simp [mirrorGroup]

/-- A field behind a form of another length. -/
theorem field_append {off : Nat} {l : List Byte} (h : l.length ≤ off) (r : List Byte) (n : Nat) :
    field (l ++ r) off n = field r (off - l.length) n := by
  rw [field, field, List.drop_append, List.drop_eq_nil_of_le h, List.nil_append]

theorem mirrorGroup_fields (n : Nat) (g : Group) (tail l : List Byte) (hl : l = mirrorGroup n g ++ tail) :
    field l 0 1 = n % 256 ∧ field l 1 1 = (match g.lastWinner with | some k => k.val | none => 255) ∧
      (∀ x : Fin 7, field l (2 * (x.val + 1)) 2 = g.counts.get x % 65536) ∧
      field l 16 2 = g.duplicates % 65536 ∧ field l 18 2 = g.lates % 65536 := by
  have hwinner : refCode g.lastWinner % 256 = (match g.lastWinner with | some k => k.val | none => 255) := by
    cases g.lastWinner with
    | none => rfl
    | some k => exact Nat.mod_eq_of_lt (by have := k.isLt; simp only [refCode]; omega)
  have hcounts := length_flatMap_le 2 g.counts.get
  subst hl
  unfold mirrorGroup
  simp only [List.append_assoc]
  refine ⟨by simp, by simp [field_behind, hwinner], fun x => ?_, ?_, ?_⟩
  · rw [field_behind (by omega), field_behind (by omega), show 2 * (x.val + 1) - 1 - 1 = 2 * x.val by omega]
    exact field_flatMap 2 g.counts.get _ x
  · rw [field_behind (by omega), field_behind (by omega), field_append (by omega), hcounts]
    simp
  · rw [field_behind (by omega), field_behind (by omega), field_append (by omega), hcounts]
    simp [field_behind]

/-! ### The whole mirror record -/

/-- A mirror record with a form of fewer than 60 bytes: the form, reserved bytes, the capture time. -/
theorem mirrorBytes_of_body {m : Nat} {body : List Byte} (hb : s.mirrorBody m = padTo 60 body) (hl : body.length ≤ 60) :
    s.mirrorBytes m = body ++ (zeros (60 - body.length) ++ le 4 (ms32 s.now)) := by
  rw [State.mirrorBytes, hb, padTo_eq hl, List.append_assoc]

theorem mirrorBytes_end (s : State) (m : Nat) : (s.mirrorBytes m).length = 64 ∧
    field (s.mirrorBytes m) 60 4 = s.now / 1000 % 4294967296 := by
  have hbody : (s.mirrorBody m).length = 60 := padTo_length _ _
  refine ⟨by simp [State.mirrorBytes, hbody], ?_⟩
  rw [State.mirrorBytes, field_append (by omega), hbody]
  simp [ms32]

theorem toFin_none {n v : Nat} (h : n ≤ v) : toFin? n v = none := dif_neg (by omega)

theorem mirrorBody_part (s : State) : s.mirrorBody 0 = padTo 60 (mirrorPart s.plan) := rfl

theorem mirrorBody_section (s : State) (k : Fin 24) :
    s.mirrorBody (1 + k.val) = padTo 60 (mirrorSection (s.sec k) (s.brk k)) := by
  have hk : toFin? 24 (1 + k.val - 1) = some k := by simp [toFin?]
  rw [State.mirrorBody, if_neg (by omega), hk]

theorem mirrorBody_chan (s : State) (c : Fin 4) : s.mirrorBody (25 + c.val) = padTo 60 (mirrorChan (s.chan c)) := by
  have hk : toFin? 24 (25 + c.val - 1) = none := toFin_none (by omega)
  have hc : toFin? 4 (25 + c.val - 25) = some c := by simp [toFin?]
  rw [State.mirrorBody, if_neg (by omega), hk, hc]

theorem mirrorBody_group (s : State) (g : Fin 12) :
    s.mirrorBody (29 + g.val) = padTo 60 (mirrorGroup (s.openCount g) (s.grp g)) := by
  have hk : toFin? 24 (29 + g.val - 1) = none := toFin_none (by omega)
  have hc : toFin? 4 (29 + g.val - 25) = none := toFin_none (by omega)
  have hg : toFin? 12 (29 + g.val - 29) = some g := by simp [toFin?]
  rw [State.mirrorBody, if_neg (by omega), hk, hc, hg]

theorem mirrorBody_line (s : State) (k : Fin 6) : s.mirrorBody (41 + k.val) = padTo 60 (mirrorLine (s.line k)) := by
  have hk : toFin? 24 (41 + k.val - 1) = none := toFin_none (by omega)
  have hc : toFin? 4 (41 + k.val - 25) = none := toFin_none (by omega)
  have hg : toFin? 12 (41 + k.val - 29) = none := toFin_none (by omega)
  have hl : toFin? 6 (41 + k.val - 41) = some k := by simp [toFin?]
  rw [State.mirrorBody, if_neg (by omega), hk, hc, hg, hl]

/-! ### Result lines (R112, R127, R140) -/

/-- The digit of a number written in base 4. -/
theorem digit_of_sum {n : Nat} (f : Fin n → Nat) (hf : ∀ k, f k < 4) :
    (∑ k, f k * 4 ^ k.val) < 4 ^ n ∧ ∀ k, (∑ j, f j * 4 ^ j.val) / 4 ^ k.val % 4 = f k := by
  induction n with
  | zero => exact ⟨by simp, fun k => k.elim0⟩
  | succ n ih =>
    obtain ⟨hbound, hdigit⟩ := ih (fun k => f k.succ) fun k => hf k.succ
    have hsum : (∑ k, f k * 4 ^ k.val) = f 0 + 4 * ∑ k : Fin n, f k.succ * 4 ^ k.val := by
      rw [Fin.sum_univ_succ, Finset.mul_sum]
      congr 1
      · simp
      · refine Finset.sum_congr rfl fun k _ => ?_
        rw [Fin.val_succ, Nat.pow_succ]
        ring
    have h0 := hf 0
    rw [hsum]
    refine ⟨by rw [Nat.pow_succ]; omega, fun k => ?_⟩
    refine Fin.cases ?_ (fun k => ?_) k
    · simp only [Fin.val_zero, Nat.pow_zero, Nat.div_one]
      omega
    · rw [Fin.val_succ, Nat.pow_succ', ← Nat.div_div_eq_div_mul,
        show (f 0 + 4 * ∑ k : Fin n, f k.succ * 4 ^ k.val) / 4 = ∑ k : Fin n, f k.succ * 4 ^ k.val by omega]
      exact hdigit k

/-- A section's gate code in a band (R140). -/
theorem GateMap.field48_digit (m : GateMap) (k : Fin 24) : m.field48 % 256 ^ 6 / 4 ^ k.val % 4 = m.codeOf k := by
  have hcode (j : Fin 24) : m.codeOf j < 4 := by
    unfold GateMap.codeOf
    split
    · decide
    · split
      · decide
      · split <;> decide
  obtain ⟨hbound, hdigit⟩ := digit_of_sum m.codeOf hcode
  have hsum : m.field48 = ∑ j, m.codeOf j * 4 ^ j.val := by rw [GateMap.field48, Fin.sum_univ_def]
  rw [hsum, show (256 : Nat) ^ 6 = 4 ^ 24 by decide, Nat.mod_eq_of_lt hbound]
  exact hdigit k

theorem members_length_le (m : SecSet) : (members m).length ≤ 24 := by
  exact (List.length_filter_le _ _).trans_eq (List.length_finRange)

theorem card_eq_filter (m : SecSet) : card m = ((List.finRange 24).filter fun k => has m k).length := rfl

theorem card_expectedSet (s : State) (g : Fin 12) : card (s.expectedSet g) =
    ((List.finRange 24).filter fun k => has (s.grp g).set k &&
      ((s.sec k).state = .unseen || (s.sec k).state = .online || (s.sec k).state = .degraded)).length := by
  rw [card_eq_filter]
  congr 1
  refine List.filter_congr fun k _ => ?_
  rw [State.expectedSet, has_secSet, State.isCandidate]
  congr 1
  cases (s.sec k).state <;> rfl

theorem card_le (m : SecSet) : card m ≤ 24 := members_length_le m

theorem resultCommon_length (ga : Gather) (st : CloseStatus) (n : Nat) : (resultCommon ga st n).length = 8 := by
  simp [resultCommon]

/-- The fields common to both kinds (R112). -/
theorem resultCommon_fields (ga : Gather) (st : CloseStatus) (n : Nat) (hn : n ≤ 24) (tail l : List Byte)
    (hl : l = resultCommon ga st n ++ tail) :
    field l 0 2 = ga.seq % 65536 ∧
      field l 2 1 = st.code ∧
      field l 3 1 = ((List.finRange 24).filter fun k => has ga.contributors k).length ∧
      field l 4 3 = ga.contributors.toNat ∧ field l 7 1 = n := by
  have hcard : card ga.contributors % 256 = ((List.finRange 24).filter fun k => has ga.contributors k).length :=
    Nat.mod_eq_of_lt (by have := card_le ga.contributors; omega)
  have hn' : n % 256 = n := Nat.mod_eq_of_lt (by omega)
  have hmask : ga.contributors.toNat % 16777216 = ga.contributors.toNat := Nat.mod_eq_of_lt ga.contributors.isLt
  subst hl
  unfold resultCommon
  refine ⟨?_, ?_, ?_, ?_, ?_⟩
  · simp [List.append_assoc]
  · cases st <;> simp [List.append_assoc, field_behind, CloseStatus.code, CloseStatus.idx]
  · simp [List.append_assoc, field_behind, hcard]
  · simp [List.append_assoc, field_behind, hmask]
  · simp [List.append_assoc, field_behind, hn']

theorem State.resultLine_select {ga : Gather} {st : CloseStatus} (h : (s.grp ga.group).kind = .select) :
    s.resultLine ga st = resultSelect ga st (card (s.expectedSet ga.group)) := by
  simp only [State.resultLine, h]

theorem State.resultLine_rank {ga : Gather} {st : CloseStatus} (h : (s.grp ga.group).kind = .rank) :
    s.resultLine ga st = resultRank ga st (card (s.expectedSet ga.group)) (Table.ofFn fun b => s.gateMap ga b) := by
  simp only [State.resultLine, h]

/-- The common fields stand at the front of either kind of line. -/
theorem State.resultLine_common (s : State) (ga : Gather) (st : CloseStatus) :
    ∃ tail, s.resultLine ga st = resultCommon ga st (card (s.expectedSet ga.group)) ++ tail ∧ tail.length = 56 := by
  cases hk : (s.grp ga.group).kind with
  | select =>
    rw [State.resultLine_select hk, resultSelect]
    simp only [List.append_assoc]
    exact ⟨_, rfl, by simp [padTo_length]⟩
  | rank =>
    rw [State.resultLine_rank hk, resultRank]
    simp only [List.append_assoc]
    exact ⟨_, rfl, by simp⟩

/-- The fields of a SELECT result line (R127). -/
theorem resultSelect_fields (ga : Gather) (st : CloseStatus) (n : Nat) (l : List Byte) (hl : l = resultSelect ga st n) :
    field l 8 1 = (match ga.vote.best with | some k => k.val | none => 255) ∧ field l 9 1 = ga.vote.eligible % 256 ∧
      field l 10 1 = ga.vote.timeslot % 256 ∧ field l 11 1 = 0 ∧ field l 12 2 = ga.vote.metric % 65536 ∧ field l 14 2 = 0 ∧
      (ga.vote.payload.length = 48 → l.drop 16 = ga.vote.payload) := by
  have hbest : refCode ga.vote.best % 256 = (match ga.vote.best with | some k => k.val | none => 255) := by
    cases ga.vote.best with
    | none => rfl
    | some k => exact Nat.mod_eq_of_lt (by have := k.isLt; simp only [refCode]; omega)
  have hcommon := resultCommon_length ga st n
  subst hl
  refine ⟨?_, ?_, ?_, ?_, ?_, ?_, fun hp => ?_⟩
  case refine_7 =>
    rw [resultSelect, List.drop_left' (by simp [hcommon]), padTo_eq (by omega), hp]
    simp [zeros]
  all_goals
    simp only [resultSelect, List.append_assoc]
    rw [field_append (by omega), hcommon]
    simp [field_behind, zeros_eq_le, hbest]

/-- The gate codes of a RANK result line (R140). -/
theorem resultRank_fields (ga : Gather) (st : CloseStatus) (n : Nat) (maps : Table GateMap 8) (l : List Byte)
    (hl : l = resultRank ga st n maps) : field l 8 8 = 0 ∧
      ∀ (b : Fin 8) (k : Fin 24), field l (16 + 6 * b.val) 6 / 4 ^ k.val % 4 = (maps.get b).codeOf k := by
  have hcommon := resultCommon_length ga st n
  subst hl
  simp only [resultRank, List.append_assoc]
  refine ⟨?_, fun b k => ?_⟩
  · rw [field_append (by omega), hcommon]
    exact field_zeros 8 _
  · have hband := field_flatMap 6 (fun b => (maps.get b).field48) [] b
    rw [List.append_nil] at hband
    rw [field_append (by omega), hcommon, zeros_eq_le, field_behind (by omega),
      show 16 + 6 * b.val - 8 - 8 = 6 * b.val by omega, hband]
    exact GateMap.field48_digit _ k

/-- A mirror record's reserved bytes (R176). -/
theorem mirror_reserved {body l : List Byte} (n : Nat) (tail : List Byte) (hl : l = body ++ (zeros n ++ tail)) :
    (l.drop body.length).take n = List.replicate n 0 := by
  subst hl
  exact drop_take_zeros body tail n

/-- Settles O34: the layouts of the result lines, the mirror records and the log records. -/
theorem writtenLinesHold : Obligations.WrittenLinesHold := by
  refine ⟨fun ga st s l hl => ?_, fun m s l hl hm => ?_, LogRec.bytes_fields, rfl, rfl, rfl, rfl, rfl, rfl⟩
  · obtain ⟨tail, htail, hlen⟩ := s.resultLine_common ga st
    obtain ⟨hseq, hstatus, hcount, hmask, hexpected⟩ := resultCommon_fields ga st _ (card_le _) tail l (hl.trans htail)
    refine ⟨?_, hseq, hstatus.trans (by cases st <;> rfl), hcount, hmask, hexpected.trans (card_expectedSet s ga.group), fun hk => ?_, fun hk => ?_⟩
    · rw [hl, htail, List.length_append, resultCommon_length, hlen]
    · exact resultSelect_fields ga st _ l (hl.trans (State.resultLine_select hk))
    · obtain ⟨hzero, hcodes⟩ := resultRank_fields ga st _ _ l (hl.trans (State.resultLine_rank hk))
      refine ⟨hzero, fun b k => ?_⟩
      rw [hcodes, Table.get_ofFn]
      rfl
  · subst hl
    obtain ⟨hlen, htime⟩ := mirrorBytes_end s m
    refine ⟨hlen, htime, fun hpart => ?_, fun k hk => ?_, fun c hc => ?_, fun g hg => ?_, fun k hk => ?_⟩
    · subst hpart
      have hlayout := mirrorBytes_of_body (mirrorBody_part s) (by rw [mirrorPart_length]; decide)
      obtain ⟨h0, h1, h2, h6, hnone, hcheck, hfetch⟩ := mirrorPart_fields s.plan _ _ hlayout
      have hzero := mirror_reserved _ _ hlayout
      rw [mirrorPart_length] at hzero
      exact ⟨h0, h1, h2, h6, hzero, hnone, hcheck, hfetch⟩
    · subst hk
      have hlayout := mirrorBytes_of_body (mirrorBody_section s k) (by rw [mirrorSection_length]; decide)
      obtain ⟨h0, h1, h2, h4, h5, h6, h7, h8⟩ := mirrorSection_fields _ _ _ _ hlayout
      have hzero := mirror_reserved _ _ hlayout
      rw [mirrorSection_length] at hzero
      exact ⟨h0, h1, h2, h4, h5, h6, h7, h8, hzero⟩
    · subst hc
      have hlayout := mirrorBytes_of_body (mirrorBody_chan s c) (by rw [mirrorChan_length]; decide)
      obtain ⟨h0, h1, h2, h3, h4, h6, h8, h12, h14, h16, h18⟩ := mirrorChan_fields _ _ _ hlayout
      have hzero := mirror_reserved _ _ hlayout
      rw [mirrorChan_length] at hzero
      exact ⟨h0, h1, h2, h3, h4, h6, h8, h12, h14, h16, h18, hzero⟩
    · subst hg
      have hlayout := mirrorBytes_of_body (mirrorBody_group s g) (by rw [mirrorGroup_length]; decide)
      obtain ⟨h0, h1, hcounts, h16, h18⟩ := mirrorGroup_fields _ _ _ _ hlayout
      have hzero := mirror_reserved _ _ hlayout
      rw [mirrorGroup_length] at hzero
      exact ⟨h0, h1, hcounts, h16, h18, hzero⟩
    · subst hk
      have hlayout := mirrorBytes_of_body (mirrorBody_line s k) (by rw [mirrorLine_length]; decide)
      obtain ⟨h0, h1, h2⟩ := mirrorLine_fields _ _ _ hlayout
      have hzero := mirror_reserved _ _ hlayout
      rw [mirrorLine_length] at hzero
      exact ⟨h0, h1, h2, hzero⟩

end Sys2Proof.Machine
end


section
/-! PROOFS. A join of a channel, decided section by section (chapter 05). -/

namespace Sys2Proof.Machine

variable {s t u : State}

/-! ### Mirror records that become dirty -/

/-- No mirror record becomes clean, and a break-in record whose state or channels change makes its section's dirty (R99, R177). -/
structure NotesBrks (s t : State) : Prop where
  inForce : t.inForce = s.inForce
  keeps : ∀ m, s.report.dirty.getLsbD m = true → t.report.dirty.getLsbD m = true
  notes : s.inForce = true → ∀ k : Fin 24, (t.brk k).st ≠ (s.brk k).st ∨ (t.brk k).active ≠ (s.brk k).active ∨
    (t.brk k).suspended ≠ (s.brk k).suspended → t.report.dirty.getLsbD (k.val + 1) = true

theorem NotesBrks.refl (s : State) : NotesBrks s s := ⟨rfl, fun _ h => h, fun _ k h => by simp at h⟩

theorem NotesBrks.trans (h : NotesBrks s t) (g : NotesBrks t u) : NotesBrks s u where
  inForce := g.inForce.trans h.inForce
  keeps m hm := g.keeps m (h.keeps m hm)
  notes hf k hk := by
    by_cases hmid : (t.brk k).st ≠ (s.brk k).st ∨ (t.brk k).active ≠ (s.brk k).active ∨
        (t.brk k).suspended ≠ (s.brk k).suspended
    · exact g.keeps _ (h.notes hf k hmid)
    · simp only [ne_eq, not_or, not_not] at hmid
      obtain ⟨h1, h2, h3⟩ := hmid
      exact g.notes (h.inForce.trans hf) k (by rwa [h1, h2, h3])

theorem NotesBrks.putBrk (s : State) (k : Fin 24) (b : BreakRec) : NotesBrks s (s.putBrk k b) where
  inForce := rfl
  keeps m hm := by
    simp only [State.putBrk, State.markIf, State.setBrk_report]
    split
    · simp [hm]
    · exact hm
  notes hf j hj := by
    by_cases hk : k = j
    · subst hk
      rw [State.putBrk_brk] at hj
      have hchanged : ((s.brk k).st != b.st || (s.brk k).active != b.active || (s.brk k).suspended != b.suspended) = true := by
        rcases hj with h | h | h <;> simp [Ne.symm h]
      simp only [State.putBrk, State.markIf, State.inForce_setBrk, hchanged, hf, Bool.and_self, if_true, mirrorOfSec,
        BitVec.getLsbD_or, BitVec.getLsbD_twoPow]
      have := k.isLt
      simp
      omega
    · rw [State.putBrk_brk_ne s b hk] at hj
      simp at hj

theorem Report.choose_dirty (r : Report) : r.choose.dirty = r.dirty := by
  obtain ⟨q, hq⟩ := r.choose_eq
  rw [hq]

theorem State.log_dirty (s : State) (kind : LogKind) (n : Nat) (d1 d2 : Word) :
    (s.log kind n d1 d2).report.dirty = s.report.dirty := by
  unfold State.log Report.enqueue
  dsimp only
  split
  · rw [Report.choose_dirty]; split <;> rfl
  · rfl

theorem NotesBrks.log (s : State) (kind : LogKind) (n : Nat) (d1 d2 : Word) : NotesBrks s (s.log kind n d1 d2) where
  inForce := rfl
  keeps m hm := by rw [State.log_dirty]; exact hm
  notes _ k hk := by simp at hk

theorem NotesBrks.dropSuspended (s : State) (k : Fin 24) (e : Option (Fin 4)) (c : Fin 4) (p : Nat) :
    NotesBrks s (s.dropSuspended k e c p) := by
  cases e with
  | none => exact NotesBrks.refl s
  | some d => exact NotesBrks.log s _ _ _ _

theorem NotesBrks.joinSection (s : State) (c : Fin 4) (p : Nat) (k : Fin 24) : NotesBrks s (joinSection c p s k) := by
  unfold Machine.joinSection
  dsimp only
  split
  · exact NotesBrks.refl s
  · split
    · exact NotesBrks.putBrk s k _
    · split
      · exact (NotesBrks.putBrk s k _).trans (NotesBrks.dropSuspended _ _ _ _ _)
      · split
        · exact (NotesBrks.putBrk s k _).trans (NotesBrks.dropSuspended _ _ _ _ _)
        · exact NotesBrks.log s _ _ _ _

theorem NotesBrks.join (s : State) (c : Fin 4) (mask : SecSet) (p : Nat) : NotesBrks s (s.join c mask p) := by
  have hfold : ∀ (l : List (Fin 24)) (s : State), NotesBrks s (l.foldl (Machine.joinSection c p) s) := by
    intro l
    induction l with
    | nil => exact NotesBrks.refl
    | cons k l ih => exact fun s => (NotesBrks.joinSection s c p k).trans (ih _)
  obtain ⟨hin, hkeeps, hnotes⟩ := hfold (members mask) s
  exact ⟨hin, hkeeps, hnotes⟩

/-! ### The join by cases of a section's record (R84, R85) -/

variable {c a e : Fin 4} {p : Nat} {b : BreakRec} {k : Fin 24}

theorem State.mayWait_iff : s.mayWait b p = true ↔ ∀ e, b.suspended = some e → (s.chan e).prio < p := by
  unfold State.mayWait
  cases b.suspended <;> simp

theorem State.joinRec_free (h : b.active = none) : s.joinRec b c p = { b with active := some c, st := .settling } := by
  simp [State.joinRec, h]

theorem State.joinRec_higher (h : b.active = some a) (hp : (s.chan a).prio < p) :
    s.joinRec b c p = { b with active := some c, suspended := some a, st := .settling } := by
  simp [State.joinRec, h, hp]

theorem State.joinRec_lower (h : b.active = some a) (hp : p < (s.chan a).prio)
    (hw : ∀ e, b.suspended = some e → (s.chan e).prio < p) : s.joinRec b c p = { b with suspended := some c } := by
  simp [State.joinRec, h, hp, Nat.not_lt.mpr hp.le, State.mayWait_iff.mpr hw]

/-- A join that a section refuses (R84, R85): an equal priority, or a lower one whose slot is held. -/
abbrev State.joinRefused (s : State) (b : BreakRec) (a : Fin 4) (p : Nat) : Prop :=
  p = (s.chan a).prio ∨ (p < (s.chan a).prio ∧ ∃ e, b.suspended = some e ∧ p ≤ (s.chan e).prio)

theorem State.joinRefused_iff : s.joinRefused b a p ↔
    ¬((s.chan a).prio < p ∨ (p < (s.chan a).prio ∧ s.mayWait b p = true)) := by
  have hwait : (∃ e, b.suspended = some e ∧ p ≤ (s.chan e).prio) ↔ ¬s.mayWait b p = true := by
    simp [State.mayWait_iff]
  unfold State.joinRefused
  rw [hwait]
  rcases Nat.lt_trichotomy (s.chan a).prio p with h | h | h
  · simp [h, h.ne', Nat.not_lt.mpr h.le]
  · simp [h]
  · simp [h, h.ne, Nat.not_lt.mpr h.le]

theorem State.joinRec_refused (h : b.active = some a) (hr : s.joinRefused b a p) : s.joinRec b c p = b := by
  obtain ⟨h1, h2⟩ := not_or.mp (State.joinRefused_iff.mp hr)
  simp only [State.joinRec, h, if_neg h1, if_neg h2]

theorem State.joinLog_taken (h : b.active = some a)
    (ht : (s.chan a).prio < p ∨ (p < (s.chan a).prio ∧ ∀ e, b.suspended = some e → (s.chan e).prio < p)) :
    s.joinLog b c p k =
      b.suspended.toList.map fun e => s.record .sectionDropped k.val (w4 e.val (s.chan e).prio c.val p) 0 := by
  rw [← State.mayWait_iff] at ht
  simp only [State.joinLog, h, if_pos ht]

theorem State.joinLog_refused (h : b.active = some a) (hr : s.joinRefused b a p) :
    s.joinLog b c p k = [s.record .sectionRefused k.val (w4 c.val p a.val (s.chan a).prio)
      (match b.suspended with | some e => w4 e.val (s.chan e).prio 0 0 | none => w4 255 0 0 0)] := by
  simp only [State.joinLog, h, if_neg (State.joinRefused_iff.mp hr)]
  cases b.suspended <;> rfl

/-- Gain and restore step are not a join's (R84). -/
theorem State.joinRec_moved (h : s.joinRec b c p ≠ b) :
    (s.joinRec b c p).st ≠ b.st ∨ (s.joinRec b c p).active ≠ b.active ∨ (s.joinRec b c p).suspended ≠ b.suspended := by
  by_contra hsame
  simp only [ne_eq, not_or, not_not] at hsame
  obtain ⟨h1, h2, h3⟩ := hsame
  have hgain : (s.joinRec b c p).gain = b.gain ∧ (s.joinRec b c p).restore = b.restore := by
    unfold State.joinRec
    split
    · exact ⟨rfl, rfl⟩
    · split
      · exact ⟨rfl, rfl⟩
      · split <;> exact ⟨rfl, rfl⟩
  refine h ?_
  revert h1 h2 h3 hgain
  generalize s.joinRec b c p = r
  cases r
  cases b
  simp only [BreakRec.mk.injEq]
  tauto

/-- Settles O38: the join's specification, read section by section. -/
theorem joinTakesSections : Obligations.JoinTakesSections := by
  intro c mask prio s t ht
  obtain ⟨-, -, -, -, harmed, harmeds, hbrk, hlog⟩ := s.join_spec c mask prio t ht
  have hin (k : Fin 24) (hm : has mask k = true) (hd : (s.sec k).state ≠ .disabled) :
      t.brk k = s.joinRec (s.brk k) c prio := by
    rw [hbrk k, if_pos (by simp [hm, hd])]
  refine ⟨fun k hk => ?_, fun k hm hd => ⟨fun ha => ?_, fun a ha hp => ?_, fun a ha hp hw => ?_, fun a ha hr => ?_,
    fun hf hne => ?_⟩, harmed, harmeds, ⟨_, hlog, fun k hk => ?_, fun k a hm hd ha => ⟨fun htake => ?_, fun hr => ?_⟩⟩, ?_⟩
  · rw [hbrk k, if_neg (by rcases hk with h | h <;> simp [h])]
  · rw [hin k hm hd, State.joinRec_free ha]
  · rw [hin k hm hd, State.joinRec_higher ha hp]
  · rw [hin k hm hd, State.joinRec_lower ha hp hw]
  · rw [hin k hm hd, State.joinRec_refused ha hr]
  · rw [hin k hm hd] at hne
    have hmoved := State.joinRec_moved hne
    rw [← hin k hm hd, ht] at hmoved
    rw [ht]
    exact .inl ((NotesBrks.join s c mask prio).notes hf k hmoved)
  · rcases hk with h | h | h
    · simp [h]
    · simp [h]
    · simp [State.joinLog, h]
  · rw [if_pos (by simp [hm, hd]), State.joinLog_taken ha htake]
    exact ⟨fun he => by rw [he]; rfl, fun e he => by rw [he]; rfl⟩
  · rw [if_pos (by simp [hm, hd])]
    exact State.joinLog_refused ha hr
  · rw [ht]
    exact State.join_frame s c mask prio

end Sys2Proof.Machine
end


section
/-! PROOFS. The part's own writes as they complete: header fields, mirror records, log records, header bursts, change results
(chapters 10 and 11). -/

namespace Sys2Proof.Machine

variable {s t u : State}

/-! ### A write of the part at memory -/

/-- What a completed write of the part stores, in any state that keeps memory as its completion left it. -/
theorem State.complete_storedFrom {err : Bool} {a : Nat} {l : List Byte} (hwf : Memory.wf s.mem = true)
    (hcells : s.portCells = cellsFrom a l) (hm : t.mem = (s.complete err).mem) : Stored err (cellsFrom a l) s t.settle := by
  have hstored := s.complete_stored err hwf (by rw [hcells]; exact cellsFrom_nodup _ _)
  rw [hcells] at hstored
  exact hstored.mem_eq (by rw [State.settle_mem, hm])

theorem State.errorEnd_mem (v : State) (src : ErrSource) (n : Nat) (d : Word) (err : Bool) :
    (if err then v.burstError src n d else v).mem = v.mem := by
  split <;> rfl

theorem State.memErrorEnd_memErrors (s : State) (err : Bool) :
    (if err then (s.complete err).memError else s.complete err).plan.memErrors = s.errorsAfter err := by
  cases err <;> rfl

theorem State.memError_mirrorDue (h : s.inForce = true) (hm : s.plan.memErrors < 65535) : s.memError.mirrorDue 0 := by
  refine .inl ?_
  simp [State.memError, h, hm]

theorem Report.choose_header (r : Report) : r.choose.header = r.header := by
  obtain ⟨q, hq⟩ := r.choose_eq
  rw [hq]

/-- Settles O46, write by write. -/
theorem partWritesComplete : Obligations.PartWritesComplete := by
  intro err s hreset hwf
  refine ⟨fun a l hport => ?_, fun a v hfield => ?_, fun p l hport => ?_, fun w hport => ?_⟩
  · have hexec : exec (.mirrorWriteComplete err) s = .next (s.mirrorWritten err).settle :=
      exec_effect rfl rfl hreset (by simp [State.effect, State.mirrorOnPort, hport])
    refine ⟨_, hexec, State.complete_storedFrom hwf (by simp [State.portCells, hport]) ?_, ?_, fun herr hf hm => ?_,
      (s.mirrorWritten_frame err).settled⟩
    · unfold State.mirrorWritten; split <;> rfl
    · rw [State.settle_memErrors]
      exact s.memErrorEnd_memErrors err
    · subst herr
      exact State.settle_mirrorDue _ 0 (State.memError_mirrorDue (s := s.complete true) hf hm)
  · have hon : s.fieldOnPort = some a ∧ s.portCells = cellsFrom a (le 4 v) := by
      rcases hfield with ⟨ps, hport, rfl, rfl⟩ | ⟨hport, rfl⟩ <;> simp [State.fieldOnPort, State.portCells, hport]
    obtain ⟨hon, hcells⟩ := hon
    have hexec : exec (.headerFieldWriteComplete err) s = .next (s.fieldWritten err).settle :=
      exec_effect rfl rfl hreset (by simp [State.effect, hon])
    have hwritten : s.fieldWritten err = if err then (s.complete err).burstError .plan a 0 else s.complete err := by
      rw [State.fieldWritten, hon]
    obtain ⟨hlog, herrors⟩ := State.errorEnd s (s.complete err) .plan a 0 err (s.complete_frame err) rfl
    rw [← hwritten] at hlog herrors
    refine ⟨_, hexec, State.complete_storedFrom hwf hcells ?_, ?_, ?_, (s.fieldWritten_frame err).settled⟩
    · rw [hwritten, State.errorEnd_mem]
    · rw [State.settle_memErrors, herrors]
    · rw [State.settle_logNow, hlog]
  · have hon : s.headerOnPort = some (p, l) := by simp [State.headerOnPort, hport]
    have hexec : exec (.headerBurstComplete err) s = .next (s.headerWritten err).settle :=
      exec_effect rfl rfl hreset (by simp [State.effect, hon])
    have hwritten : s.headerWritten err = if err then
        { (s.complete err).memError with report := (s.complete err).memError.report.headerFailed }
        else { s.complete err with report := (s.complete err).report.headerWrote p l } := by
      rw [State.headerWritten, hon]
    refine ⟨_, hexec, State.complete_storedFrom hwf (by simp [State.portCells, hport]) ?_, ?_, ?_,
      (s.headerWritten_frame err).settled⟩
    · rw [hwritten]; split <;> rfl
    · rw [State.settle_memErrors, hwritten]; cases err <;> rfl
    · rw [State.settle_header, hwritten]
      cases err with
      | true =>
        have hfirst : Frame [.memory, .memErrors] s (s.complete true).memError :=
          ((s.complete_frame true).wide rfl).trans ((State.memError_frame _).wide rfl)
        exact (Report.choose_header _).trans (hfirst.same .logHeader rfl)
      | false => exact Report.choose_header _
  · have hexec : exec (.writeBackComplete err) s = .next (s.changeEnded err).settle :=
      exec_effect rfl rfl hreset (by simp [State.effect, State.writeBackOnPort, hport])
    obtain ⟨hlog, herrors⟩ := State.errorEnd s (s.complete err) .plan s.anchorAddr 0 err (s.complete_frame err) rfl
    refine ⟨_, hexec, State.complete_storedFrom hwf (by simp [State.portCells, hport]) ?_, ?_, ?_, ?_,
      (s.changeEnded_frame err).settled⟩
    · exact State.errorEnd_mem (s.complete err) .plan s.anchorAddr 0 err
    · rw [State.settle_plan_change]; rfl
    · rw [State.settle_memErrors]; exact herrors
    · rw [State.settle_logNow]; exact hlog

/-! ### Log records -/

theorem tagAt_setTag_same (ts : List (Nat × AttnClass)) (x : Nat) (c : AttnClass) : tagAt (setTag ts x c) x = some c := by
  induction ts with
  | nil => simp [setTag, tagAt]
  | cons y ts ih =>
    obtain ⟨j, d⟩ := y
    simp only [setTag]
    split
    · simp [tagAt]
    · split
      · simp [tagAt]
      · rename_i hne
        simp [tagAt, Ne.symm hne, ih]

theorem tagAt_setTag_other (ts : List (Nat × AttnClass)) {x j : Nat} (c : AttnClass) (h : j ≠ x) :
    tagAt (setTag ts x c) j = tagAt ts j := by
  induction ts with
  | nil => simp [setTag, tagAt, Ne.symm h]
  | cons y ts ih =>
    obtain ⟨i, d⟩ := y
    simp only [setTag]
    split
    · simp [tagAt, Ne.symm h]
    · split
      · rename_i heq
        subst heq
        simp [tagAt, Ne.symm h]
      · simp [tagAt, ih]

/-- Settles O47: the record's write, stored or lost. -/
theorem logRecordWritten : Obligations.LogRecordWritten := by
  intro err e rest s hreset hport hqueue hwf
  have hexec : exec (.logRecordWriteComplete err) s = .next (s.recordWritten err).settle :=
    exec_effect rfl rfl hreset (by simp [State.effect, State.recordOnPort, hport, hqueue])
  have hcells : s.portCells = cellsFrom (s.report.logBase + 16 * s.report.producer) e.bytes := by
    simp [State.portCells, hport, hqueue, Report.slotAddr]
  have hwritten : s.recordWritten err = if err then
      { (s.complete err).memError with report := (s.complete err).memError.report.lostHead }
      else { s.complete err with report := (s.complete err).report.wrote e } := by
    simp only [State.recordWritten, hqueue]
  have hframe := (s.recordWritten_frame err).settled
  refine ⟨_, hexec, State.complete_storedFrom hwf hcells (by rw [hwritten]; split <;> rfl), ?_⟩
  cases err with
  | false =>
    obtain ⟨q, hq⟩ := Report.choose_eq (Report.evalAttn { s.report with
      queue := s.report.queue.tail
      tags := setTag s.report.tags s.report.producer e.kind.cls
      unconsumed := s.report.unconsumed.set e.kind.cls.bit (s.report.unconsumed.get e.kind.cls.bit + 1)
      producer := (s.report.producer + 1) % s.report.logLen
      req := .idle })
    have hreport : (s.recordWritten false).report = _ :=
      (congrArg State.report hwritten).trans (show (s.report.wrote e) = _ from hq)
    refine ⟨?_, ?_, ?_, fun _ => ⟨?_, ?_, ?_, fun j hj _ => ?_, ?_, fun c hc => ?_, ?_⟩, nofun, hframe⟩
    · rw [State.settle_logQueue, hreport, ← List.tail_cons (a := e) (as := rest), ← hqueue]
      rfl
    · rw [State.settle_consumer, hreport]; rfl
    · rw [State.settle_memErrors, hwritten]; rfl
    · rw [State.settle_producer, hreport]; rfl
    · rw [State.settle_lost, hreport]; rfl
    · rw [State.settle_tags, hreport]; exact tagAt_setTag_same _ _ _
    · rw [State.settle_tags, hreport]; exact tagAt_setTag_other _ _ hj
    · rw [State.settle_unconsumed, hreport]; simp [Report.evalAttn]
    · rw [State.settle_unconsumed, hreport]; simp [Report.evalAttn, Ne.symm hc]
    · rw [State.settle_attn, State.settle_unconsumed, hreport]; exact attnOf_iff _ _
  | true =>
    obtain ⟨q, hq⟩ := Report.choose_eq { (s.complete true).memError.report with
      queue := (s.complete true).memError.report.queue.tail
      lost := bump (s.complete true).memError.report.lost
      req := .idle }
    have hreport : (s.recordWritten true).report = _ := (congrArg State.report hwritten).trans hq
    have hfirst : Frame [.memory, .memErrors] s (s.complete true).memError :=
      ((s.complete_frame true).wide rfl).trans ((State.memError_frame _).wide rfl)
    refine ⟨?_, ?_, ?_, nofun, fun _ => ⟨?_, ?_, ?_, ?_, ?_⟩, hframe⟩
    · rw [State.settle_logQueue, hreport]
      exact (congrArg List.tail (hfirst.same .logQueue rfl)).trans (by rw [hqueue]; rfl)
    · rw [State.settle_consumer, hreport]; exact (hfirst.same .logIndices rfl).2
    · rw [State.settle_memErrors, hwritten]; rfl
    · rw [State.settle_producer, hreport]; exact (hfirst.same .logIndices rfl).1
    · rw [State.settle_lost, hreport]; exact congrArg bump (hfirst.same .lostCount rfl)
    · rw [State.settle_tags, hreport]; exact hfirst.same .classTags rfl
    · rw [State.settle_unconsumed, hreport]; exact hfirst.same .classCounts rfl
    · rw [State.settle_attn, hreport]; exact hfirst.same .attn rfl

end Sys2Proof.Machine
end


section
/-! PROOFS. A section that leaves the expected sets (chapters 01 and 06): its loss, and UPDATE SECTION; the reads of an UPDATE's entry. -/

namespace Sys2Proof.Machine

variable {s t u v : State} {ga : Gather} {k : Fin 24}

/-! ### Closes and what they leave -/

theorem State.mark_dirty (s : State) (m n : Nat) (h : s.report.dirty.getLsbD n = true) :
    (s.mark m).report.dirty.getLsbD n = true := by
  unfold State.mark
  dsimp only
  split
  · simp [h]
  · exact h

theorem State.closeGather_dirty (s : State) (ga : Gather) (st : CloseStatus) (n : Nat)
    (h : s.report.dirty.getLsbD n = true) : (s.closeGather ga st).report.dirty.getLsbD n = true := by
  have hquiet : (s.closedQuiet ga st).report.dirty.getLsbD n = true :=
    State.mark_dirty (s.setGrp ga.group (s.groupAfterClose ga st)) _ n h
  rw [State.closeGather_eq]
  split
  · rw [State.logAbnormal, State.log_dirty]; exact hquiet
  · exact hquiet

theorem State.closeGather_kind (s : State) (ga : Gather) (st : CloseStatus) (g : Fin 12) :
    ((s.closeGather ga st).grp g).kind = (s.grp g).kind := by
  obtain ⟨-, -, hgrp, hother, -⟩ := s.closeGather_closed ga st
  by_cases hg : g = ga.group
  · subst hg; rw [hgrp]
  · rw [hother g hg]

theorem closeFold_opens (st : CloseStatus) (l : List Gather) (s : State) :
    (l.foldl (fun x ga => x.closeGather ga st) s).gather.opens =
      s.gather.opens.filter fun x => decide (x.key ∉ l.map Gather.key) := by
  induction l generalizing s with
  | nil => simp
  | cons ga l ih =>
    rw [List.foldl_cons, ih, (s.closeGather_closed ga st).1, List.filter_filter]
    refine List.filter_congr fun x _ => ?_
    simp [Gather.key, Bool.or_comm, Bool.and_comm]

/-- Under distinct keys, closing what `f` picks out leaves the rest OPEN (R102, R108). -/
theorem mem_closeFold_opens {st : CloseStatus} {f : Gather → Bool} {l : List Gather} (hkeys : s.openKeys.Nodup)
    (hl : l.Perm (s.gather.opens.filter f)) (x : Gather) :
    x ∈ (l.foldl (fun x ga => x.closeGather ga st) s).gather.opens ↔ x ∈ s.gather.opens ∧ f x = false := by
  rw [closeFold_opens, List.mem_filter]
  refine and_congr_right fun hx => ?_
  have hkey : x.key ∈ l.map Gather.key ↔ f x = true := by
    rw [List.mem_map]
    constructor
    · rintro ⟨y, hy, hxy⟩
      obtain ⟨hy, hfy⟩ := List.mem_filter.mp (hl.mem_iff.mp hy)
      rwa [← List.inj_on_of_nodup_map hkeys hy hx hxy]
    · exact fun hf => ⟨x, hl.mem_iff.mpr (List.mem_filter.mpr ⟨hx, hf⟩), rfl⟩
  simp [hkey]

theorem checkComplete_frame_quiet (s : State) (k : Fin 24) (ga : Gather) :
    Frame [.groups, .opens, .results] s (checkComplete k s ga) := by
  unfold checkComplete
  exact Frame.ite (s.closeGather_quiet_frame ga .complete rfl) (Frame.refl _ _)

/-! ### Section `k` leaves the expected sets (R10, R11) -/

/-- A section's completions log nothing (R110). -/
theorem State.leaveExpected_quiet (s : State) (k : Fin 24) : Frame [.groups, .opens, .results] s (s.leaveExpected k) :=
  Frame.foldl _ (fun v ga => checkComplete_frame_quiet v k ga) _ _

theorem State.leaveExpected_fold (s : State) (k : Fin 24) : s.leaveExpected k =
    ((sortKeys s.gather.opens).filter fun ga => has (s.grp ga.group).set k && s.covered ga).foldl
      (fun x ga => x.closeGather ga .complete) s := by
  rw [State.leaveExpected, checkFold s k _ s rfl fun _ => rfl]

theorem closeFold_kind (st : CloseStatus) (l : List Gather) (s : State) (g : Fin 12) :
    ((l.foldl (fun x ga => x.closeGather ga st) s).grp g).kind = (s.grp g).kind := by
  induction l generalizing s with
  | nil => rfl
  | cons ga l ih => exact (ih _).trans (s.closeGather_kind ga st g)

theorem closeFold_dirty (st : CloseStatus) (l : List Gather) (s : State) (n : Nat) (h : s.report.dirty.getLsbD n = true) :
    (l.foldl (fun x ga => x.closeGather ga st) s).report.dirty.getLsbD n = true := by
  induction l generalizing s with
  | nil => exact h
  | cons ga l ih => exact ih _ (s.closeGather_dirty ga st n h)

theorem State.clearGates_grp (s : State) (k : Fin 24) (g : Fin 12) : (s.clearGates k).grp g =
    if (s.grp g).kind = .rank then (s.grp g).clearGate k else s.grp g := by
  unfold State.clearGates State.grp
  rw [Table.get_ofFn]

theorem has_without (m : SecSet) (k : Fin 24) : has (m &&& ~~~(single k)) k = false := by
  simp [has, single]

/-- The section's gates once it has left (R11). -/
theorem State.departed_gates (s : State) (k : Fin 24) (g : Fin 12) (b : Fin 8) (h : (s.grp g).kind = .rank) :
    has ((((s.leaveExpected k).clearGates k).grp g).gates.get b).isOpen k = false ∧
      ((((s.leaveExpected k).clearGates k).grp g).gates.get b).hold.get k = 0 := by
  have hkind : ((s.leaveExpected k).grp g).kind = .rank := by
    rw [State.leaveExpected_fold, closeFold_kind, h]
  rw [State.clearGates_grp, if_pos hkind]
  simp [Group.clearGate, GateBand.without, has_without]

/-- A section that has left: the completions without it, and its gates cleared behind them (R10, R11). -/
theorem State.completedWithout_departed (hframe : Frame [.sections, .change, .logQueue, .lostCount] s u)
    (hsec : ∀ j, j ≠ k → u.sec j = s.sec j) (hgone : (u.sec k).state.eligible = false) (hts : t.sections = u.sections)
    (htg : Frame (.sections :: .change :: .breakIns :: errorParts) ((u.leaveExpected k).clearGates k) t) :
    s.completedWithout t k := by
  refine ⟨u, u.leaveExpected k, hframe, hts.symm, ?_, ?_, ?_, fun g => ?_⟩
  · refine u.leaveExpected_closesAll k _ fun ga => (State.covered_without k ga hsec hgone ?_).symm
    rw [State.grp, hframe.same .groups rfl, State.grp]
  · exact Eq.trans (htg.same .opens rfl) rfl
  · exact Eq.trans (htg.same .results rfl) rfl
  · rw [State.grp, htg.same .groups rfl, ← State.grp, State.clearGates_grp]
    rfl

/-- Which gathers are covered without section `k`, in words of the sets (R10). -/
theorem State.leftCovered_iff (s : State) (k : Fin 24) (ga : Gather) : s.leftCovered k ga = true ↔
    has (s.grp ga.group).set k = true ∧ ∀ j, j ≠ k → has (s.grp ga.group).set j = true →
      (s.sec j).state.eligible = true → has ga.contributors j = true := by
  simp only [State.leftCovered, Bool.and_eq_true, List.all_eq_true, List.mem_finRange, true_implies, Bool.or_eq_true,
    decide_eq_true_eq, Bool.not_eq_true']
  refine and_congr_right fun _ => forall_congr' fun j => ?_
  cases has (s.grp ga.group).set j <;> cases (s.sec j).state.eligible <;> by_cases h : j = k <;> simp [h]

/-! ### Loss (R9) -/

/-- The state in which a lost section's completions are computed. -/
def State.lost (s : State) (k : Fin 24) : State := s.moveSec k { s.sec k with deadline := none } .lost .expiry

theorem State.loseSec_eq (s : State) (k : Fin 24) : s.loseSec k = ((s.lost k).leaveExpected k).clearGates k := rfl

theorem State.lost_frame (s : State) (k : Fin 24) : Frame [.sections, .logQueue, .lostCount] s (s.lost k) :=
  State.moveSec_frame _ _ _ _ _

theorem State.lost_sec (s : State) (k : Fin 24) : ((s.lost k).sec k).state.eligible = false := by
  rw [State.lost, State.moveSec_sec]
  rfl

theorem State.departed_quiet (s : State) (k : Fin 24) :
    Frame [.groups, .opens, .results] s ((s.leaveExpected k).clearGates k) :=
  (s.leaveExpected_quiet k).trans ((State.clearGates_frame _ k).wide rfl)

theorem State.loseSec_logNow (s : State) (k : Fin 24) : (s.loseSec k).logNow =
    s.logged [s.record .sectionState k.val (w4 (s.sec k).state.code 3 1 0)
      (w2 (min ((s.sec k).transitions + 1) 65535) 0)] := by
  rw [State.loseSec_eq, ((s.lost k).departed_quiet k).logNow rfl rfl, State.lost, State.moveSec_logNow]
  rfl

theorem State.moveSec_dirty (s : State) (k : Fin 24) (r : SectionRec) (n : SectionState) (c : SecCause)
    (hf : s.inForce = true) (hne : (s.sec k).state ≠ n) : (s.moveSec k r n c).report.dirty.getLsbD (k.val + 1) = true := by
  have := k.isLt
  simp only [State.moveSec, State.log_dirty, State.putSec, State.markIf, State.inForce_setSec, hf, Bool.and_true,
    bne_iff_ne.mpr hne, Bool.true_or, if_true, mirrorOfSec, BitVec.getLsbD_or, BitVec.getLsbD_twoPow]
  simp
  omega

/-- Settles O41: the loss, its completions, its gates. -/
theorem lossTimerExpiry : Obligations.LossTimerExpiry := by
  intro k d s hreset hdead hnow hpool
  have hexec : exec (.lossTimerExpiry k) s = .next (s.loseSec k).settle :=
    exec_effect rfl rfl hreset (by simp [State.effect, State.lossDue, reached, hdead, hnow])
  have hkeys := (poolInv_iff.mp hpool).keys
  have hgrp : (s.lost k).gather = s.gather := by simp [State.lost, State.moveSec, State.putSec]
  have hgroups (g : Fin 12) : (s.lost k).grp g = s.grp g := by rw [State.grp, hgrp, State.grp]
  have hother (j : Fin 24) (hj : j ≠ k) : (s.lost k).sec j = s.sec j := State.moveSec_sec_ne _ _ _ _ (Ne.symm hj)
  refine ⟨_, hexec, ?_, fun j hj => ?_, ?_, fun ga => ?_, ?_, fun g b hkind => ?_, fun hf hne => ?_,
    (s.loseSec_frame k).settled⟩
  · rw [State.settle_sec, State.loseSec_sec, if_pos rfl]; rfl
  · rw [State.settle_sec, State.loseSec_sec, if_neg (Ne.symm hj)]
  · rw [State.settle_logNow, State.loseSec_logNow]
  · have hpick : ∀ x, (has ((s.lost k).grp x.group).set k && (s.lost k).covered x) = s.leftCovered k x := fun x =>
      State.covered_without k x hother (s.lost_sec k) (by rw [hgroups])
    have hopens : (s.loseSec k).gather.opens = ((s.lost k).leaveExpected k).gather.opens := rfl
    rw [State.settle_opens, hopens, State.leaveExpected_fold, mem_closeFold_opens (by rw [State.openKeys, hgrp]; exact hkeys)
      ((sortKeys_perm _).filter _), hpick, hgrp, ← State.leftCovered_iff, Bool.not_eq_true]
  · refine State.completedWithout_departed (u := s.lost k) ((s.lost_frame k).wide rfl) hother (s.lost_sec k) ?_
      ((Frame.refl [] _).settled.wide rfl)
    rw [State.settle_sections]
    exact ((s.lost k).departed_quiet k).same .sections rfl
  · rw [State.settle_grp]
    exact State.departed_gates (s.lost k) k g b (by rw [hgroups]; exact hkind)
  · refine State.settle_mirrorDue _ _ (.inl ?_)
    have hdirty := State.moveSec_dirty s k { s.sec k with deadline := none } .lost .expiry hf hne
    change ((s.lost k).leaveExpected k).report.dirty.getLsbD (k.val + 1) = true
    rw [State.leaveExpected_fold]
    exact closeFold_dirty _ _ _ _ hdirty

/-! ### The reads of an UPDATE's entry (R173) -/

/-- The commands that read an UPDATE's entry, each with its table. -/
def entryReads : List ((Bool → Instr) × Fin 7) :=
  [(Instr.updateSection, 3), (Instr.updateGroup, 4), (Instr.updateChannel, 5), (Instr.updateLine, 6)]

theorem exec_entryRead {cmd : Bool → Instr} {x : Fin 7} (h : (cmd, x) ∈ entryReads) (err : Bool) (hreset : s.inReset = false)
    (hu : s.updating x = true) : exec (cmd err) s = .next (s.entryLineRead x err).settle := by
  simp only [entryReads, List.mem_cons, Prod.mk.injEq, List.not_mem_nil, or_false] at h
  obtain ⟨rfl, rfl⟩ | ⟨rfl, rfl⟩ | ⟨rfl, rfl⟩ | ⟨rfl, rfl⟩ := h
  · exact exec_effect rfl rfl hreset hu
  · exact exec_effect rfl rfl hreset hu
  · exact exec_effect rfl rfl hreset hu
  · exact exec_effect rfl rfl hreset hu

variable {x : Fin 7} {i off : Nat} {todo : List Nat} {got : List Byte} {b : List Byte}

theorem State.readsEntry_updating (h : s.readsEntry x i off todo got) : s.updating x = true := by
  obtain ⟨-, hport, c, hc, hkind, htable, -, hstage⟩ := h
  simp [State.updating, hport, hc, hkind, htable, hstage, Stage.code]

theorem State.readsEntry_line (h : s.readsEntry x i off todo got) :
    s.entryLineOff = off ∧ s.entryProgress = (todo, got) ∧ s.theChange.indexByte = i ∧ s.portCells = [] ∧
      s.plan.change.isSome = true := by
  obtain ⟨-, hport, c, hc, -, -, hidx, hstage⟩ := h
  simp [State.entryLineOff, State.entryProgress, State.stage, State.theChange, State.portCells, hport, hc, hidx, hstage]

theorem toFin_self {n : Nat} (k : Fin n) : toFin? n k.val = some k := dif_pos k.isLt

/-- The entry, whole, at its owner. -/
theorem State.entryComes_hands (h : s.entryComes x i b) : s.inReset = false ∧ s.updating x = true ∧ s.portCells = [] ∧
    s.plan.change.isSome = true ∧ s.entryLineRead x false = (s.complete false).handEntry x i b := by
  obtain ⟨off, got, hreads, rfl⟩ := h
  obtain ⟨hoff, hprog, hidx, hcells, hchange⟩ := State.readsEntry_line hreads
  refine ⟨hreads.1, State.readsEntry_updating hreads, hcells, hchange, ?_⟩
  unfold State.entryLineRead
  rw [hoff, hprog, hidx]
  rfl

theorem State.finish_answered (s : State) (r : ResultCode) (h : s.plan.change.isSome = true) : (s.finish r).answered r 0 0 :=
  s.finishWith_answered r 0 0 h

/-- A failed read of the PLAN requester ends its change (R163, R173). -/
theorem State.fetchFailed_spec {l : List Part} (h : Frame l s v) (hl : (Part.within [.logQueue] l || Part.within [.lostCount] l ||
      Part.within [.partState] l || Part.within [.logIndices] l || Part.within [.reportBases] l || Part.within [.memErrors] l ||
      Part.within [.timebase] l) = false) (hc : v.plan.change.isSome = true) (n : Nat) :
    (v.fetchFailed n).answered .memoryError 0 0 ∧ (v.fetchFailed n).plan.memErrors = s.errorsAfter true ∧
      (v.fetchFailed n).logNow = s.logged (s.errorRecords .plan n 0 true) := by
  obtain ⟨hlog, herrors⟩ := State.errorEnd s v .plan n 0 true h hl
  have hfinish : Frame [.change] (v.burstError .plan n 0) (v.fetchFailed n) := State.finish_frame _ _
  refine ⟨State.finish_answered _ _ ?_, Eq.trans (hfinish.same .memErrors rfl) herrors, (hfinish.logNow rfl rfl).trans hlog⟩
  rw [(State.burstError_frame v .plan n 0).same .change rfl, hc]

/-- Settles O53: the entry's lines, and the group that does not accept its entry. -/
theorem updateReadsEntry : Obligations.UpdateReadsEntry := by
  refine ⟨fun cmd x i off todo got s hcmd hreads => ?_, fun g b s hcomes hrefused => ?_⟩
  · obtain ⟨hoff, hprog, hidx, hcells, hchange⟩ := State.readsEntry_line hreads
    have hexec (err : Bool) := exec_entryRead hcmd err hreads.1 (State.readsEntry_updating hreads)
    refine ⟨?_, fun next rest htodo => ?_⟩
    · have hread : s.entryLineRead x true = (s.complete true).fetchFailed (s.anchorAddr + off) := by
        unfold State.entryLineRead
        rw [hoff]
        rfl
      have hreads := s.complete_read_frame true hcells
      obtain ⟨hans, herrors, hlog⟩ := State.fetchFailed_spec hreads rfl (by rw [hreads.same .change rfl, hchange])
        (s.anchorAddr + off)
      have hframe : Frame (.change :: errorParts) s _ :=
        (hreads.wide rfl).trans (State.fetchFailed_frame (s.complete true) (s.anchorAddr + off))
      rw [← hread] at hans herrors hlog hframe
      exact ⟨_, hexec true, State.settle_answered _ _ _ _ hans, by rw [State.settle_memErrors, herrors],
        by rw [State.settle_logNow, hlog], hframe.settled⟩
    · have hread : s.entryLineRead x false = ((s.complete false).setStage
          (.entryFetch rest (got ++ Memory.bytes s.mem (s.anchorAddr + off) 64))).planOut (.entryLine next) := by
        unfold State.entryLineRead
        rw [hoff, hprog, htodo]
        rfl
      have hstage : Frame [.change] s (s.entryLineRead x false) := by
        rw [hread]
        exact (((s.complete_read_frame false hcells).wide rfl).trans (State.setStage_frame _ _)).trans
          ((State.planOut_frame _ _).wide rfl)
      refine ⟨_, hexec false, State.settle_planHas _ _ (.inl ?_), ?_, hstage.settled⟩
      · rw [hread]
        simp [State.planOut]
      · obtain ⟨c, hc⟩ := Option.isSome_iff_exists.mp hchange
        rw [State.settle_stage, hread]
        simp [State.stage, State.planOut, State.setStage, State.complete, State.freePort, hc]
  · obtain ⟨hreset, hup, hcells, hchange, hread⟩ := State.entryComes_hands hcomes
    have hexec : exec (.updateGroup false) s = .next (s.entryLineRead 4 false).settle := exec_effect rfl rfl hreset hup
    have hno : ((s.complete false).grp g).accepts (parseGroup b).1 = false := by
      rw [State.grp_complete]
      rcases hrefused with h | h | h | h <;> simp [Group.accepts, h]
    have hhand : s.entryLineRead 4 false = (s.complete false).finish .badArgument := by
      rw [hread, State.handEntry_group, toFin_self]
      exact if_neg (by rw [hno]; exact Bool.false_ne_true)
    have hreads := s.complete_read_frame false hcells
    refine ⟨_, hexec, ?_, ?_⟩
    · rw [hhand]
      exact State.settle_answered _ _ _ _ (State.finish_answered _ _ (by rw [hreads.same .change rfl, hchange]))
    · rw [hhand]
      exact ((hreads.wide rfl).trans (State.finish_frame _ _)).settled

end Sys2Proof.Machine
end


section
/-! PROOFS. UPDATE SECTION applied (chapter 01). -/

namespace Sys2Proof.Machine

variable {s t u v : State} {k : Fin 24} {ms n : Nat}

/-! ### The end of an UPDATE (R173) -/

theorem State.logClamped_logNow (s : State) (n : Nat) : (s.logClamped n).logNow = s.logged (s.clampedRecords n) := by
  unfold State.logClamped State.clampedRecords
  by_cases h : n = 0
  · simp [h]
  · rw [if_pos (Nat.pos_of_ne_zero h), if_neg h, State.log_logNow]

/-- An entry applied, its clamped fields logged, the change answered (R173). -/
def State.applied (v : State) (n : Nat) : State := (v.logClamped n).finish .done

theorem State.applied_frame (v : State) (n : Nat) : Frame [.change, .logQueue, .lostCount] v (v.applied n) :=
  ((State.logClamped_frame v n).wide rfl).trans ((State.finish_frame _ _).wide rfl)

theorem State.applied_logNow {l : List Part} {es : List LogRec} (h : Frame l s v)
    (hl : (Part.within [.partState] l || Part.within [.logIndices] l || Part.within [.reportBases] l ||
      Part.within [.timebase] l) = false) (hlog : v.logNow = s.logged es) (n : Nat) :
    (v.applied n).logNow = s.logged (es ++ s.clampedRecords n) := by
  rw [Bool.or_eq_false_iff] at hl
  obtain ⟨hl, hnow⟩ := hl
  have hrecords : v.clampedRecords n = s.clampedRecords n := by
    simp only [State.clampedRecords, State.record, Eq.trans (h.same .timebase hnow) rfl]
  rw [State.applied, (State.finish_frame _ _).logNow rfl rfl, State.logClamped_logNow, hrecords, h.logged_append hl _ _ hlog]

theorem State.applied_answered (hc : v.plan.change.isSome = true) (n : Nat) : (v.applied n).answered .done 0 0 :=
  State.finish_answered _ _ (by rw [(State.logClamped_frame v n).same .change rfl, hc])

/-! ### The forms of UPDATE SECTION (R14) -/

theorem State.retimeSec_idle (hd : (s.sec k).deadline = none) :
    s.retimeSec k ms = s.putSec k { s.sec k with lossTimeout := ms } := by
  unfold State.retimeSec
  simp only [hd, Option.isSome_none, Bool.false_and, Bool.false_eq_true, if_false, Option.map_none]

theorem State.retimeSec_running (hd : (s.sec k).deadline.isSome = true) (hn : s.now < (s.sec k).refresh + ms * 1000) :
    s.retimeSec k ms = s.putSec k { s.sec k with
      lossTimeout := ms, deadline := some ((s.sec k).refresh + ms * 1000) } := by
  obtain ⟨d, hd⟩ := Option.isSome_iff_exists.mp hd
  unfold State.retimeSec
  simp [hd, lossDeadline, Nat.not_le.mpr hn]

/-- The state in which the loss of a section whose new timeout has passed is taken (R14). -/
def State.retimed (s : State) (k : Fin 24) (ms : Nat) : State :=
  s.putSec k { s.sec k with lossTimeout := ms, deadline := some ((s.sec k).refresh + ms * 1000) }

theorem State.retimeSec_passed (hd : (s.sec k).deadline.isSome = true) (hn : (s.sec k).refresh + ms * 1000 ≤ s.now) :
    s.retimeSec k ms = (s.retimed k ms).loseSec k := by
  obtain ⟨d, hd⟩ := Option.isSome_iff_exists.mp hd
  unfold State.retimeSec State.retimed
  simp [hd, lossDeadline, hn]

theorem State.retimed_frame (s : State) (k : Fin 24) (ms : Nat) : Frame [.sections] s (s.retimed k ms) :=
  State.putSec_frame _ _ _

/-- The state in which the completions without a disabled section are computed (R14). -/
def State.disabled (s : State) (k : Fin 24) (ms : Nat) : State :=
  s.moveSec k { s.sec k with
    enabled := false, lossTimeout := ms, deadline := none, feederFault := false, unitAlarm := false } .disabled .update

theorem State.disableSec_eq (s : State) (k : Fin 24) (ms : Nat) :
    s.disableSec k ms = (((s.disabled k ms).leaveExpected k).clearGates k).clearSection k := rfl

theorem State.disabled_frame (s : State) (k : Fin 24) (ms : Nat) : Frame [.sections, .logQueue, .lostCount] s (s.disabled k ms) :=
  State.moveSec_frame _ _ _ _ _

theorem State.clearSection_brk (s : State) (k j : Fin 24) : (s.clearSection k).brk j =
    if j = k then { s.brk k with active := none, suspended := none, gain := 32768, st := .clear } else s.brk j := by
  unfold State.clearSection
  by_cases h : j = k
  · subst h; simp
  · simp [h, Ne.symm h]

theorem Frame.brk_eq {l : List Part} (h : Frame l s t) (hl : Part.within [.breakIns] l = false) (k : Fin 24) :
    t.brk k = s.brk k := by
  simp only [State.brk, Eq.trans (h.same .breakIns hl) rfl]

theorem Frame.grp_eq {l : List Part} (h : Frame l s t) (hl : Part.within [.groups] l = false) (g : Fin 12) :
    t.grp g = s.grp g := by
  simp only [State.grp, Eq.trans (h.same .groups hl) rfl]

/-- Settles O54: UPDATE SECTION by the section's flag before and in the entry. -/
theorem updateSectionApplied : Obligations.UpdateSectionApplied := by
  intro k b en ms clamped s hcomes hparse
  obtain ⟨hreset, hup, hcells, hchange, hread⟩ := State.entryComes_hands hcomes
  have hbase := s.complete_read_frame false hcells
  generalize s.complete false = u at hread hbase
  have hsecs (j : Fin 24) : u.sec j = s.sec j := hbase.sec_eq rfl j
  have hnow : u.now = s.now := hbase.same .timebase rfl
  have hentry : s.entryLineRead 3 false = (u.applySection k en ms).applied clamped := by
    rw [hread, State.handEntry_section, toFin_self, hparse]
    rfl
  have hexec : exec (.updateSection false) s = .next ((u.applySection k en ms).applied clamped).settle := by
    rw [← hentry]
    exact exec_effect rfl rfl hreset hup
  have happly : Frame sectionParts s (u.applySection k en ms) := (hbase.wide rfl).trans (State.applySection_frame u k en ms)
  have hend : Frame [.change, .logQueue, .lostCount] (u.applySection k en ms)
      ((u.applySection k en ms).applied clamped).settle := ((u.applySection k en ms).applied_frame clamped).settled
  have hlogEnd {es : List LogRec} (h : (u.applySection k en ms).logNow = s.logged es) :
      ((u.applySection k en ms).applied clamped).settle.logNow = s.logged (es ++ s.clampedRecords clamped) := by
    rw [State.settle_logNow, State.applied_logNow happly rfl h clamped]
  have hsecEnd (j : Fin 24) : ((u.applySection k en ms).applied clamped).settle.sec j = (u.applySection k en ms).sec j :=
    hend.sec_eq rfl j
  have hput {r : SectionRec} (h : u.applySection k en ms = u.putSec k r) :
      ((u.applySection k en ms).applied clamped).settle.sec k = r ∧
        ((u.applySection k en ms).applied clamped).settle.logNow = s.logged (s.clampedRecords clamped) ∧
        Frame [.change, .sections, .logQueue, .lostCount] s ((u.applySection k en ms).applied clamped).settle := by
    have hframe : Frame [.sections] s (u.applySection k en ms) := by
      rw [h]
      exact (hbase.wide rfl).trans (State.putSec_frame _ _ _)
    refine ⟨by rw [hsecEnd, h, State.putSec_sec], ?_, (hframe.wide rfl).trans (hend.wide rfl)⟩
    rw [hlogEnd (es := []) ?_, List.nil_append]
    rw [h, State.putSec_logNow, hbase.logNow rfl rfl, State.logged_nil]
  refine ⟨_, hexec, State.settle_answered _ _ _ _ (State.applied_answered ?_ _), fun j hj => ?_, ?_, fun h1 h2 => ?_, fun h1 h2 => ?_,
    fun h1 h2 => ?_, fun h1 h2 => ?_⟩
  · rw [happly.same .change rfl, hchange]
  · rw [hsecEnd, ← hsecs j]
    unfold State.applySection
    split
    · unfold State.retimeSec
      dsimp only
      split
      · rw [State.loseSec_sec, if_neg (Ne.symm hj), State.putSec_sec_ne _ _ (Ne.symm hj)]
      · exact State.putSec_sec_ne _ _ (Ne.symm hj)
    · rw [State.disableSec_sec, if_neg (Ne.symm hj)]
    · exact State.moveSec_sec_ne _ _ _ _ (Ne.symm hj)
    · exact State.putSec_sec_ne _ _ (Ne.symm hj)
  · exact (happly.wide rfl).trans (hend.wide rfl)
  · have hform : u.applySection k en ms = u.retimeSec k ms := by
      simp only [State.applySection, hsecs, h1, h2]
    refine ⟨fun hd => ?_, fun hd hn => ?_, fun hd hn => ?_⟩
    · have := hput (hform.trans (State.retimeSec_idle (by rw [hsecs]; exact hd)))
      rwa [hsecs] at this
    · have := hput (hform.trans (State.retimeSec_running (by rw [hsecs]; exact hd) (by rw [hsecs, hnow]; exact hn)))
      rwa [hsecs] at this
    · have hlost := hform.trans (State.retimeSec_passed (by rw [hsecs]; exact hd) (by rw [hsecs, hnow]; exact hn))
      have hretimed : Frame [.sections] s (u.retimed k ms) := (hbase.wide rfl).trans (u.retimed_frame k ms)
      have hsecK : (u.retimed k ms).sec k = { s.sec k with
          lossTimeout := ms, deadline := some ((s.sec k).refresh + ms * 1000) } := by
        rw [State.retimed, State.putSec_sec, hsecs]
      refine ⟨?_, ?_, ?_, ?_⟩
      · rw [hsecEnd, hlost, State.loseSec_sec, if_pos rfl, hsecK]
        rfl
      · refine hlogEnd (es := [_]) ?_
        rw [hlost, State.loseSec_logNow, hsecK, hretimed.logged rfl]
        simp only [State.record, Eq.trans (hretimed.same .timebase rfl) rfl]
      · refine State.completedWithout_departed (u := (u.retimed k ms).lost k) ?_ (fun j hj => ?_) (State.lost_sec _ k) ?_ ?_
        · exact (hretimed.wide rfl).trans ((State.lost_frame _ k).wide rfl)
        · rw [State.lost, State.moveSec_sec_ne _ _ _ _ (Ne.symm hj), State.retimed, State.putSec_sec_ne _ _ (Ne.symm hj), hsecs]
        · refine Eq.trans (hend.same .sections rfl) ?_
          rw [hlost]
          exact ((State.lost _ k).departed_quiet k).same .sections rfl
        · rw [hlost] at hend ⊢
          exact hend.wide rfl
      · refine Same.trans ?_ (hend.same .breakIns rfl)
        rw [hlost]
        exact ((hretimed.wide rfl).trans ((u.retimed k ms).loseSec_frame k)).same .breakIns rfl
  · have hform : u.applySection k en ms = u.disableSec k ms := by
      simp only [State.applySection, hsecs, h1, h2]
    have hdis : Frame [.sections, .logQueue, .lostCount] s (u.disabled k ms) := (hbase.wide rfl).trans (u.disabled_frame k ms)
    have hquiet : Frame [.groups, .opens, .results] (u.disabled k ms) (((u.disabled k ms).leaveExpected k).clearGates k) :=
      (u.disabled k ms).departed_quiet k
    have hbrks (j : Fin 24) : (((u.disabled k ms).leaveExpected k).clearGates k).brk j = s.brk j := by
      rw [hquiet.brk_eq rfl, hdis.brk_eq rfl]
    have hbrkEnd (j : Fin 24) : ((u.applySection k en ms).applied clamped).settle.brk j = if j = k then
        { s.brk k with active := none, suspended := none, gain := 32768, st := .clear } else s.brk j := by
      rw [hend.brk_eq rfl, hform, State.disableSec_eq, State.clearSection_brk, hbrks, hbrks]
    refine ⟨?_, ?_, fun j hj => ?_, fun g x hkind => ?_, ?_, ?_⟩
    · rw [hsecEnd, hform, State.disableSec_sec, if_pos rfl, hsecs]
      rfl
    · rw [hbrkEnd, if_pos rfl]
    · rw [hbrkEnd, if_neg hj]
    · have hgates := State.departed_gates (u.disabled k ms) k g x (by rw [hdis.grp_eq rfl]; exact hkind)
      rw [hend.grp_eq rfl, hform, State.disableSec_eq, (State.clearSection_frame _ k).grp_eq rfl]
      exact hgates
    · refine hlogEnd (es := [_]) ?_
      rw [hform, State.disableSec_eq, (State.clearSection_frame _ k).logNow rfl rfl, hquiet.logNow rfl rfl, State.disabled,
        State.moveSec_logNow, hbase.logged rfl, hsecs]
      simp only [State.record, hnow]
      rfl
    · refine State.completedWithout_departed (u := u.disabled k ms) (hdis.wide rfl) (fun j hj => ?_) ?_ ?_ ?_
      · rw [State.disabled, State.moveSec_sec_ne _ _ _ _ (Ne.symm hj), hsecs]
      · rw [State.disabled, State.moveSec_sec]
        rfl
      · refine Eq.trans (hend.same .sections rfl) ?_
        rw [hform, State.disableSec_eq]
        exact ((hquiet.wide rfl).trans ((State.clearSection_frame _ k).wide (m := [.groups, .opens, .results, .breakIns]) rfl)).same
          .sections rfl
      · rw [hform, State.disableSec_eq] at hend ⊢
        exact ((State.clearSection_frame _ k).wide rfl).trans (hend.wide rfl)
  · have hform : u.applySection k en ms = u.enableSec k ms := by
      simp only [State.applySection, hsecs, h1, h2]
    have hframe : Frame [.sections, .logQueue, .lostCount] s (u.applySection k en ms) := by
      rw [hform]
      exact (hbase.wide rfl).trans (State.moveSec_frame _ _ _ _ _)
    refine ⟨?_, ?_, (hframe.wide rfl).trans (hend.wide rfl)⟩
    · rw [hsecEnd, hform, State.enableSec, State.moveSec_sec, hsecs, hnow]
      rfl
    · refine hlogEnd (es := [_]) ?_
      rw [hform, State.enableSec, State.moveSec_logNow, hbase.logged rfl, hsecs]
      simp only [State.record, hnow]
      rfl
  · have hform : u.applySection k en ms = u.putSec k { u.sec k with lossTimeout := ms } := by
      simp only [State.applySection, hsecs, h1, h2]
    have := hput hform
    rwa [hsecs] at this

end Sys2Proof.Machine
end


section
/-! PROOFS. The change in progress decided (chapter 10), and the load of a plan up to its checks. -/

namespace Sys2Proof.Machine

variable {s t u v : State} {c : Change}

/-! ### The decision by kind and part state (R165) -/

theorem State.finish_change (h : s.plan.change = some c) (r : ResultCode) :
    (s.finish r).plan.change = some { c with stage := .writingBack } := by
  simp [State.finish, State.finishWith, h]

theorem State.setStage_change (h : s.plan.change = some c) (st : Stage) :
    (s.setStage st).plan.change = some { c with stage := st } := by
  simp [State.setStage, h]

theorem State.decideChange_refused {r : ResultCode} (h : notTaken s.plan.partState c.kind = some r) :
    s.decideChange c = s.finish r := by
  rw [State.decideChange, h]

theorem State.decideChange_handover (h : notTaken s.plan.partState c.kind = none) (hk : c.kind ≠ 2) :
    s.decideChange c = s.setStage .handover := by
  rw [State.decideChange, h]
  exact if_neg hk

theorem State.decideChange_update (h : notTaken s.plan.partState c.kind = none) (hk : c.kind = 2) :
    s.decideChange c = s.beginUpdate c := by
  rw [State.decideChange, h]
  exact if_pos hk

theorem lineOffs_cons {off size : Nat} (h : 0 < size) : ∃ rest, lineOffs off size = off / 64 * 64 :: rest := by
  obtain ⟨n, hn⟩ := Nat.exists_eq_succ_of_ne_zero (show (off + size + 63) / 64 - off / 64 ≠ 0 by omega)
  exact ⟨_, by rw [lineOffs, hn, List.range_succ_eq_map, List.map_cons, Nat.add_zero]⟩

theorem entrySize_pos (x : Fin 7) : 0 < entrySize x := by
  revert x
  decide

theorem State.beginUpdate_none (h : updateTable c.tableByte = none) : s.beginUpdate c = s.finish .badArgument := by
  rw [State.beginUpdate, h]

theorem State.beginUpdate_outside {x : Fin 7} (h : updateTable c.tableByte = some x) (hi : updateCount x ≤ c.indexByte) :
    s.beginUpdate c = s.finish .badArgument := by
  rw [State.beginUpdate, h]
  exact if_pos hi

theorem State.beginUpdate_reads {x : Fin 7} {o : Nat} {rest : List Nat} (h : updateTable c.tableByte = some x)
    (hi : c.indexByte < updateCount x) (hl : s.entryLines x c.indexByte = o :: rest) :
    s.beginUpdate c = (s.setStage (.entryFetch rest [])).planOut (.entryLine o) := by
  rw [State.beginUpdate, h]
  dsimp only
  rw [if_neg (Nat.not_le.mpr hi), hl]

/-- A decision replaces the stage of the change alone. -/
theorem State.decideChange_change (h : s.plan.change = some c) :
    ∃ st, (s.decideChange c).plan.change = some { c with stage := st } := by
  unfold State.decideChange
  split
  · exact ⟨_, State.finish_change h _⟩
  · split
    · unfold State.beginUpdate
      split
      · exact ⟨_, State.finish_change h _⟩
      · split
        · exact ⟨_, State.finish_change h _⟩
        · split
          · exact ⟨_, State.finish_change h _⟩
          · exact ⟨_, State.setStage_change h _⟩
    · exact ⟨_, State.setStage_change h _⟩

/-- The change with the words that the argument read brings (R163). -/
def State.withArgs (s : State) (c : Change) : Change :=
  { c with
    arg1 := Memory.word s.mem (s.anchorAddr + 4), arg2 := Memory.word s.mem (s.anchorAddr + 8)
    arg3 := Memory.word s.mem (s.anchorAddr + 12) }

/-- The state in which a change whose arguments have been read is decided (R163). -/
def State.argued (s : State) (c : Change) : State := { s with plan := { s.plan with change := some (s.withArgs c) } }

theorem State.takeArgs_eq (s : State) (c : Change) : s.takeArgs c = (s.argued c).decideChange (s.withArgs c) := rfl

/-- Settles O48: an error, and the decision by kind and part state. -/
theorem argumentsDecideChange : Obligations.ArgumentsDecideChange := by
  intro c s hreset hport hchange hstage hforce
  have hcells : s.portCells = [] := by simp [State.portCells, hport]
  have hon : s.argsOnPort = true := by simp [State.argsOnPort, hport, hchange, hstage]
  have hexec (err : Bool) : exec (.argumentReadComplete err) s = .next (s.argsRead err).settle := exec_effect rfl rfl hreset hon
  refine ⟨?_, ?_⟩
  · have hreads := s.complete_read_frame true hcells
    obtain ⟨hans, herrors, hlog⟩ := State.fetchFailed_spec hreads rfl (by rw [hreads.same .change rfl, hchange]; rfl)
      s.anchorAddr
    have hframe : Frame (.change :: errorParts) s _ :=
      (hreads.wide rfl).trans (State.fetchFailed_frame (s.complete true) s.anchorAddr)
    exact ⟨_, hexec true, State.settle_answered _ _ _ _ hans, by rw [State.settle_memErrors]; exact herrors,
      by rw [State.settle_logNow]; exact hlog, Frame.settled hframe⟩
  · have hreads := s.complete_read_frame false hcells
    have hargs : (s.complete false).withArgs c = s.withArgs c := by
      rw [State.withArgs, State.complete, hcells]
      rfl
    have hread : s.argsRead false = ((s.complete false).argued c).decideChange (s.withArgs c) := by
      rw [← hargs, ← State.takeArgs_eq, State.argsRead, State.theChange, hchange]
      rfl
    have hframe : Frame [.change] s (s.argsRead false) := (hreads.wide rfl).trans (State.takeArgs_frame _ _)
    have hcu : ((s.complete false).argued c).plan.change = some (s.withArgs c) := congrArg some hargs
    have hpart : ((s.complete false).argued c).plan.partState = s.plan.partState := hreads.same .partState rfl
    have hdescr : ((s.complete false).argued c).plan.descr = s.plan.descr := hreads.same .descriptors rfl
    generalize (s.complete false).argued c = u at hread hcu hpart hdescr
    obtain ⟨st, hst⟩ := State.decideChange_change hcu
    rw [hread] at hframe
    refine ⟨_, _, (hexec false).trans (by rw [hread]), (State.settle_plan_change _).trans hst, rfl, rfl, rfl, rfl,
      hframe.settled, fun hk => ?_, fun hk h1 hp => ?_, fun hk hp => ?_, fun hk h1 hp => ?_, fun hk => ?_, fun hk hp => ?_⟩
    all_goals
      have hrefuse {r : ResultCode} (h : notTaken s.plan.partState c.kind = some r) :
          (u.decideChange (s.withArgs c)).settle.answered r 0 0 := by
        rw [State.decideChange_refused (r := r) (by rw [hpart]; exact h)]
        exact State.settle_answered _ _ _ _ (State.finish_answered _ _ (by rw [hcu]; rfl))
    · exact hrefuse (by simp [notTaken, hk])
    · exact hrefuse (by simp [notTaken, hp, h1, Nat.not_lt.mpr hk])
    · exact hrefuse (by simp [notTaken, hp, hk])
    · exact hrefuse (by simp [notTaken, hp, h1, show ¬8 < c.kind by omega, show c.kind ≠ 8 by omega])
    · have htaken : notTaken s.plan.partState c.kind = none := by
        rcases hk with hk | ⟨h3, h7, hp⟩ | ⟨hk, hp⟩
        · revert hforce
          cases hp : s.plan.partState <;> simp [notTaken, hk, hp, State.inForce, PartState.inForce]
        · simp [notTaken, hp, show ¬8 < c.kind by omega, show c.kind ≠ 8 by omega]
        · simp [notTaken, hp, hk]
      have hform := State.decideChange_handover (s := u) (c := s.withArgs c) (by rw [hpart]; exact htaken)
        (show c.kind ≠ 2 by omega)
      rw [hform, State.setStage_change hcu] at hst
      injection hst with hst
      exact (congrArg Change.stage hst).symm
    · have htaken : notTaken u.plan.partState (s.withArgs c).kind = none := by
        rw [hpart]
        simp [notTaken, hp, State.withArgs, hk]
      have hform := State.decideChange_update (s := u) htaken hk
      have hbad (h : u.beginUpdate (s.withArgs c) = u.finish .badArgument) :
          (u.decideChange (s.withArgs c)).settle.answered .badArgument 0 0 := by
        rw [hform, h]
        exact State.settle_answered _ _ _ _ (State.finish_answered _ _ (by rw [hcu]; rfl))
      refine ⟨fun h => hbad (State.beginUpdate_none h), fun x h hi => hbad (State.beginUpdate_outside h hi), fun x h hi => ?_⟩
      obtain ⟨rest, hl⟩ := lineOffs_cons (off := s.entryOff x (s.withArgs c).indexByte) (entrySize_pos x)
      have hlines : u.entryLines x (s.withArgs c).indexByte =
          s.entryOff x (s.withArgs c).indexByte / 64 * 64 :: rest := by
        rw [State.entryLines, State.entryOff, hdescr]
        exact hl
      have hbegin := hform.trans (State.beginUpdate_reads h hi hlines)
      refine ⟨_, rest, hl, ?_, ?_⟩
      · rw [hbegin] at hst
        have hset := (State.setStage_change hcu (.entryFetch rest [])).symm.trans hst
        injection hset with hset
        exact (congrArg Change.stage hset).symm
      · rw [hbegin]
        refine State.settle_planHas _ _ (.inl ?_)
        simp [State.planOut]

end Sys2Proof.Machine
end


section
/-! PROOFS. The load of a plan up to its checks, and the stop of a swap or a QUIESCE (chapter 10). -/

namespace Sys2Proof.Machine

variable {s t u v : State} {c : Change}

/-! ### The load (R168) -/

theorem State.handed_of_carriesOut {n : Nat} (h : s.carriesOut n) :
    s.inReset = false ∧ s.handed n = true ∧ s.plan.change.isSome = true := by
  obtain ⟨hreset, c, hc, hk, hst⟩ := h
  exact ⟨hreset, by simp [State.handed, hc, hk, hst], by rw [hc]; rfl⟩

theorem State.lineOnPort_eq {o : Nat} {st : Staged} {l : StagedLine} {more : List StagedLine}
    (hport : s.arb.port = some (.plan (.loadLine o))) (hst : s.plan.staged = some st) (htodo : st.todo = l :: more) :
    s.lineOnPort = some (st, l) := by
  simp [State.lineOnPort, hport, hst, htodo]

theorem State.readNext_cons (s : State) (l : StagedLine) (rest : List StagedLine) (got : List (StagedLine × List Byte)) :
    s.readNext ⟨l :: rest, got⟩ =
      { s with plan := { s.plan with staged := some ⟨l :: rest, got⟩, out := s.plan.out ++ [.loadLine l.off] } } := rfl

theorem tableLines_eq (d : Descriptors) : tableLines d =
    ([(1, d.regionOff, 640), (2, d.progOff, 96), (3, d.secOff, 192), (4, d.groupOff, 1536), (5, d.chanOff, 64),
      (6, d.lineOff, 384)] : List (Fin 7 × Nat × Nat)).flatMap fun x =>
        (List.range ((x.2.1 + x.2.2 + 63) / 64 - x.2.1 / 64)).map fun j => ⟨x.1, (x.2.1 / 64 + j) * 64⟩ := by
  simp [tableLines, lineOffs, Descriptors.tableOff, partSize, Function.comp_def]

theorem tableLines_cons (d : Descriptors) : ∃ rest, tableLines d = ⟨1, d.regionOff / 64 * 64⟩ :: rest := by
  obtain ⟨rest, hl⟩ := lineOffs_cons (off := d.regionOff) (size := 640) (by decide)
  exact ⟨_, congrArg (fun l : List Nat => (l.map fun o => (⟨1, o⟩ : StagedLine)) ++ ([2, 3, 4, 5, 6] : List (Fin 7)).flatMap
    fun k => (lineOffs (d.tableOff k) (partSize k)).map fun o => ⟨k, o⟩) hl⟩

theorem planAreaOk_iff (d : Descriptors) (anchor memSize : Nat) : planAreaOk d anchor memSize = true ↔
    128 ≤ d.areaLen ∧ d.regionOff + 640 ≤ d.areaLen ∧ d.progOff + 96 ≤ d.areaLen ∧ d.secOff + 192 ≤ d.areaLen ∧
      d.groupOff + 1536 ≤ d.areaLen ∧ d.chanOff + 64 ≤ d.areaLen ∧ d.lineOff + 384 ≤ d.areaLen ∧
      anchor + d.areaLen ≤ memSize := by
  simp only [planAreaOk, List.all_cons, List.all_nil, Bool.and_true, Bool.and_eq_true, decide_eq_true_eq, and_assoc]
  simp only [Descriptors.tableOff, partSize, Nat.zero_add]

/-- A rejected plan, after a read that changed nothing (R169). -/
theorem State.rejectPlan_spec (h : Frame [] s v) (hc : v.plan.change.isSome = true) (chk : PlanCheck) (n : Nat) :
    (v.rejectPlan chk n).plan.staged = none ∧ (v.rejectPlan chk n).plan.lastError = .check chk n ∧
      (v.rejectPlan chk n).answered .planInvalid chk.code n ∧
      (v.rejectPlan chk n).logNow = s.logged [s.record .planRejected chk.code (w4 chk.code n 0 0) 0] ∧
      Frame [.change, .staged, .lastError, .logQueue, .lostCount] s (v.rejectPlan chk n) := by
  let w : State := State.setLastError { v with plan := { v.plan with staged := none } } (.check chk n)
  have hw : Frame [.staged, .lastError] s w :=
    ((h.wide rfl).trans ((staged_frame v none v.plan.out).wide rfl)).trans ((State.setLastError_frame _ _).wide rfl)
  have hlog : Frame [.logQueue, .lostCount] w (w.log .planRejected chk.code (w4 chk.code n 0 0) 0) := State.log_frame _ _ _ _ _
  have hfinish : Frame [.change] _ (v.rejectPlan chk n) :=
    State.finishWith_frame (w.log .planRejected chk.code (w4 chk.code n 0 0) 0) .planInvalid chk.code n
  have hend : Frame [.change, .logQueue, .lostCount] w (v.rejectPlan chk n) := (hlog.wide rfl).trans (hfinish.wide rfl)
  refine ⟨Eq.trans (hend.same .staged rfl) rfl, Eq.trans (hend.same .lastError rfl) rfl, ?_, ?_,
    (hw.wide rfl).trans (hend.wide rfl)⟩
  · exact State.finishWith_answered _ _ _ _ (by rw [hlog.same .change rfl]; exact hc)
  · rw [hfinish.logNow rfl rfl, State.log_logNow, hw.logged rfl]
    simp only [State.record, Eq.trans (hw.same .timebase rfl) rfl]

/-- A load ended by a fetch error (R168). -/
theorem State.loadFailed_spec (h : Frame [] s v) (hc : v.plan.change.isSome = true) (off : Nat) :
    (v.loadFailed off).plan.staged = none ∧ (v.loadFailed off).plan.lastError = .fetch off ∧
      (v.loadFailed off).answered .memoryError 0 0 ∧ (v.loadFailed off).plan.memErrors = s.errorsAfter true ∧
      (v.loadFailed off).logNow = s.logged (s.errorRecords .plan (s.anchorAddr + off) 0 true) ∧
      Frame (.change :: .staged :: .lastError :: errorParts) s (v.loadFailed off) := by
  let w : State := State.setLastError { v with plan := { v.plan with staged := none } } (.fetch off)
  have hw : Frame [.staged, .lastError] s w :=
    ((h.wide rfl).trans ((staged_frame v none v.plan.out).wide rfl)).trans ((State.setLastError_frame _ _).wide rfl)
  have haddr : w.anchorAddr = s.anchorAddr := State.anchorAddr_frame hw rfl
  obtain ⟨hans, herrors, hlog⟩ := State.fetchFailed_spec hw rfl (n := s.anchorAddr + off) hc
  have hend : Frame (.change :: errorParts) w (v.loadFailed off) := State.fetchFailed_frame w _
  have heq : v.loadFailed off = w.fetchFailed (s.anchorAddr + off) := by rw [← haddr]; rfl
  rw [← heq] at hans herrors hlog
  exact ⟨Eq.trans (hend.same .staged rfl) rfl, Eq.trans (hend.same .lastError rfl) rfl, hans, herrors, hlog,
    (hw.wide rfl).trans (hend.wide rfl)⟩

/-- A read of the load goes on with the next line. -/
theorem State.readNext_spec (h : Frame [] s v) {st : Staged} {l : StagedLine} {rest : List StagedLine}
    (htodo : st.todo = l :: rest) :
    (v.readNext st).settle.plan.staged = some st ∧ (v.readNext st).settle.planHas (.loadLine l.off) ∧
      Frame [.staged] s (v.readNext st).settle := by
  obtain ⟨todo, got⟩ := st
  cases htodo
  rw [State.readNext_cons]
  exact ⟨State.settle_staged _, State.settle_planHas _ _ (.inl (by simp)), ((h.wide rfl).trans (staged_frame v _ _)).settled⟩

/-- Settles O49: the start of a load, its errors, its lines, and the check of its header. -/
theorem loadReadsPlan : Obligations.LoadReadsPlan := by
  refine ⟨fun s hcarry => ?_, fun o st l more s hreset hport hst htodo hchange => ?_⟩
  · obtain ⟨hreset, hdue, hchange⟩ := State.handed_of_carriesOut hcarry
    have hexec : exec .reload s = .next s.beginLoad.settle := exec_effect rfl rfl hreset hdue
    obtain ⟨c, hc⟩ := Option.isSome_iff_exists.mp hchange
    refine ⟨_, hexec, ?_, State.settle_staged _, State.settle_planHas _ _ (.inl (by simp [State.beginLoad])),
      s.beginLoad_frame.settled⟩
    rw [State.settle_stage]
    simp [State.beginLoad, State.stage, State.setStage, hc]
  · have hon := State.lineOnPort_eq hport hst htodo
    have hcells : s.portCells = [] := by simp [State.portCells, hport]
    have hexec (err : Bool) : exec (.planFetchComplete err) s = .next (s.planLineRead err).settle :=
      exec_effect rfl rfl hreset (by simp [State.effect, hon])
    have hreads (err : Bool) := s.complete_read_frame err hcells
    have hchanged (err : Bool) : (s.complete err).plan.change.isSome = true := by rw [(hreads err).same .change rfl, hchange]
    refine ⟨?_, ?_⟩
    · have hread : s.planLineRead true = (s.complete true).loadFailed l.off := by rw [State.planLineRead, hon]; rfl
      obtain ⟨hstaged, hlast, hans, herrors, hlog, hframe⟩ := State.loadFailed_spec (hreads true) (hchanged true) l.off
      rw [← hread] at hstaged hlast hans herrors hlog hframe
      exact ⟨_, hexec true, by rw [State.settle_staged, hstaged], by rw [State.settle_lastError, hlast],
        State.settle_answered _ _ _ _ hans, by rw [State.settle_memErrors, herrors], by rw [State.settle_logNow, hlog],
        hframe.settled⟩
    · generalize hgot : st.got ++ [(l, Memory.bytes s.mem (s.anchorAddr + l.off) 64)] = got
      have hread : s.planLineRead false = (s.complete false).lineLoaded st l (Memory.bytes s.mem (s.anchorAddr + l.off) 64) := by
        rw [State.planLineRead, hon]; rfl
      have hloaded : s.planLineRead false =
          if more.isEmpty = false then (s.complete false).readNext ⟨more, got⟩
          else if l.part = 0 then
            if planAreaOk (Staged.header ⟨more, got⟩) (s.complete false).anchorAddr (s.complete false).path.memSize then
              (s.complete false).readNext ⟨tableLines (Staged.header ⟨more, got⟩), got⟩
            else (s.complete false).rejectPlan .planArea 255
          else State.checkStaged { s.complete false with
            plan := { (s.complete false).plan with staged := some ⟨more, got⟩ } } ⟨more, got⟩ := by
        rw [hread, State.lineLoaded, htodo, hgot]
        cases more <;> rfl
      refine ⟨_, got, hexec false, rfl, fun next rest hmore => ?_, fun d h hmore hpart hh hd => ?_⟩
      · subst hmore
        rw [hloaded, if_pos (by rfl)]
        exact State.readNext_spec (hreads false) rfl
      · subst hmore hh hd
        refine ⟨rfl, rfl, rfl, rfl, rfl, rfl, rfl, rfl, rfl, rfl, rfl, rfl, fun holds hholds => ?_⟩
        rw [hloaded, if_neg (by simp), if_pos hpart]
        have harea : planAreaOk (Staged.header ⟨[], got⟩) (s.complete false).anchorAddr (s.complete false).path.memSize = true ↔
            holds := by
          rw [hholds]
          exact planAreaOk_iff _ _ _
        refine ⟨fun hok => ?_, fun hbad => ?_⟩
        · rw [if_pos (harea.mpr hok)]
          obtain ⟨rest, hlines⟩ := tableLines_cons (Staged.header ⟨[], got⟩)
          obtain ⟨hstaged, hhas, hframe⟩ := State.readNext_spec (st := ⟨tableLines (Staged.header ⟨[], got⟩), got⟩)
            (hreads false) hlines
          refine ⟨?_, hhas, hframe⟩
          rw [hstaged, tableLines_eq]
        · rw [if_neg (fun h => hbad (harea.mp h))]
          obtain ⟨hstaged, hlast, hans, hlog, hframe⟩ := State.rejectPlan_spec (hreads false) (hchanged false) .planArea 255
          exact ⟨by rw [State.settle_staged, hstaged], by rw [State.settle_lastError, hlast],
            State.settle_answered _ _ _ _ hans, by rw [State.settle_logNow, hlog]; rfl, hframe.settled⟩

/-! ### The stop of every channel (R80) -/

/-- A fold of updates that each replace the record of their own index. -/
theorem foldl_pointwise {α β : Type} [DecidableEq α] (get : State → α → β) (f : State → α → State) (g : α → β → β)
    (h : ∀ s a b, get (f s a) b = if b = a then g b (get s b) else get s b) {l : List α} (hl : l.Nodup) (s : State) (b : α) :
    get (l.foldl f s) b = if b ∈ l then g b (get s b) else get s b := by
  induction l generalizing s with
  | nil => simp
  | cons a l ih =>
    obtain ⟨ha, hl⟩ := List.nodup_cons.mp hl
    rw [List.foldl_cons, ih hl, h]
    by_cases hb : b = a
    · subst hb; simp [ha]
    · simp [hb]

/-- A fold of updates that leave a piece of state as it is. -/
theorem foldl_keeps {α β : Type} (get : State → β) (f : State → α → State) (h : ∀ s a, get (f s a) = get s) (l : List α)
    (s : State) : get (l.foldl f s) = get s := by
  induction l generalizing s with
  | nil => rfl
  | cons a l ih => exact (ih _).trans (h s a)

theorem State.clearAll_brk (s : State) (k : Fin 24) :
    s.clearAll.brk k = { s.brk k with active := none, suspended := none, gain := 32768, st := .clear } := by
  have hfold := foldl_pointwise State.brk State.clearSection
    (fun _ b => { b with active := none, suspended := none, gain := 32768, st := .clear })
    (fun s a b => by
      rw [State.clearSection_brk]
      by_cases h : b = a
      · subst h; rfl
      · simp [h]) (List.nodup_finRange 24) s k
  rw [if_pos (List.mem_finRange k)] at hfold
  exact hfold

theorem State.stopChan_chan (s : State) (c d : Fin 4) : (stopChan s c).chan d =
    if d = c then { (s.chan d).ended with waiting := none, queued := none, pending := [] } else s.chan d := by
  unfold stopChan
  by_cases h : d = c
  · subst h; simp
  · simp [h, Ne.symm h]

theorem State.dropRequest_line (s : State) (k j : Fin 6) : (dropRequest s k).line j =
    if j = k then { s.line j with request := .none } else s.line j := by
  unfold dropRequest State.setRequest
  by_cases h : j = k
  · subst h; simp
  · simp [h, Ne.symm h]

/-- The state of a stop before its check of the fence. -/
def State.stopped (s : State) : State :=
  let s2 := (List.finRange 6).foldl dropRequest ((List.finRange 4).foldl stopChan s.clearAll)
  { s2 with playout := { s2.playout with waitOrder := [] } }

theorem State.stopAll_eq (s : State) : s.stopAll = s.stopped.checkFence := rfl

theorem State.stopped_chan (s : State) (c : Fin 4) :
    s.stopped.chan c = { (s.clearAll.chan c).ended with waiting := none, queued := none, pending := [] } := by
  have hlines : ((List.finRange 6).foldl dropRequest ((List.finRange 4).foldl stopChan s.clearAll)).playout =
      ((List.finRange 4).foldl stopChan s.clearAll).playout := foldl_keeps State.playout dropRequest (fun _ _ => rfl) _ _
  have hfold := foldl_pointwise State.chan stopChan
    (fun _ ch => { ch.ended with waiting := none, queued := none, pending := [] }) State.stopChan_chan (List.nodup_finRange 4)
    s.clearAll c
  rw [if_pos (List.mem_finRange c)] at hfold
  exact (congrArg (fun p : Playout => p.chans.get c) hlines).trans hfold

theorem State.stopped_mixer (s : State) : s.stopped.mixer = s.clearAll.mixer :=
  (foldl_keeps State.mixer dropRequest (fun _ _ => rfl) _ _).trans (foldl_keeps State.mixer stopChan (fun _ _ => rfl) _ _)

theorem State.stopped_request (s : State) (k : Fin 6) : (s.stopped.line k).request = .none := by
  have hfold := foldl_pointwise State.line dropRequest (fun _ l => { l with request := .none }) State.dropRequest_line
    (List.nodup_finRange 6) ((List.finRange 4).foldl stopChan s.clearAll) k
  rw [if_pos (List.mem_finRange k)] at hfold
  exact congrArg LineRec.request hfold

/-- Whatever the state, a stop leaves every channel stopped and every section CLEAR (R80, R100, R159). -/
theorem State.stopAll_allStopped (s : State) : s.stopAll.allStopped := by
  rw [State.stopAll_eq]
  have hkeep : s.stopped.checkFence.mixer = s.stopped.mixer ∧ s.stopped.checkFence.lines = s.stopped.lines ∧
      s.stopped.checkFence.playout = s.stopped.playout := by
    unfold State.checkFence
    split <;> exact ⟨rfl, rfl, rfl⟩
  obtain ⟨hmixer, hlines, hplayout⟩ := hkeep
  have hbrk (k : Fin 24) : s.stopped.checkFence.brk k = s.clearAll.brk k := by
    rw [State.brk, hmixer, State.stopped_mixer, State.brk]
  refine ⟨fun c => ?_, fun k => ?_, fun k => ?_, ?_, ?_⟩
  · have harmed : s.stopped.checkFence.armed c = false := by
      rw [State.armed, hmixer, State.stopped_mixer]
      simp [State.clearAll]
    rw [State.checkFence_chan, State.stopped_chan]
    exact ⟨rfl, rfl, rfl, rfl, rfl, rfl, rfl, harmed⟩
  · rw [hbrk, State.clearAll_brk]
    exact ⟨rfl, rfl, rfl, rfl⟩
  · rw [State.line, hlines]
    exact s.stopped_request k
  · rw [hplayout]
    rfl
  · rw [State.checkFence_fence, if_pos]
    intro d
    rw [State.stopped_chan]
    exact ⟨rfl, rfl⟩

theorem Chan.still_start {a b : Chan} (h : a.still = b.still) : a.st = b.st ∧ a.owner = b.owner ∧ a.prio = b.prio ∧
    a.mask = b.mask ∧ a.waiting = b.waiting ∧ a.queued = b.queued ∧ a.pending = b.pending := by
  simp only [Chan.still, Chan.mk.injEq] at h
  simp [h]

theorem State.allStopped.frame {l : List Part} (h : s.allStopped) (f : Frame l s t)
    (hl : (Part.within [.channels] l || Part.within [.missStates] l || Part.within [.breakIns] l || Part.within [.requests] l ||
      Part.within [.startOrder] l || Part.within [.fence] l) = false) : t.allStopped := by
  simp only [Bool.or_eq_false_iff] at hl
  obtain ⟨⟨⟨⟨⟨hc, hm⟩, hb⟩, hr⟩, ho⟩, hf⟩ := hl
  obtain ⟨hchan, hbrk, hline, horder, hfence⟩ := h
  refine ⟨fun c => ?_, fun k => ?_, fun k => ?_, Eq.trans (f.same .startOrder ho) horder, Eq.trans (f.same .fence hf) hfence⟩
  · have hstill : (t.chan c).still = (s.chan c).still := f.same .channels hc c
    obtain ⟨h1, h2, h3, h4, hw, hq, hp⟩ := Chan.still_start hstill
    rw [h1, h2, h3, h4, hw, hq, hp, State.armed, Eq.trans (f.same .missStates hm) rfl]
    exact hchan c
  · rw [f.brk_eq hb]
    exact hbrk k
  · rw [f.same .requests hr k]
    exact hline k

theorem State.stopAll_plan (s : State) : s.stopAll.plan = s.plan := by
  have hcheck : s.stopped.checkFence.plan = s.stopped.plan := by unfold State.checkFence; split <;> rfl
  have hstopped : s.stopped.plan = s.clearAll.plan :=
    (foldl_keeps State.plan dropRequest (fun _ _ => rfl) _ _).trans (foldl_keeps State.plan stopChan (fun _ _ => rfl) _ _)
  rw [State.stopAll_eq, hcheck, hstopped]
  exact foldl_keeps State.plan State.clearSection (fun _ _ => rfl) _ _

/-- An answer leaves what is ready at the PLAN requester there. -/
theorem State.finish_planHas {b : PlanBurst} (r : ResultCode) (h : s.planHas b) : (s.finish r).planHas b := by
  unfold State.finish State.finishWith
  rcases h with h | h
  · left
    dsimp only
    split
    · simp [h]
    · exact h
  · exact .inr h

/-- Settles O51: the stop of a swap and of a QUIESCE. -/
theorem flushedThenStopped : Obligations.FlushedThenStopped := by
  intro s hreset hresults
  have hstopped := s.stopAll_allStopped
  refine ⟨fun n hstage => ?_, fun hstage => ?_⟩
  · have hflushed : s.flushed = some n := by simp [State.flushed, hstage, hresults]
    have hstop : s.swapStop = s.stopAll.setStage (.draining n) := by rw [State.swapStop, hflushed]
    have hexec : exec .swapChannelStop s = .next (s.stopAll.setStage (.draining n)).settle := by
      rw [← hstop]
      exact exec_effect rfl rfl hreset (by simp [State.effect, hflushed])
    refine ⟨_, hexec, hstopped.frame (State.setStage_frame _ _).settled rfl, ?_, by rw [← hstop]; exact s.swapStop_frame.settled⟩
    obtain ⟨c, hc, -⟩ := Option.map_eq_some_iff.mp hstage
    rw [State.settle_stage, State.stage, State.setStage_change (by rw [State.stopAll_plan]; exact hc)]
    rfl
  · have hquiesced : s.quiesced = true := by simp [State.quiesced, hstage, hresults]
    have hexec : exec .quiesceStop s = .next s.haltPart.settle := exec_effect rfl rfl hreset hquiesced
    obtain ⟨c, hc, -⟩ := Option.map_eq_some_iff.mp hstage
    have hframe : Frame [.partState, .change] s.stopAll s.haltPart :=
      (((State.setPartState_frame _ _).wide rfl).trans ((State.mark_frame _ _).wide rfl)).trans
        (((State.writeState_frame _).wide rfl).trans ((State.finish_frame _ _).wide rfl))
    have hwritten : State.planHas (((s.stopAll.setPartState .halted).mark 0).writeState) (.stateField .halted) :=
      .inl (by simp [State.writeState, State.planOut, State.setPartState])
    refine ⟨_, hexec, hstopped.frame hframe.settled rfl, ?_, State.settle_answered _ _ _ _ (State.finish_answered _ _ ?_),
      State.settle_planHas _ _ (State.finish_planHas _ hwritten), s.haltPart_frame.settled⟩
    · rw [State.settle_partState, State.haltPart, (State.finish_frame _ _).same .partState rfl]
      rfl
    · show s.stopAll.plan.change.isSome = true
      rw [State.stopAll_plan, hc]
      rfl

end Sys2Proof.Machine
end


section
/-! PROOFS. Clip lines at the playout unit (chapter 04), and the free-run times of the programme tracker (chapter 03). -/

namespace Sys2Proof.Machine

variable {s t u v : State}

/-! ### Lines of a clip or list (R60, R64) -/

theorem State.endClip_spec {f : ClipFetch} (hport : s.arb.port = some (.clip f)) (err : Bool) :
    (s.endClip f err).plan.memErrors = s.errorsAfter err ∧
      (s.endClip f err).logNow = s.logged (s.errorRecords .clip f.addr f.detail2 err) ∧ Frame errorParts s (s.endClip f err) ∧
      (s.endClip f err).playout = s.playout := by
  have hreads := s.complete_read_frame err (show s.portCells = [] by simp [State.portCells, hport])
  obtain ⟨hlog, herrors⟩ := State.errorEnd s (s.complete err) .clip f.addr f.detail2 err hreads rfl
  refine ⟨herrors, hlog, ?_, ?_⟩
  · exact Frame.ite ((hreads.wide rfl).trans (State.burstError_frame _ _ _ _)) (hreads.wide rfl)
  · unfold State.endClip
    split <;> rfl

theorem State.chan_of_playout (h : t.playout = s.playout) (c : Fin 4) : t.chan c = s.chan c := by
  rw [State.chan, h, State.chan]

theorem State.fetchCurrent_iff (s : State) (f : ClipFetch) :
    s.fetchCurrent f = true ↔ (s.chan f.ch).st.live = true ∧ (s.chan f.ch).useNo = f.useNo := by
  simp [State.fetchCurrent]

theorem State.fetchCurrent_playout (h : t.playout = s.playout) (f : ClipFetch) : t.fetchCurrent f = s.fetchCurrent f := by
  rw [State.fetchCurrent, State.chan_of_playout h, State.fetchCurrent]

/-- What of a channel's slot the end of a command leaves (R64). -/
theorem Chan.slot_still {a b : Chan} (h : a.still = b.still) (x : Int) : (a.slot x).still = (b.slot x).still := by
  simp only [Chan.still, Chan.mk.injEq] at h
  obtain ⟨-, -, -, -, -, -, -, -, -, -, -, -, -, -, -, -, -, hw, -⟩ := h
  have := congrArg (fun w => w.get (slotNo x)) hw
  simpa [Chan.slot] using this

theorem Chan.slot_set (ch : Chan) (x : Int) (sl : Slot) :
    Chan.slot { ch with window := ch.window.set (slotNo x) sl } x = sl := by simp [Chan.slot]

theorem Slot.st_of_still {a b : Slot} (h : a.still = b.still) (he : b.st ≠ .empty) (hf : b.st ≠ .fetching) : a.st = b.st := by
  have hst : (if a.st = .fetching then .empty else a.st) = if b.st = .fetching then .empty else b.st := congrArg Slot.st h
  rw [if_neg hf] at hst
  split at hst
  · exact absurd hst.symm he
  · exact hst

theorem Slot.lines_of_still {a b : Slot} (h : a.still = b.still) : a.lines = b.lines := by
  have hl : a.still.lines = b.still.lines := congrArg Slot.lines h
  exact hl

theorem Chan.blockLine_other {ch : Chan} {x : Int} (h : (ch.slot x).idx ≠ some x ∨ (ch.slot x).st ≠ .fetching) (err : Bool)
    (line : List Byte) : ch.blockLine x err line = ch := by
  unfold Chan.blockLine
  dsimp only
  rw [if_neg]
  rcases h with h | h <;> simp [h]

/-- A slot that fetches, once a line of its block has come (R64). -/
def Slot.took (sl : Slot) (err : Bool) (line : List Byte) : Slot :=
  if err then { sl with st := .bad, lines := [] }
  else { sl with lines := sl.lines ++ [line], st := if sl.lines.length = 2 then .ready else .fetching }

theorem Chan.blockLine_fetched {ch : Chan} {x : Int} (hi : (ch.slot x).idx = some x) (hst : (ch.slot x).st = .fetching)
    (err : Bool) (line : List Byte) :
    ch.blockLine x err line = { ch with window := ch.window.set (slotNo x) ((ch.slot x).took err line) } := by
  unfold Chan.blockLine
  dsimp only
  rw [if_pos (by simp [hi, hst])]
  rfl

theorem Slot.took_ready {sl : Slot} (h : sl.lines.length = 2) (line : List Byte) : (sl.took false line).st = .ready :=
  if_pos h

theorem Slot.took_bad (sl : Slot) (line : List Byte) : (sl.took true line).st = .bad := rfl

theorem State.setChan_self (s : State) (c : Fin 4) : Frame [] s (s.setChan c (s.chan c)) := by
  refine (State.setChan_frame s c (s.chan c)).drop fun d => ?_
  by_cases h : c = d
  · subst h; simp
  · simp [h]

/-- Settles O44: the two kinds of lines, each for a use that is over and for the use that fetches. -/
theorem clipLinesComplete : Obligations.ClipLinesComplete := by
  intro err f s hreset hport
  have hon : s.clipOnPort = some f := by simp [State.clipOnPort, hport]
  obtain ⟨herrors, hlog, hend, hplay⟩ := State.endClip_spec hport err
  have hchan := State.chan_of_playout hplay
  have hcurrent := State.fetchCurrent_playout hplay f
  refine ⟨fun x j hwhat => ?_, fun k hwhat => ?_⟩
  · have hblock : f.blockOf = some (x, j) := by simp [ClipFetch.blockOf, hwhat]
    have hexec : exec (.clipBlockLineComplete err) s = .next (s.clipLineRead err).settle :=
      exec_effect rfl rfl hreset (by simp [State.effect, hon, hblock])
    have hread : s.clipLineRead err = if s.fetchCurrent f then (s.endClip f err).setChan f.ch
        ((s.chan f.ch).blockLine x err (Memory.bytes s.mem f.addr 64)) else s.endClip f err := by
      rw [State.clipLineRead, hon]
      dsimp only
      rw [hblock]
      dsimp only
      rw [hcurrent, hchan]
    have hdetail : f.detail2 = w2 (f.ch.val + 256) (x % 65536).toNat := by simp [ClipFetch.detail2, hwhat]
    rw [hdetail] at hlog
    refine ⟨_, hexec, ?_, ?_, fun hstale => ?_, fun hlive huse hidx hst => ?_⟩
    · rw [State.settle_memErrors, hread, ← herrors]
      split <;> rfl
    · rw [State.settle_logNow, hread, ← hlog]
      split <;> rfl
    · rw [hread]
      split
      · rename_i hcur
        obtain ⟨hl, hu⟩ := (s.fetchCurrent_iff f).mp hcur
        have hslot : ((s.chan f.ch).slot x).idx ≠ some x ∨ ((s.chan f.ch).slot x).st ≠ .fetching := by
          rcases hstale with h | h | h | h
          · exact absurd hl (by simp [h])
          · exact absurd hu h
          · exact .inl h
          · exact .inr h
        rw [Chan.blockLine_other hslot, ← hchan]
        exact (hend.trans ((State.setChan_self _ _).wide rfl)).settled
      · exact hend.settled
    · rw [if_pos ((s.fetchCurrent_iff f).mpr ⟨hlive, huse⟩), Chan.blockLine_fetched hidx hst] at hread
      have hstill : ((s.clipLineRead err).settle.chan f.ch).still = _ := State.settle_still _ _
      rw [hread, State.chan_setChan] at hstill
      have hslot := Chan.slot_still hstill x
      rw [Chan.slot_set] at hslot
      rw [hread]
      refine ⟨fun he => ?_, fun he => ?_, fun he hlen => ?_, fun sl hsl => ?_, fun c hc => ?_, ?_⟩
      · subst he
        have hbad := Slot.took_bad ((s.chan f.ch).slot x) (Memory.bytes s.mem f.addr 64)
        exact (Slot.st_of_still hslot (by rw [hbad]; nofun) (by rw [hbad]; nofun)).trans hbad
      · subst he
        exact Slot.lines_of_still hslot
      · subst he
        have hready := Slot.took_ready hlen (Memory.bytes s.mem f.addr 64)
        exact (Slot.st_of_still hslot (by rw [hready]; nofun) (by rw [hready]; nofun)).trans hready
      · subst hsl
        exact hstill
      · rw [State.settle_still, State.chan_setChan_ne _ _ (Ne.symm hc), hchan]
      · exact ((hend.wide rfl).trans ((State.setChan_frame _ _ _).wide rfl)).settled
  · have hlist : f.listOf = some k := by simp [ClipFetch.listOf, hwhat]
    have hexec : exec (.listLineReadComplete err) s = .next (s.listLineRead err).settle :=
      exec_effect rfl rfl hreset (by simp [State.effect, hon, hlist])
    have hread : s.listLineRead err = if s.fetchCurrent f then ((s.endClip f err).setChan f.ch
        ((s.chan f.ch).listLine k (if err then none else some (Memory.bytes s.mem f.addr 64)))).walk f.ch else s.endClip f err := by
      rw [State.listLineRead, hon]
      dsimp only
      rw [hlist]
      dsimp only
      rw [hcurrent, hchan]
    have hdetail : f.detail2 = w4 f.ch.val 0 0 0 := by simp [ClipFetch.detail2, hwhat]
    rw [hdetail] at hlog
    refine ⟨_, hexec, fun hstale => ?_, fun hlive huse => ?_⟩
    · have hno : ¬s.fetchCurrent f = true := by
        rw [State.fetchCurrent_iff]
        rcases hstale with h | h <;> simp [h]
      rw [hread, if_neg hno]
      exact ⟨by rw [State.settle_memErrors, herrors], by rw [State.settle_logNow, hlog], hend.settled⟩
    · rw [hread, if_pos ((s.fetchCurrent_iff f).mpr ⟨hlive, huse⟩)]
      refine ⟨_, (hend.wide rfl).trans ((State.setChan_frame _ _ _).wide rfl), herrors, hlog, fun c hc => ?_, ?_,
        State.settle_frame _⟩
      · rw [State.chan_setChan_ne _ _ (Ne.symm hc), hchan]
      · rw [State.chan_setChan]
        rfl

/-! ### The watchdog, the free-run times, the reference regained (R48 to R50) -/

theorem State.referenceGone_frame (s : State) : Frame [.timing, .logQueue, .lostCount] s s.referenceGone := by
  have hgone : Frame [.timing] s { s with tracker := { s.tracker with timing := .freeRun, watchdog := none } } :=
    timing_frame s (fun t => { t with timing := .freeRun, watchdog := none }) rfl
  unfold State.referenceGone
  split
  · exact (hgone.wide rfl).trans ((State.log_frame _ _ _ _ _).wide rfl)
  · exact hgone.wide rfl

theorem State.referenceGone_logNow {p : Fin 6} (h : s.tracker.reference = some p) : s.referenceGone.logNow =
    s.logged [s.record .referenceLost p.val (w2 (s.prog p).head (s.prog p).gen) (wNat ((s.prog p).lastAdvance / 1000))] := by
  have hgone : Frame [.timing] s { s with tracker := { s.tracker with timing := .freeRun, watchdog := none } } :=
    timing_frame s (fun t => { t with timing := .freeRun, watchdog := none }) rfl
  rw [State.referenceGone, h]
  exact (State.log_logNow _ _ _ _ _).trans (hgone.logged rfl _)

/-- The state in which the reference has been regained, before the block-time event (R49). -/
def State.regained (s : State) (p : Fin 6) : State :=
  let s1 := s.log .referenceRegained p.val (s.prog p).headWord (w2 s.tracker.freeCount 0)
  { s1 with tracker := { s1.tracker with timing := .locked, nextFree := none } }

theorem State.headAdvance_regained {p : Fin 6} (n : Nat) (href : s.tracker.reference = some p)
    (hfree : s.tracker.timing = .freeRun) : s.headAdvance p n = ((s.setHead p n).regained p).lockedAdvance := by
  rw [State.headAdvance, if_pos href, hfree]
  rfl

theorem State.regained_frame (s : State) (p : Fin 6) : Frame [.timing, .logQueue, .lostCount] s (s.regained p) :=
  ((State.log_frame s .referenceRegained p.val (s.prog p).headWord (w2 s.tracker.freeCount 0)).wide rfl).trans
    ((timing_frame _ (fun t => { t with timing := .locked, nextFree := none }) rfl).wide rfl)

theorem State.regained_logNow (s : State) (p : Fin 6) : (s.regained p).logNow =
    s.logged [s.record .referenceRegained p.val (w2 (s.prog p).head (s.prog p).gen) (w2 s.tracker.freeCount 0)] :=
  State.log_logNow s _ _ _ _

/-- Settles O42: each event of the timing record falls between what precedes block time and what follows it. -/
theorem freeRunTiming : Obligations.FreeRunTiming := by
  refine ⟨fun p d s hreset hlock hdog hnow href => ?_, fun d s hreset hfree hnext hnow => ?_,
    fun err e rest p s htakes hkind hwatch hline hword hfree href => ?_⟩
  · have hexec : exec .watchdogExpiry s = .next s.loseReference.settle :=
      exec_effect rfl rfl hreset (by simp [State.effect, State.watchdogDue, hlock, hdog, reached, hnow])
    have hblock : Same .timing s.referenceGone s.referenceGone.blockTime := (State.blockTime_frame _).same .timing rfl
    obtain ⟨hr, htiming, hw, -, -⟩ := hblock
    rw [State.referenceGone_tracker] at hr htiming hw
    rw [State.loseReference_eq] at hexec
    refine ⟨_, s.referenceGone, hexec, s.referenceGone_frame,
      (timing_frame _ (fun t => { t with freeCount := 1, nextFree := some (s.now + freeRunPeriod) }) rfl).settled,
      State.referenceGone_logNow href, ?_, ?_, ?_, ?_, ?_⟩
    · rw [State.settle_timing]; exact htiming
    · rw [State.settle_watchdog]; exact hw
    · rw [State.settle_freeCount]
    · rw [State.settle_nextFree]; rfl
    · rw [State.settle_reference]; exact hr.trans href
  · have hexec : exec .freeRunTime s = .next s.freeRunEvent.settle :=
      exec_effect rfl rfl hreset (by simp [State.effect, State.freeRunDue, hfree, hnext, reached, hnow])
    obtain ⟨hr, htiming, hw, hn, hc⟩ : Same .timing s s.blockTime := (State.blockTime_frame _).same .timing rfl
    refine ⟨_, hexec, (timing_frame s.blockTime (fun t => { t with
      freeCount := bump t.freeCount, nextFree := t.nextFree.map (· + freeRunPeriod) }) rfl).settled, ?_, ?_, ?_, ?_, ?_⟩
    · rw [State.settle_timing]; exact htiming.trans hfree
    · rw [State.settle_freeCount]; exact congrArg bump hc
    · rw [State.settle_nextFree]; exact (congrArg (Option.map (· + freeRunPeriod)) (hn.trans hnext))
    · rw [State.settle_reference]; exact hr
    · rw [State.settle_watchdog]; exact hw
  · have hlast := (coversLast_iff (s.prog p).base e.burst).mpr ⟨hline, hword⟩
    have hexec := exec_writeTaken_headAdvance err htakes hkind hlast
    rw [State.headAdvance_regained _ (by simpa using href) (by simpa using hfree)] at hexec
    generalize hn : (e.burst.addr - (s.prog p).base) / 192 = n at hexec
    have hmoved := s.setHead_headEnded_frame e p err n
    have htracker : ((s.headEnded e err).setHead p n).tracker =
        { s.tracker with progs := ((s.headEnded e err).setHead p n).tracker.progs } := by
      simp [State.setHead]
    have hprog : ((s.headEnded e err).setHead p n).prog p =
        { s.prog p with head := n, gen := ((s.prog p).gen + 1) % 65536, lastAdvance := s.now } := by
      rw [State.setHead_prog, if_pos rfl, State.headEnded_prog, State.headEnded_now]
      rfl
    generalize hv : (s.headEnded e err).setHead p n = v at hexec hmoved htracker hprog
    have hlogV : v.logNow = s.logged (s.lostRecords e err) := by
      rw [← hv, (State.setHead_frame _ p n).logNow rfl rfl, State.headEnded_logNow]
    obtain ⟨hr, htiming, hw, hnext, hc⟩ : Same .timing (v.regained p) (v.regained p).blockTime :=
      (State.blockTime_frame _).same .timing rfl
    have hend : Frame [.queue] (v.regained p).lockedAdvance ((v.regained p).lockedAdvance.headDone e) :=
      State.headDone_frame_unwatched _ hwatch
    obtain ⟨hr', ht', hw', hn', hc'⟩ := hend.same .timing rfl
    obtain ⟨htiming', hnext', hcount'⟩ := (v.regained p).lockedAdvance_timing
    have hnow : v.now = s.now := hmoved.same .timebase rfl
    refine ⟨_, v.regained p, hexec, (hmoved.wide rfl).trans ((v.regained_frame p).wide rfl),
      (State.lockedAdvance_blockTime_frame _).append hend, hprog, ?_, ?_, ?_, ?_, ?_, ?_⟩
    · rw [State.regained_logNow, hmoved.logged_append rfl _ _ hlogV, hprog, htracker]
      simp only [State.record, hnow]
    · rw [hr']
      exact hr.trans ((congrArg Tracker.reference htracker).trans href)
    · rw [ht', htiming']
      rfl
    · rw [hn', hnext']
      rfl
    · rw [hw', State.lockedAdvance_watchdog]
      exact congrArg (fun n => some (n + 4000)) hnow
    · rw [hc', hcount']
      have hcount : v.tracker.freeCount = s.tracker.freeCount := by rw [htracker]
      exact hcount

end Sys2Proof.Machine
end

section
/-! PROOFS. The incident lines: a change of an input by the state of its line, and the actions of a line that becomes ACTIVE. -/

namespace Sys2Proof.Machine

variable {s t u : State} {k : Fin 6}

/-! ### What a request and a withdrawal leave of the other lines -/

theorem Frame.still_line {l : List Part} (h : Frame l s t) (hl : Part.within [.lines] l = false) (i : Fin 6) :
    (t.line i).still = (s.line i).still := h.same .lines hl i

theorem State.setLine_still (s : State) (l : LineRec) {i : Fin 6} (h : i ≠ k) :
    ((s.setLine k l).line i).still = (s.line i).still := by
  rw [State.line_setLine_ne _ _ (Ne.symm h)]

theorem State.putLine_still (s : State) (l : LineRec) {i : Fin 6} (h : i ≠ k) :
    ((s.putLine k l).line i).still = (s.line i).still := by
  rw [State.putLine_line_ne _ _ (Ne.symm h)]

/-- A request changes of the other lines their request status alone. -/
theorem State.requestBreakin_still (s : State) (k : Fin 6) (j : Fin 3) {i : Fin 6} (h : i ≠ k) :
    ((s.requestBreakin k j).line i).still = (s.line i).still := by
  unfold State.requestBreakin
  dsimp only
  split
  · rename_i c a m p rep _
    have hset := s.setLine_still { s.line k with reqChannel := toFin? 4 c } h
    have hask (r : ReqStatus) := ((State.lineRequest_frame (s.setLine k { s.line k with reqChannel := toFin? 4 c }) k c a m p
      rep).trans ((State.setRequest_frame _ k r).wide rfl)).still_line rfl i
    split
    · rw [State.logRefusedAction, State.line_log]
      exact (hask _).trans hset
    · exact (hask _).trans hset
  · rfl

theorem State.rerequest_still (s : State) (k : Fin 6) {i : Fin 6} (h : i ≠ k) :
    ((s.rerequest k).line i).still = (s.line i).still := by
  unfold State.rerequest
  dsimp only
  split
  · split
    · exact s.requestBreakin_still k _ h
    · rfl
  · rfl

theorem handleAction_still (s : State) (k : Fin 6) (j : Fin 3) {i : Fin 6} (h : i ≠ k) :
    ((handleAction k s j).line i).still = (s.line i).still := by
  have hlog (a : Action) (n : Nat) : ((s.logRefusedAction k j.val a n).line i).still = (s.line i).still := by
    rw [State.logRefusedAction, State.line_log]
  unfold handleAction
  dsimp only
  split
  · rfl
  · split
    · split
      · exact s.requestBreakin_still k j h
      · rfl
    · exact hlog _ _
  · split
    · rfl
    · exact hlog _ _
  · split
    · rfl
    · exact hlog _ _
  · exact hlog _ _

theorem handleActions_still (s : State) (k : Fin 6) (js : List (Fin 3)) {i : Fin 6} (h : i ≠ k) :
    ((js.foldl (handleAction k) s).line i).still = (s.line i).still := by
  induction js generalizing s with
  | nil => rfl
  | cons j js ih => exact (ih _).trans (handleAction_still s k j h)

/-- A withdrawal changes of the other lines their request status alone (R155). -/
theorem State.withdrawLine_still (s : State) (k : Fin 6) {i : Fin 6} (h : i ≠ k) :
    ((s.withdrawLine k).line i).still = (s.line i).still := by
  have hput := s.putLine_still { s.line k with state := .quiet, deadline := none } h
  unfold State.withdrawLine
  dsimp only
  rw [State.putLine_still _ _ h]
  split
  · split
    · exact ((State.withdrawRequest_frame _ k _).still_line rfl i).trans hput
    · exact hput
  · exact hput

/-! ### A line's record replaced, and LINE_STATE -/

/-- A line's record replaced, its request status kept. -/
theorem State.setLine_frame_kept (s : State) (k : Fin 6) (l : LineRec) (h : l.request = (s.line k).request) :
    Frame [.lines] s (s.setLine k l) := by
  refine (((s.setLine_frame k l).mono ?_ : Frame [.requests, .lines] s _)).drop fun i => ?_
  · intro p hp
    simpa [or_comm] using hp
  · by_cases hi : i = k
    · subst hi
      rw [State.line_setLine]
      exact h
    · rw [State.line_setLine_ne _ _ (Ne.symm hi)]

theorem State.putLine_frame_kept (s : State) (k : Fin 6) (l : LineRec) (h : l.request = (s.line k).request) :
    Frame [.lines] s (s.putLine k l) :=
  (s.setLine_frame_kept k l h).trans ((State.markIf_frame _ _ _).mono nofun)

/-- The record of a change of a line's state (R160). -/
def State.lineRecord (s : State) (k : Fin 6) (l : LineRec) (old : LineState) (cause : LineCause) : LogRec :=
  s.record .lineState k.val
    (w4 old.code l.state.code cause.code ((if l.acked then 1 else 0) + 16 * l.request.code)) 0

theorem State.lineRecord_unacked (s : State) (k : Fin 6) (l : LineRec) (old : LineState) (cause : LineCause)
    (h : l.acked = false) : s.lineRecord k l old cause =
      s.record .lineState k.val (w4 old.code l.state.code cause.code (16 * l.request.code)) 0 := by
  simp [State.lineRecord, h]

theorem State.logLine_after {l : List Part} {es : List LogRec} {old : LineState} {cause : LineCause} (h : Frame l s t)
    (hl : (Part.within [.partState] l || Part.within [.logIndices] l || Part.within [.reportBases] l ||
      Part.within [.timebase] l) = false) (hes : t.logNow = s.logged es) :
    (t.logLine k old cause).logNow = s.logged (es ++ [s.lineRecord k (t.line k) old cause]) := by
  simp only [Bool.or_eq_false_iff] at hl
  obtain ⟨⟨⟨hpart, hidx⟩, hbases⟩, htime⟩ := hl
  have hnow : t.now = s.now := h.same .timebase htime
  rw [State.logLine, State.log_after s t h (by simp [hpart, hidx, hbases]) es hes]
  simp only [State.lineRecord, State.record, hnow]

/-- A line's record replaced and its change of state logged. -/
theorem State.putLine_logLine_logNow (s : State) (k : Fin 6) (l : LineRec) (old : LineState) (cause : LineCause) :
    ((s.putLine k l).logLine k old cause).logNow = s.logged [s.lineRecord k l old cause] := by
  have h := State.logLine_after (k := k) (es := []) (old := old) (cause := cause) (s.putLine_frame k l) rfl (by simp)
  simpa using h

theorem State.putLine_dirty (s : State) (k : Fin 6) (l : LineRec) (hf : s.inForce = true) (h : (s.line k).state ≠ l.state) :
    (s.putLine k l).report.dirty.getLsbD (k.val + 41) = true := by
  have := k.isLt
  have hin : (s.setLine k l).inForce = true := hf
  simp only [State.putLine, State.markIf, hin, bne_iff_ne.mpr h, Bool.true_or, Bool.true_and, if_true, mirrorOfLine,
    BitVec.getLsbD_or, BitVec.getLsbD_twoPow]
  simp
  omega

/-! ### The input (R148) -/

/-- The state in which a line has its raw level recorded. -/
def State.sampled (s : State) (k : Fin 6) (high : Bool) : State := s.setLine k { s.line k with high := high }

variable {high : Bool}

@[simp] theorem State.sampled_line (s : State) (k : Fin 6) (high : Bool) :
    (s.sampled k high).line k = { s.line k with high := high } := State.line_setLine _ _ _

theorem State.sampled_line_ne (s : State) (high : Bool) {i : Fin 6} (h : i ≠ k) : (s.sampled k high).line i = s.line i :=
  State.line_setLine_ne _ _ (Ne.symm h)

theorem State.sampled_frame (s : State) (k : Fin 6) (high : Bool) : Frame [.lines] s (s.sampled k high) :=
  s.setLine_frame_kept k _ rfl

theorem State.inputChange_disabled (s : State) (k : Fin 6) (high : Bool) (h : (s.line k).enabled = false) :
    s.inputChange k high = s.sampled k high := by
  simp [State.inputChange, h, State.sampled]

theorem State.inputChange_enabled (s : State) (k : Fin 6) (high : Bool) (h : (s.line k).enabled = true) :
    s.inputChange k high = (s.sampled k high).lineInput k := by
  simp [State.inputChange, h, State.sampled]

theorem LineRec.inputActive_iff (l : LineRec) : l.inputActive = true ↔ l.high ≠ l.activeLow := by
  simp [LineRec.inputActive]

theorem LineRec.inputActive_false (l : LineRec) : l.inputActive = false ↔ l.high = l.activeLow := by
  simp [LineRec.inputActive]

section
variable (s)

theorem State.lineInput_rises (h : (s.line k).state = .quiet) (ha : (s.line k).inputActive = true) :
    s.lineInput k = (s.putLine k ((s.line k).evaluated s.now)).logLine k .quiet .input := by
  simp [State.lineInput, h, ha]

theorem State.lineInput_bounces (h : (s.line k).state = .debounce) (ha : (s.line k).inputActive = false) :
    s.lineInput k = ((s.putLine k { s.line k with state := .quiet, deadline := none }).logBounce k
      ((s.line k).deadline.getD s.now - (s.line k).debounce * 1000) (s.line k).debounce).logLine k .debounce .input := by
  simp [State.lineInput, h, ha]

theorem State.lineInput_latches (h : (s.line k).state = .active) (ha : (s.line k).inputActive = false)
    (hack : (s.line k).acked = false) :
    s.lineInput k = (s.putLine k { s.line k with state := .latched }).logLine k .active .input := by
  simp [State.lineInput, h, ha, hack]

theorem State.lineInput_withdraws (h : (s.line k).state = .active) (ha : (s.line k).inputActive = false)
    (hack : (s.line k).acked = true) : s.lineInput k = (s.withdrawLine k).logLine k .active .input := by
  simp [State.lineInput, h, ha, hack]

theorem State.lineInput_again (h : (s.line k).state = .latched) (ha : (s.line k).inputActive = true) :
    s.lineInput k = ((s.putLine k { s.line k with state := .active }).rerequest k).logLine k .latched .input := by
  simp [State.lineInput, h, ha]

end

theorem State.lineInput_still (s : State) (k : Fin 6) {i : Fin 6} (h : i ≠ k) :
    ((s.lineInput k).line i).still = (s.line i).still := by
  unfold State.lineInput
  dsimp only
  split
  · rw [State.logLine_line, State.putLine_still _ _ h]
  · rw [State.logLine_line, State.logBounce, State.line_log, State.putLine_still _ _ h]
  · split
    · rw [State.logLine_line, State.withdrawLine_still _ _ h]
    · rw [State.logLine_line, State.putLine_still _ _ h]
  · rw [State.logLine_line, State.rerequest_still _ _ h, State.putLine_still _ _ h]
  · rfl

theorem State.lineInput_high (s : State) (k : Fin 6) : ((s.lineInput k).line k).high = (s.line k).high := by
  unfold State.lineInput
  dsimp only
  split
  · rw [State.logLine_line, State.putLine_line, LineRec.evaluated]
    split <;> rfl
  · rw [State.logLine_line, State.logBounce, State.line_log, State.putLine_line]
  · split
    · rw [State.logLine_line, State.withdrawLine_line]
    · rw [State.logLine_line, State.putLine_line]
  · rw [State.logLine_line, (State.rerequest_line _ k).eq, State.putLine_line]
  · rfl

/-- A line request repeated where the status allows, else not (R153). -/
theorem State.rerequest_none (s : State) (k : Fin 6) (h : (s.line k).request = .running ∨ (s.line k).request = .pending ∨
    (s.line k).firstBreakin = none ∨ ¬s.linesMayRequest) : s.rerequest k = s := by
  unfold State.rerequest
  dsimp only
  rw [LineRec.firstBreakin_eq]
  split
  · refine if_neg fun hyes => ?_
    rw [Bool.and_eq_true, State.breakinOpen_iff] at hyes
    obtain ⟨hopen, hstatus⟩ := hyes
    rcases h with h | h | h | h
    · simp [h] at hstatus
    · simp [h] at hstatus
    · simp_all
    · exact h hopen
  · rfl

theorem State.rerequest_some (s : State) (k : Fin 6) {j : Fin 3}
    (h : (s.line k).request = .none ∨ (s.line k).request = .stopped ∨ (s.line k).request = .refused)
    (hj : (s.line k).firstBreakin = some j) (hopen : s.linesMayRequest) : s.rerequest k = s.requestBreakin k j := by
  unfold State.rerequest
  dsimp only
  rw [LineRec.firstBreakin_eq, hj]
  refine if_pos ?_
  rw [Bool.and_eq_true, State.breakinOpen_iff]
  refine ⟨hopen, ?_⟩
  rcases h with h | h | h <;> simp [h]

/-- A line's raw level recorded, its record replaced and its change of state logged. -/
theorem State.sampled_put (s : State) (k : Fin 6) (high : Bool) (l : LineRec) (old : LineState) (cause : LineCause)
    (hreq : l.request = (s.line k).request) {t : State} (ht : t = ((s.sampled k high).putLine k l).logLine k old cause) :
    t.settle.line k = l ∧ (∀ i, i ≠ k → t.settle.line i = s.line i) ∧
      t.settle.logNow = s.logged [s.lineRecord k l old cause] ∧ Frame [.lines, .logQueue, .lostCount] s t.settle := by
  have hput := (s.sampled k high).putLine_frame_kept k l (by rw [State.sampled_line]; exact hreq)
  subst ht
  refine ⟨by simp, fun i hi => ?_, ?_, ?_⟩
  · rw [State.settle_line, State.logLine_line, State.putLine_line_ne _ _ (Ne.symm hi), State.sampled_line_ne _ _ hi]
  · rw [State.settle_logNow, State.putLine_logLine_logNow, (s.sampled_frame k high).logged rfl]
    rfl
  · exact ((((s.sampled_frame k high).trans hput).wide rfl).trans ((State.logLine_frame _ _ _ _).wide rfl)).settled

/-- Settles O11: an input's change, by the state of its line. -/
theorem inputChangesLine : Obligations.InputChangesLine := by
  intro k high s hreset hne
  have hexec : exec (.inputEvent k high) s = .next (s.inputChange k high).settle :=
    exec_effect rfl rfl hreset (by simpa [State.effect] using hne)
  have hframe : Frame lineParts s (s.inputChange k high).settle := (s.inputChange_frame k high).settled
  have hsampled : (s.sampled k high).line k = { s.line k with high := high } := s.sampled_line k high
  have hactive (h : high ≠ (s.line k).activeLow) : ((s.sampled k high).line k).inputActive = true := by
    rw [LineRec.inputActive_iff, hsampled]
    exact h
  have hquiet (h : high = (s.line k).activeLow) : ((s.sampled k high).line k).inputActive = false := by
    rw [LineRec.inputActive_false, hsampled]
    exact h
  refine ⟨_, hexec, ?_, fun i hi => ?_, fun hoff => ?_, fun hon hst hin => ?_, fun d hon hst hd hin => ?_,
    fun hon hst hin hack => ?_, fun hon hst hin hack => ?_, fun hon hst hin => ?_⟩
  · rw [State.settle_line]
    cases hon : (s.line k).enabled with
    | false => rw [State.inputChange_disabled _ _ _ hon, hsampled]
    | true => rw [State.inputChange_enabled _ _ _ hon, State.lineInput_high, hsampled]
  · rw [State.settle_line]
    cases hon : (s.line k).enabled with
    | false => rw [State.inputChange_disabled _ _ _ hon, State.sampled_line_ne _ _ hi]
    | true => rw [State.inputChange_enabled _ _ _ hon, State.lineInput_still _ _ hi, State.sampled_line_ne _ _ hi]
  · rw [State.inputChange_disabled _ _ _ hoff]
    exact ⟨by rw [State.settle_line, hsampled], fun i hi => by rw [State.settle_line, State.sampled_line_ne _ _ hi],
      (s.sampled_frame k high).settled⟩
  · rw [State.inputChange_enabled _ _ _ hon, State.lineInput_rises _ (by rw [hsampled]; exact hst) (hactive hin)]
    have hnew : ((s.sampled k high).line k).evaluated s.now =
        { s.line k with high := high, state := .debounce, deadline := some (s.now + (s.line k).debounce * 1000),
                        acked := false } := by
      rw [LineRec.evaluated, if_pos (by rw [hactive hin, hsampled]; simp [hon]), hsampled]
    obtain ⟨hline, hother, hlog, hfr⟩ := s.sampled_put k high (((s.sampled k high).line k).evaluated s.now) .quiet .input
      (by rw [hnew]) rfl
    refine ⟨hline.trans hnew, hother, hlog.trans (by rw [hnew, State.lineRecord_unacked _ _ _ _ _ rfl]; rfl), fun hf => State.settle_mirrorDue _ _ (.inl ?_), hfr⟩
    rw [State.logLine, State.log_dirty]
    refine State.putLine_dirty _ k _ hf ?_
    rw [show (s.sampled k high).now = s.now from rfl, hnew, hsampled, hst]
    exact nofun
  · rw [State.inputChange_enabled _ _ _ hon, State.lineInput_bounces _ (by rw [hsampled]; exact hst) (hquiet hin), hsampled]
    have hput := (s.sampled k high).putLine_frame_kept k { s.line k with high := high, state := .quiet, deadline := none }
      (by rw [hsampled])
    have hboth := ((s.sampled_frame k high).trans hput)
    have hbounce : Frame [.lines, .logQueue, .lostCount] s (((s.sampled k high).putLine k
        { s.line k with high := high, state := .quiet, deadline := none }).logBounce k
          ((s.line k).deadline.getD s.now - (s.line k).debounce * 1000) (s.line k).debounce) :=
      (hboth.wide rfl).trans ((State.log_frame _ _ _ _ _).wide rfl)
    have hlog := State.log_after s _ hboth rfl [] (by rw [State.logged_nil]; exact hboth.logNow rfl rfl) .lineBounce k.val
      (wNat (s.now - (d - (s.line k).debounce * 1000))) (wNat (s.line k).debounce)
    have hend := State.logLine_after (k := k) (old := .debounce) (cause := .input) hbounce rfl (by
      rw [State.logBounce, hd]
      exact hlog)
    refine ⟨?_, fun i hi => ?_, ?_, ?_⟩
    · rw [State.settle_line, State.logLine_line, State.logBounce, State.line_log, State.putLine_line]
    · rw [State.settle_line, State.logLine_line, State.logBounce, State.line_log, State.putLine_line_ne _ _ (Ne.symm hi),
        State.sampled_line_ne _ _ hi]
    · rw [State.settle_logNow]
      refine Eq.trans hend ?_
      rw [State.logBounce, State.line_log, State.putLine_line]
      rfl
    · exact (hbounce.trans ((State.logLine_frame _ _ _ _).wide rfl)).settled
  · rw [State.inputChange_enabled _ _ _ hon, State.lineInput_latches _ (by rw [hsampled]; exact hst) (hquiet hin)
      (by rw [hsampled]; exact hack), hsampled]
    obtain ⟨hline, hother, hlog, hfr⟩ := s.sampled_put k high { s.line k with high := high, state := .latched } .active .input
      (by rfl) rfl
    refine ⟨hline, hother, hlog.trans ?_, hfr⟩
    rw [State.lineRecord_unacked s k { s.line k with high := high, state := .latched } _ _ hack]
    rfl
  · rw [State.inputChange_enabled _ _ _ hon] at hframe ⊢
    rw [State.lineInput_withdraws _ (by rw [hsampled]; exact hst) (hquiet hin) (by rw [hsampled]; exact hack)] at hframe ⊢
    have hgone := (s.sampled k high).withdrawLine_line k
    have hlog := State.logLine_after (k := k) (es := []) (old := .active) (cause := .input)
      (Frame.refl [] ((s.sampled k high).withdrawLine k)) rfl (by simp)
    refine ⟨?_, ?_, ?_, hframe, (s.sampled k high).withdrawLine k, rfl, fun i => by rw [State.settle_line, State.logLine_line],
      ?_, (State.logLine_frame _ _ _ _).settled⟩
    · rw [State.settle_line, State.logLine_line, hgone]
    · rw [State.settle_line, State.logLine_line, hgone]
    · rw [State.settle_line, State.logLine_line, hgone]
    · have hnow : ((s.sampled k high).withdrawLine k).now = s.now :=
        Eq.trans ((State.withdrawLine_frame _ k).same .timebase rfl) rfl
      rw [State.settle_logNow, hlog, hgone]
      simp only [State.lineRecord, State.record, hnow]
      rfl
  · rw [State.inputChange_enabled _ _ _ hon] at hframe ⊢
    rw [State.lineInput_again _ (by rw [hsampled]; exact hst) (hactive hin), hsampled] at hframe ⊢
    generalize hl : ({ s.line k with high := high, state := .active } : LineRec) = l at hframe ⊢
    have hreq : l.request = (s.line k).request := by rw [← hl]
    have hfirst : l.firstBreakin = (s.line k).firstBreakin := by rw [← hl]; rfl
    have hack : l.acked = (s.line k).acked := by rw [← hl]
    have hact : l.state = .active := by rw [← hl]
    have hput := (s.sampled k high).putLine_frame_kept k l (by rw [hsampled]; exact hreq)
    have hboth : Frame [.lines] s ((s.sampled k high).putLine k l) := (s.sampled_frame k high).trans hput
    have hline : ((s.sampled k high).putLine k l).line k = l := State.putLine_line _ _ _
    have hsame := ((s.sampled k high).putLine k l).rerequest_line k
    rw [hline] at hsame
    refine ⟨?_, ?_, hframe, fun hno => ?_, fun j hstatus hj hopen => ?_⟩
    · rw [State.settle_line, State.logLine_line, hsame.eq, hact]
    · rw [State.settle_line, State.logLine_line, hsame.eq, hack]
    · rw [State.rerequest_none _ _ (by rw [hline, hreq, hfirst]; exact hno)]
      obtain ⟨hline, hother, hlog, hfr⟩ := s.sampled_put k high l .latched .input hreq rfl
      refine ⟨hline, hother, hlog.trans ?_, hfr⟩
      rw [State.lineRecord, hact, hack, hreq]
      rfl
    · have hagain := State.rerequest_some ((s.sampled k high).putLine k l) k (j := j) (by rw [hline, hreq]; exact hstatus)
        (by rw [hline, hfirst]; exact hj) hopen
      rw [hagain]
      refine ⟨_, _, hline, fun i hi => ?_, hboth, rfl, fun i => by rw [State.settle_line, State.logLine_line], ?_,
        (State.logLine_frame _ _ _ _).settled⟩
      · rw [State.putLine_line_ne _ _ (Ne.symm hi), State.sampled_line_ne _ _ hi]
      · generalize hu : ((s.sampled k high).putLine k l).requestBreakin k j = u
        have hlog := State.logLine_after (k := k) (es := []) (old := .latched) (cause := .input) (Frame.refl [] u) rfl (by simp)
        have hasked : (u.line k).sameLine l := by
          rw [← hline, ← hu]
          exact State.requestBreakin_line _ k j
        have hnow : u.now = s.now := by
          rw [← hu]
          exact Eq.trans ((State.requestBreakin_frame _ k j).same .timebase rfl) (hboth.same .timebase rfl)
        have hst' : (u.line k).state = .active := by rw [hasked.eq, hact]
        have hack' : (u.line k).acked = (s.line k).acked := by rw [hasked.eq, hack]
        rw [State.settle_logNow, hlog]
        simp only [State.lineRecord, State.record, hnow, hst', hack']
        rfl

end Sys2Proof.Machine
end

section
/-! PROOFS. The actions of a line that becomes ACTIVE. -/

namespace Sys2Proof.Machine

variable {s t u : State} {k : Fin 6} {j : Fin 3}

/-- What lines may request depends on the part state and the change in progress alone (R159, R171). -/
theorem State.linesMayRequest_congr (hp : t.plan.partState = s.plan.partState) (hc : t.plan.change = s.plan.change) :
    t.linesMayRequest ↔ s.linesMayRequest := by
  simp only [State.linesMayRequest, State.stage, hp, hc]

theorem Frame.linesMayRequest {l : List Part} (h : Frame l s t)
    (hl : (Part.within [.partState] l || Part.within [.change] l) = false) : t.linesMayRequest ↔ s.linesMayRequest := by
  rw [Bool.or_eq_false_iff] at hl
  exact State.linesMayRequest_congr (h.same .partState hl.1) (h.same .change hl.2)

theorem LineRec.firstBreakin_congr {l m : LineRec} (h : l.actions = m.actions) : l.firstBreakin = m.firstBreakin := by
  have hslot (j : Fin 3) : l.isBreakin j = m.isBreakin j := by
    unfold LineRec.isBreakin
    rw [h]
  simp only [LineRec.firstBreakin, hslot]

theorem LineRec.sameLine.actions {l m : LineRec} (h : l.sameLine m) : l.actions = m.actions := by rw [h.eq]

/-- A refused action's record depends on the line's actions, the groups and the time alone (R150). -/
theorem State.refusedAction_congr (ha : (t.line k).actions = (s.line k).actions) (hg : t.gather.groups = s.gather.groups)
    (hn : t.now = s.now) (j : Fin 3) : t.refusedAction k j = s.refusedAction k j := by
  have hkind (g : Nat) (kind : GroupKind) : t.groupIs g kind = s.groupIs g kind := by
    unfold State.groupIs State.grp
    rw [hg]
  have hrec (kd : LogKind) (n : Nat) (d1 d2 : Word) : t.record kd n d1 d2 = s.record kd n d1 d2 := by
    simp only [State.record, hn]
  simp only [State.refusedAction, ha, hkind, hrec, LineRec.firstBreakin_congr ha]

theorem LineRec.isBreakin_of_first {l : LineRec} (h : l.firstBreakin = some j) : l.isBreakin j = true := by
  unfold LineRec.firstBreakin at h
  split at h
  · cases h; assumption
  · split at h
    · cases h; assumption
    · split at h
      · cases h; assumption
      · cases h

/-- The first BREAKIN is requested where lines may (R150). -/
theorem handleAction_requests (h : (s.line k).firstBreakin = some j) (hopen : s.linesMayRequest) :
    handleAction k s j = s.requestBreakin k j := by
  have hkind := LineRec.isBreakin_of_first h
  unfold LineRec.isBreakin at hkind
  unfold handleAction
  rw [LineRec.firstBreakin_eq]
  cases ha : (s.line k).actions.get j with
  | breakin c a m p r => simp [h, s.breakinOpen_iff.mpr hopen]
  | _ => simp [ha] at hkind

/-- Actions that request no BREAKIN are handled by their records alone (R150). -/
theorem handleActions_records (js : List (Fin 3)) (s : State)
    (h : ∀ j ∈ js, (s.line k).firstBreakin ≠ some j ∨ ¬s.linesMayRequest) :
    Frame [.logQueue, .lostCount] s (js.foldl (handleAction k) s) ∧ (js.foldl (handleAction k) s).lines = s.lines ∧
      (js.foldl (handleAction k) s).logNow = s.logged (js.filterMap fun j => s.refusedAction k j) := by
  induction js generalizing s with
  | nil => exact ⟨Frame.refl _ _, rfl, by simp⟩
  | cons j js ih =>
    obtain ⟨hframe, hlines, hgather, hnow, hlog⟩ := handleAction_records s k j (h j (by simp))
    have hline : (handleAction k s j).line k = s.line k := by rw [State.line, hlines, State.line]
    obtain ⟨hframe', hlines', hlog'⟩ := ih (handleAction k s j) fun i hi => by
      rw [hline, hframe.linesMayRequest rfl]
      exact h i (by simp [hi])
    have hsame (i : Fin 3) : (handleAction k s j).refusedAction k i = s.refusedAction k i :=
      State.refusedAction_congr (by rw [hline]) (by rw [hgather]) hnow i
    refine ⟨hframe.trans hframe', hlines'.trans hlines, hlog'.trans ?_⟩
    rw [hframe.logged_append rfl _ _ hlog]
    simp only [hsame, List.filterMap_cons]
    cases s.refusedAction k j <;> rfl

theorem actions_around (j : Fin 3) : List.finRange 3 =
    ((List.finRange 3).filter fun i => decide (i < j)) ++ j :: ((List.finRange 3).filter fun i => decide (j < i)) := by
  revert j
  decide

/-- The actions in entry order, with one of them in the middle. -/
theorem foldl_actions_around (f : State → Fin 3 → State) (s : State) (j : Fin 3) : (List.finRange 3).foldl f s =
    ((List.finRange 3).filter fun i => decide (j < i)).foldl f
      (f (((List.finRange 3).filter fun i => decide (i < j)).foldl f s) j) := by
  conv_lhs => rw [actions_around j, List.foldl_append, List.foldl_cons]

/-- The state in which a line that becomes ACTIVE handles its actions. -/
def State.risen (s : State) (k : Fin 6) : State := s.putLine k { s.line k with state := .active, deadline := none }

@[simp] theorem State.risen_line (s : State) (k : Fin 6) :
    (s.risen k).line k = { s.line k with state := .active, deadline := none } := State.putLine_line _ _ _

theorem State.risen_line_ne (s : State) {i : Fin 6} (h : i ≠ k) : (s.risen k).line i = s.line i :=
  State.putLine_line_ne _ _ (Ne.symm h)

theorem State.risen_frame (s : State) (k : Fin 6) : Frame [.lines] s (s.risen k) := s.putLine_frame_kept k _ rfl

theorem State.risen_actions (s : State) (k : Fin 6) : ((s.risen k).line k).actions = (s.line k).actions := by
  rw [s.risen_line]

theorem State.risen_refused (s : State) (k : Fin 6) (j : Fin 3) : (s.risen k).refusedAction k j = s.refusedAction k j :=
  State.refusedAction_congr (s.risen_actions k) rfl rfl j

theorem State.risen_first (s : State) (k : Fin 6) : ((s.risen k).line k).firstBreakin = (s.line k).firstBreakin :=
  LineRec.firstBreakin_congr (s.risen_actions k)

theorem State.activateLine_eq (s : State) (k : Fin 6) :
    s.activateLine k = ((List.finRange 3).foldl (handleAction k) (s.risen k)).logLine k .debounce .debounce := rfl

/-- Actions of a line just become ACTIVE that request no BREAKIN. -/
theorem State.risen_records (s : State) (k : Fin 6) (js : List (Fin 3))
    (h : ∀ j ∈ js, (s.line k).firstBreakin ≠ some j ∨ ¬s.linesMayRequest) {v : State}
    (hv : v = js.foldl (handleAction k) (s.risen k)) :
    v.line k = { s.line k with state := .active, deadline := none } ∧ (∀ i, i ≠ k → v.line i = s.line i) ∧
      v.logNow = s.logged (js.filterMap fun j => s.refusedAction k j) ∧ Frame [.lines, .logQueue, .lostCount] s v := by
  obtain ⟨hframe, hlines, hlog⟩ := handleActions_records (k := k) js (s.risen k) fun j hj => by
    rw [s.risen_first, (s.risen_frame k).linesMayRequest rfl]
    exact h j hj
  rw [← hv] at hframe hlines hlog
  have hline (i : Fin 6) : v.line i = (s.risen k).line i := by rw [State.line, hlines, State.line]
  refine ⟨by rw [hline, s.risen_line], fun i hi => by rw [hline, s.risen_line_ne hi], ?_,
    ((s.risen_frame k).wide rfl).trans (hframe.wide rfl)⟩
  rw [hlog, State.risen, s.logged_putLine]
  exact congrArg s.logged (congrArg (fun f => js.filterMap f) (funext fun j => s.risen_refused k j))

/-- The record of a line that becomes ACTIVE. -/
theorem State.lineRecord_risen (h : (u.line k).sameLine { s.line k with state := .active, deadline := none }) :
    s.lineRecord k (u.line k) .debounce .debounce = s.record .lineState k.val
      (w4 1 2 2 ((if (s.line k).acked then 1 else 0) + 16 * (u.line k).request.code)) 0 := by
  have hst : (u.line k).state = .active := by rw [h.eq]
  have hack : (u.line k).acked = (s.line k).acked := by rw [h.eq]
  rw [State.lineRecord, hst, hack]
  rfl

/-- Settles O12: the line ACTIVE, its actions in entry order, split at the one that is requested. -/
theorem debounceExpiryActivates : Obligations.DebounceExpiryActivates := by
  intro k d s hreset hst hd hle
  have hexec : exec (.debounceExpiry k) s = .next (s.activateLine k).settle :=
    exec_effect rfl rfl hreset (by simp [State.effect, State.debounceDue, reached, hst, hd, hle])
  have hsame : ((s.activateLine k).line k).sameLine { s.line k with state := .active, deadline := none } := by
    rw [State.activateLine_eq, State.logLine_line, ← s.risen_line k]
    exact handleActions_line (s.risen k) k (List.finRange 3)
  refine ⟨_, hexec, ?_, ?_, ?_, fun i hi => ?_, (s.activateLine_frame k).settled, fun hno => ?_, fun j hj hopen => ?_⟩
  · rw [State.settle_line, hsame.eq]
  · rw [State.settle_line, hsame.eq]
  · rw [State.settle_line, hsame.eq]
  · rw [State.settle_line, State.activateLine_eq, State.logLine_line, handleActions_still _ _ _ hi, s.risen_line_ne hi]
  · rw [State.activateLine_eq]
    generalize hv : (List.finRange 3).foldl (handleAction k) (s.risen k) = v
    obtain ⟨hline, hother, hlog, hframe⟩ := s.risen_records k (List.finRange 3)
      (fun j _ => hno.imp (fun h => by rw [h]; exact nofun) id) hv.symm
    refine ⟨by rw [State.settle_line, State.logLine_line, hline],
      fun i hi => by rw [State.settle_line, State.logLine_line, hother i hi], ?_,
      (hframe.trans ((State.logLine_frame _ _ _ _).wide rfl)).settled⟩
    have hactive : (v.line k).sameLine { s.line k with state := .active, deadline := none } := by rw [hline]; rfl
    rw [State.settle_logNow, State.logLine_after hframe rfl hlog, State.lineRecord_risen hactive, hline]
  · rw [State.activateLine_eq]
    rw [foldl_actions_around (handleAction k) (s.risen k) j]
    rw [State.activateLine_eq, foldl_actions_around (handleAction k) (s.risen k) j] at hsame
    generalize ha : ((List.finRange 3).filter fun i => decide (i < j)).foldl (handleAction k) (s.risen k) = a at hsame ⊢
    obtain ⟨hline, hother, hlog, hframe⟩ := s.risen_records k ((List.finRange 3).filter fun i => decide (i < j))
      (fun i hi => .inl fun h => by
        rw [hj] at h
        cases h
        simp at hi) ha.symm
    have hfirst : (a.line k).firstBreakin = some j := by
      rw [LineRec.firstBreakin_congr (m := s.line k) (by rw [hline]), hj]
    rw [handleAction_requests hfirst ((hframe.linesMayRequest rfl).mpr hopen)] at hsame ⊢
    have hasked := (a.requestBreakin_frame k j)
    have hactions := (a.requestBreakin_line k j).actions
    have hsameU : ((a.requestBreakin k j).line k).sameLine { s.line k with state := .active, deadline := none } := by
      rw [← hline]
      exact a.requestBreakin_line k j
    generalize hu : a.requestBreakin k j = u at hasked hactions hsameU hsame ⊢
    obtain ⟨hframe', hlines', hlog'⟩ := handleActions_records (k := k)
      ((List.finRange 3).filter fun i => decide (j < i)) u fun i hi => .inl fun h => by
        rw [LineRec.firstBreakin_congr hactions, hfirst] at h
        cases h
        simp at hi
    generalize hv : ((List.finRange 3).filter fun i => decide (j < i)).foldl (handleAction k) u = v at hframe' hlines' hlog' ⊢
    have hrefused (i : Fin 3) : u.refusedAction k i = s.refusedAction k i :=
      State.refusedAction_congr (hactions.trans (by rw [hline]))
        (Eq.trans (hasked.same .groups rfl) (Eq.trans (hframe.same .groups rfl) rfl))
        (Eq.trans (hasked.same .timebase rfl) (Eq.trans (hframe.same .timebase rfl) rfl)) i
    have hlineV (i : Fin 6) : v.line i = u.line i := by rw [State.line, hlines', State.line]
    refine ⟨a, u, hline, hother, hlog, hframe, hu.symm, fun i => by rw [State.settle_line, State.logLine_line, hlineV], ?_,
      (hframe'.trans (State.logLine_frame _ _ _ _)).settled⟩
    have hnow : u.now = s.now := Eq.trans (hasked.same .timebase rfl) (hframe.same .timebase rfl)
    have hrec : u.lineRecord k (v.line k) .debounce .debounce = s.lineRecord k (u.line k) .debounce .debounce := by
      simp only [State.lineRecord, State.record, hnow, hlineV]
    rw [State.settle_logNow, State.logLine_after hframe' rfl hlog', hrec, State.lineRecord_risen hsameU]
    simp only [hrefused]

end Sys2Proof.Machine
end

section
/-! PROOFS. A start that begins on a channel, and the begins as the clip fence reports UP (chapter 04). -/

namespace Sys2Proof.Machine

variable {s t u v : State} {c d e : Fin 4} {st : Start} {k : Fin 24} {p : Nat} {b : BreakRec}

/-! ### Joins as other channels' priorities decide them (R84, R85) -/

/-- A join depends on the priorities of the channels that the record names alone. -/
theorem State.joinRec_of_prios (hp : ∀ d, d ≠ e → (t.chan d).prio = (s.chan d).prio) (ha : b.active ≠ some e)
    (hs : b.suspended ≠ some e) : t.joinRec b c p = s.joinRec b c p ∧ t.mayWait b p = s.mayWait b p := by
  have hwait : t.mayWait b p = s.mayWait b p := by
    unfold State.mayWait
    cases he : b.suspended with
    | none => rfl
    | some x => simp [hp x fun h => hs (h ▸ he)]
  refine ⟨?_, hwait⟩
  unfold State.joinRec
  cases h : b.active with
  | none => rfl
  | some a => simp only [hp a fun x => ha (x ▸ h), hwait]

theorem State.joinLog_of_prios (hp : ∀ d, d ≠ e → (t.chan d).prio = (s.chan d).prio) (hn : t.now = s.now)
    (ha : b.active ≠ some e) (hs : b.suspended ≠ some e) : t.joinLog b c p k = s.joinLog b c p k := by
  have hwait := (State.joinRec_of_prios (c := c) (p := p) hp ha hs).2
  unfold State.joinLog
  cases h : b.active with
  | none => rfl
  | some a =>
    cases he : b.suspended with
    | none => simp [hp a fun x => ha (x ▸ h), hwait, State.record, hn]
    | some y => simp [hp a fun x => ha (x ▸ h), hp y fun h => hs (h ▸ he), hwait, State.record, hn]

/-! ### One begin (R67) -/

/-- What a begin may change, the change in progress apart. -/
def beginParts : List Part := [.channels, .breakIns, .missStates, .logQueue, .lostCount]

/-- The channel's record as its use begins, with the list lines of the walk's first entries requested. -/
def State.prepared (s : State) (c : Fin 4) (st : Start) : State :=
  ((s.putChan c ((s.chan c).begun st (s.alignRow (s.chan c).defaults.ramp))).requestLine c 0).requestLine c 1

/-- A use begun, before a host's change is answered. -/
def State.begunUse (s : State) (c : Fin 4) (st : Start) (o : ChanState) (u : ChanCause) : State :=
  ((s.prepared c st).join c st.mask st.prio).logChan c o u

theorem State.beginNow_eq (s : State) (c : Fin 4) (st : Start) (o : ChanState) (u : ChanCause) :
    s.beginNow c st o u = if st.reply then (s.begunUse c st o u).finish .done else s.begunUse c st o u := rfl

theorem State.prepared_frame (s : State) (c : Fin 4) (st : Start) : Frame [.channels] s (s.prepared c st) :=
  ((s.putChan_frame c _).trans (State.requestLine_frame _ c 0)).trans (State.requestLine_frame _ c 1)

theorem State.begunUse_frame (s : State) (c : Fin 4) (st : Start) (o : ChanState) (u : ChanCause) :
    Frame beginParts s (s.begunUse c st o u) :=
  (((s.prepared_frame c st).wide rfl).trans ((State.join_frame _ c _ _).wide rfl)).trans
    ((State.logChan_frame _ _ _ _).wide rfl)

theorem State.beginNow_frame_change (s : State) (c : Fin 4) (st : Start) (o : ChanState) (u : ChanCause) :
    Frame (.change :: beginParts) s (s.beginNow c st o u) := by
  rw [State.beginNow_eq]
  split
  · exact ((s.begunUse_frame c st o u).wide rfl).trans ((State.finish_frame _ _).wide rfl)
  · exact (s.begunUse_frame c st o u).wide rfl

theorem State.requestLine_chan_ne (s : State) (k : Nat) (h : d ≠ c) : (s.requestLine c k).chan d = s.chan d := by
  unfold State.requestLine
  dsimp only
  split
  · rw [State.chan_setChan_ne _ _ (Ne.symm h)]
  · rfl

theorem State.prepared_chan_ne (s : State) (st : Start) (h : d ≠ c) : (s.prepared c st).chan d = s.chan d := by
  rw [State.prepared, State.requestLine_chan_ne _ _ h, State.requestLine_chan_ne _ _ h, State.putChan_chan_ne _ _ (Ne.symm h)]

theorem State.begunUse_chan (s : State) (c d : Fin 4) (st : Start) (o : ChanState) (u : ChanCause) :
    (s.begunUse c st o u).chan d = (s.prepared c st).chan d := by
  rw [State.begunUse, State.logChan_chan, State.join_chan]

theorem State.beginNow_chan (s : State) (c d : Fin 4) (st : Start) (o : ChanState) (u : ChanCause) :
    (s.beginNow c st o u).chan d = (s.prepared c st).chan d := by
  rw [State.beginNow_eq]
  split
  · rw [State.finish, State.chan_finishWith, State.begunUse_chan]
  · rw [State.begunUse_chan]

theorem State.beginNow_chan_ne (s : State) (st : Start) (o : ChanState) (u : ChanCause) (h : d ≠ c) :
    (s.beginNow c st o u).chan d = s.chan d := by
  rw [State.beginNow_chan, State.prepared_chan_ne _ _ h]

theorem Chan.waits_of_still {a b : Chan} (h : a.still = b.still) :
    a.queued = b.queued ∧ a.pending = b.pending ∧ a.waiting = b.waiting := by
  simp only [Chan.still, Chan.mk.injEq] at h
  tauto

/-- What waits for the channel stays, but for the begin itself. -/
theorem State.prepared_waits (s : State) (c : Fin 4) (st : Start) :
    ((s.prepared c st).chan c).queued = (s.chan c).queued ∧ ((s.prepared c st).chan c).pending = (s.chan c).pending ∧
      ((s.prepared c st).chan c).waiting = none := by
  have hstill : ((s.prepared c st).chan c).still = ((s.chan c).begun st (s.alignRow (s.chan c).defaults.ramp)).still := by
    rw [State.prepared, State.requestLine_still, State.requestLine_still, State.putChan_chan]
  exact Chan.waits_of_still hstill

theorem State.beginNow_waits (s : State) (c : Fin 4) (st : Start) (o : ChanState) (u : ChanCause) :
    ((s.beginNow c st o u).chan c).queued = (s.chan c).queued ∧ ((s.beginNow c st o u).chan c).pending = (s.chan c).pending ∧
      ((s.beginNow c st o u).chan c).waiting = none := by
  rw [State.beginNow_chan]
  exact s.prepared_waits c st

theorem State.beginNow_line (s : State) (c : Fin 4) (st : Start) (o : ChanState) (u : ChanCause) (i : Fin 6) :
    (s.beginNow c st o u).line i = s.line i := (s.beginNow_frame_change c st o u).line_eq rfl rfl i

theorem State.prog_of_same (h : t.tracker.progs = s.tracker.progs) (p : Fin 6) : t.prog p = s.prog p := by
  simp only [State.prog, h]

/-- A section's record after a begin. -/
theorem State.beginNow_brk (s : State) (c : Fin 4) (st : Start) (o : ChanState) (u : ChanCause) (k : Fin 24) :
    (s.beginNow c st o u).brk k = if has st.mask k && (s.sec k).state != .disabled
      then (s.prepared c st).joinRec (s.brk k) c st.prio else s.brk k := by
  have hprep := s.prepared_frame c st
  obtain ⟨-, -, -, -, -, -, hbrk, -⟩ := (s.prepared c st).join_spec c st.mask st.prio _ rfl
  have hbegun : (s.beginNow c st o u).brk k = ((s.prepared c st).join c st.mask st.prio).brk k := by
    rw [State.beginNow_eq]
    split <;> rfl
  rw [hbegun, hbrk k, hprep.brk_eq rfl, hprep.sec_eq rfl]

theorem State.beginNow_logNow (s : State) (c : Fin 4) (st : Start) (o : ChanState) (u : ChanCause) :
    (s.beginNow c st o u).logNow =
      s.logged ((s.prepared c st).joinRecords s.brk c st ++ [s.beginRecord c st o u.code]) := by
  have hprep := s.prepared_frame c st
  obtain ⟨-, -, -, -, -, -, -, hlog⟩ := (s.prepared c st).join_spec c st.mask st.prio _ rfl
  have hbegun : (s.beginNow c st o u).logNow = (s.begunUse c st o u).logNow := by
    rw [State.beginNow_eq]
    split
    · exact (State.finish_frame _ _).logNow rfl rfl
    · rfl
  have hjoin : Frame (.channels :: mixParts) s ((s.prepared c st).join c st.mask st.prio) :=
    (hprep.wide rfl).trans ((State.join_frame _ c _ _).wide rfl)
  have hrecs : ((s.prepared c st).join c st.mask st.prio).logNow = s.logged ((s.prepared c st).joinRecords s.brk c st) := by
    rw [hlog, hprep.logged rfl]
    simp only [State.joinRecords, hprep.brk_eq rfl]
  have hnow : ((s.prepared c st).join c st.mask st.prio).now = s.now := hjoin.same .timebase rfl
  have hstill : ((s.prepared c st).chan c).still = ((s.chan c).begun st (s.alignRow (s.chan c).defaults.ramp)).still := by
    rw [State.prepared, State.requestLine_still, State.requestLine_still, State.putChan_chan]
  have hst : ((s.prepared c st).chan c).st = .priming := congrArg Chan.st hstill
  have howner : ((s.prepared c st).chan c).owner = some st.owner := congrArg Chan.owner hstill
  have hprio : ((s.prepared c st).chan c).prio = st.prio := congrArg Chan.prio hstill
  have hi : ((s.prepared c st).chan c).i = -((s.chan c).defaults.ramp + 2 : Int) := congrArg Chan.i hstill
  rw [hbegun, State.begunUse, State.logChan, State.log_after s _ hjoin rfl _ hrecs, State.join_chan, hst, howner, hprio, hi]
  simp only [State.beginRecord, State.record, hnow]
  rfl

/-- The joins and the records of a start that begins in a state `v` come to from `s`, whose record no section names (R67, R85). -/
theorem State.begin_joins {l : List Part} {es : List LogRec} (h : Frame l s v)
    (hl : (Part.within [.sections] l || Part.within [.timebase] l || Part.within [.partState] l ||
      Part.within [.logIndices] l || Part.within [.reportBases] l) = false)
    (hprio : ∀ d, d ≠ c → (v.chan d).prio = (s.chan d).prio) (hdef : (v.chan c).defaults = (s.chan c).defaults)
    (hun : v.unjoined c) (hes : v.logNow = s.logged es) (o : ChanState) (u : ChanCause) :
    s.joinsAs (v.beginNow c st o u) v.brk c st ∧
      (v.beginNow c st o u).logNow = s.logged (es ++ (s.joinRecords v.brk c st ++ [s.beginRecord c st o u.code])) := by
  simp only [Bool.or_eq_false_iff] at hl
  obtain ⟨⟨⟨⟨hsec, htime⟩, hpart⟩, hidx⟩, hbases⟩ := hl
  have hnow : v.now = s.now := h.same .timebase htime
  have hprep : ∀ d, d ≠ c → ((v.prepared c st).chan d).prio = (s.chan d).prio := fun d hd => by
    rw [State.prepared_chan_ne _ _ hd, hprio d hd]
  have hnow' : (v.prepared c st).now = s.now := Eq.trans ((v.prepared_frame c st).same .timebase rfl) hnow
  have hstate (k : Fin 24) : (v.prepared c st).sec k = s.sec k := by
    rw [(v.prepared_frame c st).sec_eq rfl, h.sec_eq hsec]
  refine ⟨fun k => ?_, ?_⟩
  · obtain ⟨hact, hsus⟩ := hun k
    rw [State.beginNow_brk, h.sec_eq hsec, (State.joinRec_of_prios hprep hact hsus).1]
  · rw [State.beginNow_logNow, h.logged_append (by simp [hpart, hidx, hbases]) _ _ hes]
    have hrecs : (v.prepared c st).joinRecords v.brk c st = s.joinRecords v.brk c st := by
      unfold State.joinRecords
      refine List.flatMap_congr fun k _ => ?_
      obtain ⟨hact, hsus⟩ := hun k
      rw [hstate, State.joinLog_of_prios hprep hnow' hact hsus]
    rw [hrecs]
    simp only [State.beginRecord, State.record, hnow, hdef]

/-- A start that begins at once on a channel that no section's record names. -/
theorem State.beginNow_joins (h : s.unjoined c) (st : Start) (o : ChanState) (u : ChanCause) :
    s.joinsAs (s.beginNow c st o u) s.brk c st ∧
      (s.beginNow c st o u).logNow = s.logged (s.joinRecords s.brk c st ++ [s.beginRecord c st o u.code]) := by
  simpa using State.begin_joins (st := st) (Frame.refl [] s) rfl (fun _ _ => rfl) rfl h (es := []) (by simp) o u

theorem State.begins.settled (h : s.begins t c st) : s.begins t.settle c st := by
  obtain ⟨huse, hstill⟩ := h
  exact ⟨by rw [State.settle_chan_useNo]; exact huse, by
    rw [State.settle_still, State.settle_chan_queued, State.settle_chan_pending, State.settle_chan_useNo]
    exact hstill⟩

/-- What a begin says of the channel depends on the channel's record and the programmes before it, and on the record after. -/
theorem State.begins.congr (h : s.begins t c st) (hs : u.chan c = s.chan c) (hp : ∀ p, u.prog p = s.prog p)
    (ht : v.chan c = t.chan c) : u.begins v c st := by
  unfold State.begins at h ⊢
  simp only [hs, hp, ht]
  exact h

theorem State.joinsAs.settled {old : Fin 24 → BreakRec} (h : s.joinsAs t old c st) : s.joinsAs t.settle old c st := fun k => by
  rw [State.settle_brk]
  exact h k

/-! ### The change in progress under begins -/

theorem Frame.change_isSome {l : List Part} (h : Frame l s t) (hl : Part.within [.change] l = false) :
    t.plan.change.isSome = s.plan.change.isSome := by
  have hc : t.plan.change = s.plan.change := h.same .change hl
  rw [hc]

theorem State.finish_change_isSome (s : State) (r : ResultCode) :
    (s.finish r).plan.change.isSome = s.plan.change.isSome := by
  unfold State.finish State.finishWith
  cases h : s.plan.change with
  | none => exact congrArg Option.isSome h
  | some x => rfl

theorem State.finish_writingBack (h : s.stage.isSome = true) (r : ResultCode) : (s.finish r).stage = some .writingBack := by
  unfold State.stage at h
  rw [Option.isSome_map] at h
  obtain ⟨x, hx⟩ := Option.isSome_iff_exists.mp h
  unfold State.stage
  rw [State.finish_change hx]
  rfl

theorem State.beginNow_change (s : State) (c : Fin 4) (st : Start) (o : ChanState) (u : ChanCause) :
    (s.beginNow c st o u).plan.change.isSome = s.plan.change.isSome := by
  have hbegun := (s.begunUse_frame c st o u).change_isSome rfl
  rw [State.beginNow_eq]
  split
  · rw [State.finish_change_isSome, hbegun]
  · exact hbegun

theorem State.beginNow_answered (h : st.reply = true) (hc : s.plan.change.isSome = true) (o : ChanState) (u : ChanCause) :
    (s.beginNow c st o u).answered .done 0 0 := by
  rw [State.beginNow_eq, if_pos h]
  exact State.finish_answered _ _ (by rw [(s.begunUse_frame c st o u).change_isSome rfl, hc])

/-! ### The plan unit under begins -/

theorem joinSection_plan (s : State) (c : Fin 4) (p : Nat) (k : Fin 24) : (joinSection c p s k).plan = s.plan := by
  have hdrop (v : State) (e : Option (Fin 4)) : (v.dropSuspended k e c p).plan = v.plan := by
    cases e <;> rfl
  unfold joinSection
  dsimp only
  split
  · rfl
  · split
    · rfl
    · split
      · rw [hdrop]; rfl
      · split
        · rw [hdrop]; rfl
        · rfl

theorem State.join_plan (s : State) (c : Fin 4) (m : SecSet) (p : Nat) : (s.join c m p).plan = s.plan := by
  unfold State.join
  rw [State.setArmed_plan]
  exact foldl_keeps State.plan (joinSection c p) (fun s k => joinSection_plan s c p k) _ s

theorem State.requestLine_plan (s : State) (c : Fin 4) (k : Nat) : (s.requestLine c k).plan = s.plan := by
  unfold State.requestLine
  dsimp only
  split <;> rfl

theorem State.begunUse_plan (s : State) (c : Fin 4) (st : Start) (o : ChanState) (u : ChanCause) :
    (s.begunUse c st o u).plan = s.plan := by
  have hprep : (s.prepared c st).plan = s.plan := by
    rw [State.prepared, State.requestLine_plan, State.requestLine_plan]
    rfl
  exact (State.join_plan _ c _ _).trans hprep

theorem State.begunUse_arb (s : State) (c : Fin 4) (st : Start) (o : ChanState) (u : ChanCause) :
    (s.begunUse c st o u).arb = s.arb := by
  have hcalm := (calmKeeps s).beginNow c { st with reply := false } o u nofun (Calm.refl s)
  exact hcalm.2

/-- A burst that stands at the PLAN requester stands there after a begin. -/
theorem State.beginNow_planHas {x : PlanBurst} (h : s.planHas x) (c : Fin 4) (st : Start) (o : ChanState) (u : ChanCause) :
    (s.beginNow c st o u).planHas x := by
  have hbegun : (s.begunUse c st o u).planHas x := by
    unfold State.planHas
    rw [State.begunUse_plan, State.begunUse_arb]
    exact h
  rw [State.beginNow_eq]
  split
  · exact State.finish_planHas _ hbegun
  · exact hbegun

theorem State.beginNow_stage (h : s.stage = some .writingBack) (c : Fin 4) (st : Start) (o : ChanState) (u : ChanCause) :
    (s.beginNow c st o u).stage = some .writingBack := by
  have hsame : (s.begunUse c st o u).stage = some .writingBack := by
    unfold State.stage
    rw [State.begunUse_plan]
    exact h
  rw [State.beginNow_eq]
  split
  · exact State.finish_writingBack (by rw [hsame]; rfl) _
  · exact hsame

/-- An answer stands through a begin. -/
theorem State.beginNow_answered_kept {r : ResultCode} (h : s.answered r 0 0) (c : Fin 4) (st : Start) (o : ChanState)
    (u : ChanCause) : (s.beginNow c st o u).answered r 0 0 :=
  ⟨State.beginNow_stage h.1 c st o u, State.beginNow_planHas h.2 c st o u⟩

end Sys2Proof.Machine
end

section
/-! PROOFS. The begins waiting as the clip fence reports UP, and a start that is to begin on an idle channel (chapter 04). -/

namespace Sys2Proof.Machine

variable {s t u v : State} {c d : Fin 4} {st : Start} {k : Fin 24}

/-! ### A begin waiting -/

theorem beginWaiting_some (s : State) (h : (s.chan c).waiting = some st) :
    beginWaiting s c = s.beginNow c st .idle .begin_ := by
  simp only [beginWaiting, h]

theorem beginWaiting_none (s : State) (h : (s.chan c).waiting = none) : beginWaiting s c = s := by
  simp only [beginWaiting, h]

theorem beginWaiting_chan_ne (s : State) (h : d ≠ c) : (beginWaiting s c).chan d = s.chan d := by
  cases hw : (s.chan c).waiting with
  | none => rw [beginWaiting_none s hw]
  | some st => rw [beginWaiting_some s hw, State.beginNow_chan_ne _ _ _ _ h]

theorem beginWaiting_begun (s : State) (c : Fin 4) : ((beginWaiting s c).chan c).waiting = none := by
  cases hw : (s.chan c).waiting with
  | none => rw [beginWaiting_none s hw, hw]
  | some st =>
    obtain ⟨-, -, hgone⟩ := s.beginNow_waits c st .idle .begin_
    rw [beginWaiting_some s hw, hgone]

theorem beginWaiting_frame_begins (s : State) (c : Fin 4) : Frame (.change :: beginParts) s (beginWaiting s c) := by
  cases hw : (s.chan c).waiting with
  | none => rw [beginWaiting_none s hw]; exact Frame.refl _ s
  | some st => rw [beginWaiting_some s hw]; exact s.beginNow_frame_change c st _ _

theorem beginWaiting_prog (s : State) (c : Fin 4) (p : Fin 6) : (beginWaiting s c).prog p = s.prog p :=
  State.prog_of_same ((beginWaiting_frame_begins s c).same .programmes rfl) p

theorem beginWaiting_answered {r : ResultCode} (h : s.answered r 0 0) (c : Fin 4) : (beginWaiting s c).answered r 0 0 := by
  cases hw : (s.chan c).waiting with
  | none => rw [beginWaiting_none s hw]; exact h
  | some st => rw [beginWaiting_some s hw]; exact State.beginNow_answered_kept h c st _ _

theorem beginWaiting_change (s : State) (c : Fin 4) :
    (beginWaiting s c).plan.change.isSome = s.plan.change.isSome := by
  cases hw : (s.chan c).waiting with
  | none => rw [beginWaiting_none s hw]
  | some st => rw [beginWaiting_some s hw, State.beginNow_change]

/-! ### The begins of a list of channels -/

theorem foldBegins_frame_begins (l : List (Fin 4)) (s : State) :
    Frame (.change :: beginParts) s (l.foldl beginWaiting s) :=
  Frame.foldl _ beginWaiting_frame_begins _ _

theorem foldBegins_kept (l : List (Fin 4)) (s : State) (h : c ∉ l ∨ (s.chan c).waiting = none) :
    (l.foldl beginWaiting s).chan c = s.chan c := by
  induction l generalizing s with
  | nil => rfl
  | cons d l ih =>
    have hstep : (beginWaiting s d).chan c = s.chan c := by
      by_cases hd : c = d
      · subst hd
        rw [beginWaiting_none s (h.resolve_left (by simp))]
      · exact beginWaiting_chan_ne s hd
    rw [List.foldl_cons, ih _ (by rw [hstep]; exact h.imp_left fun hn hm => hn (List.mem_cons_of_mem _ hm)), hstep]

/-- What every begin of a list keeps. -/
theorem foldBegins_keeps {P : State → Prop} (hP : ∀ s c, P s → P (beginWaiting s c)) (l : List (Fin 4)) (h : P s) :
    P (l.foldl beginWaiting s) := by
  induction l generalizing s with
  | nil => exact h
  | cons c l ih => exact ih (hP s c h)

/-- A begin that waits begins, what else waits for its channel staying. -/
theorem foldBegins_begins (l : List (Fin 4)) (s : State) (hc : c ∈ l) (hw : (s.chan c).waiting = some st) :
    s.begins (l.foldl beginWaiting s) c st ∧ ((l.foldl beginWaiting s).chan c).queued = (s.chan c).queued ∧
      ((l.foldl beginWaiting s).chan c).pending = (s.chan c).pending := by
  induction l generalizing s with
  | nil => cases hc
  | cons d l ih =>
    rw [List.foldl_cons]
    by_cases hd : c = d
    · subst hd
      have hkept := foldBegins_kept l (beginWaiting s c) (.inr (beginWaiting_begun s c))
      obtain ⟨hq, hp, -⟩ := s.beginNow_waits c st .idle .begin_
      rw [hkept, beginWaiting_some s hw]
      rw [beginWaiting_some s hw] at hkept
      exact ⟨(s.beginNow_begins c st .idle .begin_).congr rfl (fun _ => rfl) hkept, hq, hp⟩
    · have hsame := beginWaiting_chan_ne s hd
      obtain ⟨hbegins, hq, hp⟩ := ih (beginWaiting s d) ((List.mem_cons.mp hc).resolve_left hd) (by rw [hsame, hw])
      rw [hsame] at hq hp
      exact ⟨hbegins.congr hsame.symm (fun p => (beginWaiting_prog s d p).symm) rfl, hq, hp⟩

theorem foldBegins_answered (l : List (Fin 4)) (s : State) (hc : c ∈ l) (hw : (s.chan c).waiting = some st)
    (hr : st.reply = true) (hchange : s.plan.change.isSome = true) : (l.foldl beginWaiting s).answered .done 0 0 := by
  induction l generalizing s with
  | nil => cases hc
  | cons d l ih =>
    rw [List.foldl_cons]
    by_cases hd : c = d
    · subst hd
      refine foldBegins_keeps (P := fun v => v.answered .done 0 0) (fun _ c h => beginWaiting_answered h c) l ?_
      rw [beginWaiting_some s hw]
      exact State.beginNow_answered hr hchange _ _
    · exact ih (beginWaiting s d) ((List.mem_cons.mp hc).resolve_left hd) (by rw [beginWaiting_chan_ne s hd, hw])
        (by rw [beginWaiting_change, hchange])

/-- A section that none of the starts names keeps its record. -/
theorem foldBegins_brk_unnamed (l : List (Fin 4)) (s : State)
    (h : ∀ d ∈ l, ∀ x, (s.chan d).waiting = some x → has x.mask k = false) :
    (l.foldl beginWaiting s).brk k = s.brk k := by
  induction l generalizing s with
  | nil => rfl
  | cons d l ih =>
    have hstep : (beginWaiting s d).brk k = s.brk k := by
      cases hw : (s.chan d).waiting with
      | none => rw [beginWaiting_none s hw]
      | some x => rw [beginWaiting_some s hw, State.beginNow_brk, h d (by simp) x hw]; rfl
    rw [List.foldl_cons, ih, hstep]
    intro e he x hx
    by_cases hd : e = d
    · subst hd
      rw [beginWaiting_begun] at hx
      cases hx
    · rw [beginWaiting_chan_ne s hd] at hx
      exact h e (List.mem_cons_of_mem _ he) x hx

/-- A section that one of the starts alone names is joined by it, whenever that start begins. -/
theorem foldBegins_brk (l : List (Fin 4)) (s : State) (hc : c ∈ l) (hw : (s.chan c).waiting = some st)
    (hfree : ∀ d ∈ l, (s.chan d).waiting.isSome = true → (s.brk k).active ≠ some d ∧ (s.brk k).suspended ≠ some d)
    (halone : ∀ d ∈ l, ∀ x, d ≠ c → (s.chan d).waiting = some x → has x.mask k = false) :
    (l.foldl beginWaiting s).brk k =
      if has st.mask k && (s.sec k).state != .disabled then s.joinRec (s.brk k) c st.prio else s.brk k := by
  induction l generalizing s with
  | nil => cases hc
  | cons d l ih =>
    rw [List.foldl_cons]
    by_cases hd : c = d
    · subst hd
      obtain ⟨hact, hsus⟩ := hfree c (by simp) (by rw [hw]; rfl)
      have hjoin := (State.joinRec_of_prios (s := s) (t := s.prepared c st) (c := c) (p := st.prio)
        (fun d hd => by rw [State.prepared_chan_ne _ _ hd]) hact hsus).1
      rw [foldBegins_brk_unnamed l, beginWaiting_some s hw, State.beginNow_brk, hjoin]
      intro e he x hx
      by_cases hec : e = c
      · subst hec
        rw [beginWaiting_begun] at hx
        cases hx
      · rw [beginWaiting_chan_ne s hec] at hx
        exact halone e (List.mem_cons_of_mem _ he) x hec hx
    · have hwait (e : Fin 4) : (((beginWaiting s d).chan e).waiting = none) ∨
          ((beginWaiting s d).chan e).waiting = (s.chan e).waiting := by
        by_cases hed : e = d
        · subst hed
          exact .inl (beginWaiting_begun s e)
        · exact .inr (by rw [beginWaiting_chan_ne s hed])
      have hsec : (beginWaiting s d).sec k = s.sec k := (beginWaiting_frame_begins s d).sec_eq rfl k
      have hbrk : (beginWaiting s d).brk k = s.brk k := by
        cases hx : (s.chan d).waiting with
        | none => rw [beginWaiting_none s hx]
        | some x => rw [beginWaiting_some s hx, State.beginNow_brk, halone d (by simp) x (Ne.symm hd) hx]; rfl
      have hjoin : (beginWaiting s d).joinRec (s.brk k) c st.prio = s.joinRec (s.brk k) c st.prio := by
        cases hx : (s.chan d).waiting with
        | none => rw [beginWaiting_none s hx]
        | some x =>
          obtain ⟨hact, hsus⟩ := hfree d (by simp) (by rw [hx]; rfl)
          exact (State.joinRec_of_prios (fun e he => by rw [beginWaiting_chan_ne s he]) hact hsus).1
      rw [ih (beginWaiting s d) ((List.mem_cons.mp hc).resolve_left hd) (by rw [beginWaiting_chan_ne s hd, hw]), hbrk, hsec,
        hjoin]
      · intro e he hsome
        rw [hbrk]
        rcases hwait e with h | h
        · rw [h] at hsome
          cases hsome
        · exact hfree e (List.mem_cons_of_mem _ he) (by rw [← h]; exact hsome)
      · intro e he x hec hx
        rcases hwait e with h | h
        · rw [h] at hx
          cases hx
        · exact halone e (List.mem_cons_of_mem _ he) x hec (by rw [← h]; exact hx)

/-! ### The clip fence reports UP (R67) -/

/-- The state in which the begins waiting begin. -/
def State.fenceRaised (s : State) : State :=
  { s with path := { s.path with fence := .up }, playout := { s.playout with waitOrder := [] } }

theorem State.fenceUp_eq (s : State) : s.fenceUp = s.playout.waitOrder.foldl beginWaiting s.fenceRaised := rfl

theorem State.fenceRaised_frame (s : State) : Frame [.fence, .startOrder] s s.fenceRaised := by
  intro p hp
  cases p <;> first | exact absurd (by decide) hp | simp [Same, State.fenceRaised, State.chan, State.line]

theorem State.fenceUp_fence (s : State) : s.fenceUp.path.fence = .up := by
  rw [State.fenceUp_eq, foldBegins_path]
  rfl

theorem State.fenceUp_waitOrder (s : State) : s.fenceUp.playout.waitOrder = [] := by
  rw [State.fenceUp_eq, (foldBegins_frame_begins s.playout.waitOrder s.fenceRaised).same .startOrder rfl]
  rfl

theorem State.fenceUp_begins (hc : c ∈ s.playout.waitOrder) (hw : (s.chan c).waiting = some st) :
    s.begins s.fenceUp c st ∧ (s.fenceUp.chan c).queued = (s.chan c).queued ∧
      (s.fenceUp.chan c).pending = (s.chan c).pending := by
  obtain ⟨hbegins, hq, hp⟩ := foldBegins_begins s.playout.waitOrder s.fenceRaised hc hw
  exact ⟨hbegins.congr rfl (fun _ => rfl) rfl, hq, hp⟩

theorem State.fenceUp_line (s : State) (i : Fin 6) : s.fenceUp.line i = s.line i := by
  rw [State.fenceUp_eq, (foldBegins_frame_begins s.playout.waitOrder s.fenceRaised).line_eq rfl rfl i]
  rfl

/-- With a single begin waiting, the fence UP is that begin. -/
theorem State.fenceUp_single (h : s.playout.waitOrder = [c]) (hw : (s.chan c).waiting = some st) :
    s.fenceUp = s.fenceRaised.beginNow c st .idle .begin_ := by
  rw [State.fenceUp_eq, h]
  exact beginWaiting_some s.fenceRaised hw

theorem State.fenceRaised_joins (h : s.unjoined c) :
    s.joinsAs (s.fenceRaised.beginNow c st .idle .begin_) s.brk c st ∧
      (s.fenceRaised.beginNow c st .idle .begin_).logNow =
        s.logged (s.joinRecords s.brk c st ++ [s.beginRecord c st .idle 1]) := by
  have hframe := s.fenceRaised_frame
  exact State.begin_joins (st := st) hframe rfl (fun _ _ => rfl) rfl h (es := [])
    (by rw [State.logged_nil]; exact hframe.logNow rfl rfl) .idle .begin_

/-- Settles O43: the begins in the order of waiting, each section that one start alone names. -/
theorem fenceUpBeginsWaiting : Obligations.FenceUpBeginsWaiting := by
  intro s hreset hfence hqueue
  have hclear : s.clipQueued = false := by
    simpa [State.clipQueued] using hqueue
  have hexec : exec .clipFenceUp s = .next s.fenceUp.settle :=
    exec_effect rfl rfl hreset (by simp [State.effect, State.fenceReady, hfence, hclear])
  refine ⟨_, hexec, by rw [State.settle_fence, State.fenceUp_fence], by rw [State.settle_waitOrder, State.fenceUp_waitOrder],
    fun c st hc hw => ⟨?_, fun hr hchange => ?_, fun k hfree halone => ?_, fun hone hun => ?_⟩, fun c hc => ?_,
    s.fenceUp_frame.settled⟩
  · exact (State.fenceUp_begins hc hw).1.settled
  · rw [State.settle_stage]
    exact (foldBegins_answered s.playout.waitOrder s.fenceRaised hc hw hr hchange).1
  · rw [State.settle_brk, State.fenceUp_eq, foldBegins_brk s.playout.waitOrder s.fenceRaised hc hw hfree halone]
    rfl
  · rw [State.settle_logNow, State.fenceUp_single hone hw]
    exact (State.fenceRaised_joins hun).2
  · rw [State.settle_still, State.fenceUp_eq, foldBegins_kept s.playout.waitOrder s.fenceRaised hc]
    rfl

end Sys2Proof.Machine
end

section
/-! PROOFS. A start that is to begin, a takeover, and the end of a use or of a begin waiting with what it is handed out to
(chapter 04). -/

namespace Sys2Proof.Machine

variable {s t u v : State} {c d : Fin 4} {st w : Start} {k : Fin 24}

/-! ### Begins of a channel's record -/

/-- What a begin leaves of a channel's record: its defaults and its counters. -/
def Chan.lasting (ch : Chan) : ChanDefaults × Nat × Nat × Nat × Nat :=
  (ch.defaults, ch.underruns, ch.lateReads, ch.saturations, ch.marksPassed)

/-- A use that begins over a record begins over any earlier one with the same defaults and counters. -/
theorem State.begins.lasting (h : v.begins t c st) (hl : (v.chan c).lasting = (s.chan c).lasting)
    (huse : (s.chan c).useNo ≤ (v.chan c).useNo) (hp : ∀ p, v.prog p = s.prog p) : s.begins t c st := by
  obtain ⟨hmore, hstill⟩ := h
  simp only [Chan.lasting, Prod.mk.injEq] at hl
  obtain ⟨hd, hu, hla, hs, hm⟩ := hl
  refine ⟨lt_of_le_of_lt huse hmore, ?_⟩
  rw [hstill]
  simp only [hd, hp]
  cases hv : v.chan c
  cases hs' : s.chan c
  simp_all

/-! ### A start that is to begin (R67) -/

/-- The start waits, the fence rising. -/
def State.parked (s : State) (c : Fin 4) (st : Start) : State :=
  { s.awaiting c st with path := { s.path with fence := .raising } }

theorem State.awaiting_chan (s : State) (c : Fin 4) (st : Start) :
    (s.awaiting c st).chan c = { s.chan c with waiting := some st } := State.chan_setChan _ _ _

theorem State.awaiting_chan_ne (s : State) (st : Start) (h : d ≠ c) : (s.awaiting c st).chan d = s.chan d :=
  State.chan_setChan_ne _ _ (Ne.symm h)

theorem State.awaiting_waitOrder (s : State) (c : Fin 4) (st : Start) : (s.awaiting c st).playout.waitOrder =
    if c ∈ s.playout.waitOrder then s.playout.waitOrder else s.playout.waitOrder ++ [c] := by
  simp [State.awaiting, State.setChan]

theorem State.mem_awaiting (s : State) (c : Fin 4) (st : Start) : c ∈ (s.awaiting c st).playout.waitOrder := by
  rw [State.awaiting_waitOrder]
  split
  · assumption
  · simp

theorem State.parked_frame (s : State) (c : Fin 4) (st : Start) :
    Frame [.channels, .startOrder, .fence] s (s.parked c st) := by
  intro p hp
  have hset := s.setChan_frame c { s.chan c with waiting := some st } p
  cases p <;> first | exact absurd (by decide) hp | exact hset (by decide)

theorem State.parked_chan (s : State) (c : Fin 4) (st : Start) :
    (s.parked c st).chan c = { s.chan c with waiting := some st } := s.awaiting_chan c st

theorem State.parked_chan_ne (s : State) (st : Start) (h : d ≠ c) : (s.parked c st).chan d = s.chan d :=
  s.awaiting_chan_ne st h

theorem State.parked_waitOrder (s : State) (c : Fin 4) (st : Start) : (s.parked c st).playout.waitOrder =
    if c ∈ s.playout.waitOrder then s.playout.waitOrder else s.playout.waitOrder ++ [c] := s.awaiting_waitOrder c st

/-- The fence rises, or must rise, and CLIP writes are queued. -/
def State.mustWait (s : State) : Prop := s.path.fence = .raising ∨ (s.path.fence = .down ∧ s.clipQueued = true)

theorem State.requestBegin_parks (h : s.mustWait) (c : Fin 4) (st : Start) : s.requestBegin c st = s.parked c st := by
  rcases h with h | ⟨h, hq⟩
  · have hsame : ({ s.path with fence := .raising } : MemPath) = s.path := by rw [← h]
    rw [State.requestBegin_wait s c st (by rw [h]; exact nofun),
      State.raiseFence_raised _ (by show s.path.fence ≠ .down; rw [h]; exact nofun)]
    unfold State.parked
    rw [hsame]
    rfl
  · rw [State.requestBegin_wait s c st (by rw [h]; exact nofun), State.raiseFence_queued (s.awaiting c st) h hq]
    rfl

/-- A DOWN fence that can be UP at once. -/
theorem State.requestBegin_opens (h : s.path.fence = .down) (hq : s.clipQueued = false) (c : Fin 4) (st : Start) :
    s.requestBegin c st = (s.awaiting c st).fenceUp := by
  rw [State.requestBegin_wait s c st (by rw [h]; exact nofun), State.raiseFence_clear (s.awaiting c st) h hq]

theorem State.fence_cases (s : State) : s.path.fence = .up ∨ (s.path.fence = .down ∧ s.clipQueued = false) ∨ s.mustWait := by
  unfold State.mustWait
  cases s.path.fence <;> cases s.clipQueued <;> simp

/-- A start that begins at once: under an UP fence, or under a DOWN one with no CLIP write queued. -/
def State.mayOpen (s : State) : Prop := s.path.fence = .up ∨ (s.path.fence = .down ∧ s.clipQueued = false)

theorem State.awaiting_begins (h : (s.awaiting c st).begins t c w) : s.begins t c w :=
  h.lasting (by rw [State.awaiting_chan]; rfl) (by rw [State.awaiting_chan]) fun _ => rfl

theorem State.requestBegin_begins (h : s.mayOpen) (c : Fin 4) (st : Start) :
    s.begins (s.requestBegin c st) c st ∧ (s.requestBegin c st).path.fence = .up := by
  rcases h with h | ⟨h, hq⟩
  · rw [State.requestBegin_up s c st h]
    exact ⟨s.beginNow_begins c st _ _, by rw [State.beginNow_path, h]⟩
  · rw [State.requestBegin_opens h hq]
    have hw : ((s.awaiting c st).chan c).waiting = some st := by rw [State.awaiting_chan]
    exact ⟨State.awaiting_begins (State.fenceUp_begins (s.mem_awaiting c st) hw).1, State.fenceUp_fence _⟩

/-- What waits for the channel besides the start stays. -/
theorem State.requestBegin_queue (s : State) (c : Fin 4) (st : Start) :
    ((s.requestBegin c st).chan c).queued = (s.chan c).queued ∧
      ((s.requestBegin c st).chan c).pending = (s.chan c).pending := by
  rcases s.fence_cases with h | ⟨h, hq⟩ | h
  · obtain ⟨hqueued, hpending, -⟩ := s.beginNow_waits c st .idle .begin_
    rw [State.requestBegin_up s c st h]
    exact ⟨hqueued, hpending⟩
  · have hw : ((s.awaiting c st).chan c).waiting = some st := by rw [State.awaiting_chan]
    obtain ⟨-, hqueued, hpending⟩ := State.fenceUp_begins (s.mem_awaiting c st) hw
    rw [State.requestBegin_opens h hq, hqueued, hpending, State.awaiting_chan]
    exact ⟨rfl, rfl⟩
  · rw [State.requestBegin_parks h, State.parked_chan]
    exact ⟨rfl, rfl⟩

theorem State.requestBegin_line (s : State) (c : Fin 4) (st : Start) (i : Fin 6) :
    (s.requestBegin c st).line i = s.line i := by
  rcases s.fence_cases with h | ⟨h, hq⟩ | h
  · rw [State.requestBegin_up s c st h, State.beginNow_line]
  · rw [State.requestBegin_opens h hq, State.fenceUp_line]
    rfl
  · rw [State.requestBegin_parks h, (s.parked_frame c st).line_eq rfl rfl i]

theorem State.fenceUp_change (s : State) : s.fenceUp.plan.change.isSome = s.plan.change.isSome := by
  rw [State.fenceUp_eq]
  exact foldBegins_keeps (P := fun v => v.plan.change.isSome = s.plan.change.isSome)
    (fun v c h => (beginWaiting_change v c).trans h) s.playout.waitOrder (s := s.fenceRaised) rfl

theorem State.requestBegin_change (s : State) (c : Fin 4) (st : Start) :
    (s.requestBegin c st).plan.change.isSome = s.plan.change.isSome := by
  rcases s.fence_cases with h | ⟨h, hq⟩ | h
  · rw [State.requestBegin_up s c st h, State.beginNow_change]
  · rw [State.requestBegin_opens h hq, State.fenceUp_change]
    rfl
  · rw [State.requestBegin_parks h]
    rfl

/-- A host's start that begins at once has its change answered (R165). -/
theorem State.requestBegin_answered (h : s.mayOpen) (hr : st.reply = true) (hc : s.plan.change.isSome = true) (c : Fin 4) :
    (s.requestBegin c st).answered .done 0 0 := by
  rcases h with h | ⟨h, hq⟩
  · rw [State.requestBegin_up s c st h]
    exact State.beginNow_answered hr hc _ _
  · rw [State.requestBegin_opens h hq, State.fenceUp_eq]
    exact foldBegins_answered (s.awaiting c st).playout.waitOrder (s.awaiting c st).fenceRaised (s.mem_awaiting c st)
      (by show ((s.awaiting c st).chan c).waiting = _; rw [State.awaiting_chan]) hr hc

/-- The fence UP or no other begin waiting: no other channel is touched. -/
theorem State.requestBegin_alone (h : s.mayOpen) (halone : s.path.fence = .up ∨ s.playout.waitOrder = []) (c : Fin 4)
    (st : Start) : (∀ d, d ≠ c → (s.requestBegin c st).chan d = s.chan d) ∧
      (s.unjoined c → s.joinsAs (s.requestBegin c st) s.brk c st ∧ (s.requestBegin c st).logNow =
        s.logged (s.joinRecords s.brk c st ++ [s.beginRecord c st .idle 1])) := by
  by_cases hup : s.path.fence = .up
  · rw [State.requestBegin_up s c st hup]
    exact ⟨fun d hd => State.beginNow_chan_ne s st _ _ hd, fun hun => State.beginNow_joins hun st _ _⟩
  · obtain ⟨hdown, hq⟩ := h.resolve_left hup
    have horder : (s.awaiting c st).playout.waitOrder = [c] := by
      rw [State.awaiting_waitOrder, halone.resolve_left hup]
      rfl
    have hw : ((s.awaiting c st).chan c).waiting = some st := by rw [State.awaiting_chan]
    have hframe : Frame [.channels, .startOrder, .fence] s (s.awaiting c st).fenceRaised := by
      intro p hp
      have hset := s.setChan_frame c { s.chan c with waiting := some st } p
      cases p <;> first | exact absurd (by decide) hp | exact hset (by decide)
    have hother (d : Fin 4) (hd : d ≠ c) : (s.awaiting c st).fenceRaised.chan d = s.chan d := s.awaiting_chan_ne st hd
    rw [State.requestBegin_opens hdown hq, State.fenceUp_single horder hw]
    refine ⟨fun d hd => by rw [State.beginNow_chan_ne _ st _ _ hd, hother d hd], fun hun => ?_⟩
    exact State.begin_joins (v := (s.awaiting c st).fenceRaised) hframe rfl (fun d hd => by rw [hother d hd])
      (by show ((s.awaiting c st).chan c).defaults = _; rw [State.awaiting_chan]) hun (es := [])
      (by rw [State.logged_nil]; exact hframe.logNow rfl rfl) .idle .begin_

/-! ### A takeover (R69) -/

/-- The state in which a takeover of a live use begins: its sections released, its start displaced. -/
def State.vacated (s : State) (c : Fin 4) : State :=
  match (s.chan c).owner with
  | some o => (s.release c).displace c ((s.chan c).asStart o)
  | none => s.release c

theorem State.takeover_live (h : (s.chan c).st.live = true) (st : Start) :
    s.takeover c st = (s.vacated c).beginNow c st (s.chan c).st .takeover := by
  unfold State.takeover State.vacated
  refine (if_pos h).trans ?_
  cases (s.chan c).owner <;> rfl

theorem State.takeover_waiting (h : (s.chan c).st.live = false) (hw : (s.chan c).waiting = some w) (st : Start) :
    s.takeover c st = (s.setChan c { s.chan c with waiting := some st }).displace c w := by
  simp [State.takeover, h, hw]

/-- A displaced line's start, in the pending set again (R69). -/
def State.displacedLine (s : State) (c : Fin 4) (w : Start) (i : Fin 6) : State :=
  (s.setChan c { s.chan c with pending := (s.chan c).pending ++ [w] }).setRequest i .pending

theorem State.displace_line {i : Fin 6} (h : w.owner = .line i) : s.displace c w = s.displacedLine c w i := by
  simp only [State.displace, h, State.displacedLine]

theorem State.displace_host (h : w.owner = .host) : s.displace c w = if w.reply then s.finish .done else s := by
  simp only [State.displace, h]

theorem State.displacedLine_frame (s : State) (c : Fin 4) (w : Start) (i : Fin 6) :
    Frame [.channels, .requests] s (s.displacedLine c w i) :=
  ((s.setChan_frame c _).wide rfl).trans ((State.setRequest_frame _ i _).wide rfl)

theorem State.displacedLine_chan (s : State) (c : Fin 4) (w : Start) (i : Fin 6) :
    (s.displacedLine c w i).chan c = { s.chan c with pending := (s.chan c).pending ++ [w] } := by
  rw [State.displacedLine, State.setRequest_chan, State.chan_setChan]

theorem State.displacedLine_chan_ne (s : State) (w : Start) (i : Fin 6) (h : d ≠ c) :
    (s.displacedLine c w i).chan d = s.chan d := by
  rw [State.displacedLine, State.setRequest_chan, State.chan_setChan_ne _ _ (Ne.symm h)]

theorem State.setRequest_line_ne (s : State) {i j : Fin 6} (r : ReqStatus) (h : j ≠ i) :
    (s.setRequest i r).line j = s.line j := by
  simp [State.setRequest, Ne.symm h]

theorem State.displacedLine_line (s : State) (c : Fin 4) (w : Start) (i j : Fin 6) :
    (s.displacedLine c w i).line j = if i = j then { s.line j with request := .pending } else s.line j := by
  unfold State.displacedLine
  by_cases h : i = j
  · subst h
    rw [if_pos rfl, State.setRequest_line]
    rfl
  · rw [if_neg h, State.setRequest_line_ne _ _ (Ne.symm h)]
    rfl

/-- What a live use leaves as it is taken over. -/
theorem State.vacated_spec (s : State) (c : Fin 4) :
    Frame [.breakIns, .channels, .requests] s (s.vacated c) ∧ (∀ d, d ≠ c → (s.vacated c).chan d = s.chan d) ∧
      (∀ i, (s.chan c).owner = some (.line i) → (s.vacated c).chan c =
        { s.chan c with pending := (s.chan c).pending ++ [(s.chan c).asStart (.line i)] }) ∧
      ((∀ i, (s.chan c).owner ≠ some (.line i)) → (s.vacated c).chan c = s.chan c) ∧
      (∀ i, (s.vacated c).line i =
        if (s.chan c).owner = some (.line i) then { s.line i with request := .pending } else s.line i) ∧
      (∀ k, (s.vacated c).brk k = s.releasedRec c k) := by
  obtain ⟨-, -, -, -, -, hbrk⟩ := s.release_spec c
  have hrel : Frame [.breakIns, .channels, .requests] s (s.release c) := (s.release_frame c).wide rfl
  unfold State.vacated
  cases ho : (s.chan c).owner with
  | none =>
    refine ⟨hrel, fun d _ => s.release_chan c d, nofun, fun _ => s.release_chan c c, fun i => ?_, hbrk⟩
    rw [if_neg nofun, State.release_line]
  | some o =>
    cases o with
    | host =>
      have hdis : (s.release c).displace c ((s.chan c).asStart .host) = s.release c := rfl
      dsimp only
      rw [hdis]
      refine ⟨hrel, fun d _ => s.release_chan c d, nofun, fun _ => s.release_chan c c, fun i => ?_, hbrk⟩
      rw [if_neg nofun, State.release_line]
    | line j =>
      have hdis : (s.release c).displace c ((s.chan c).asStart (.line j)) =
          (s.release c).displacedLine c ((s.chan c).asStart (.line j)) j := rfl
      dsimp only
      rw [hdis]
      refine ⟨hrel.trans ((State.displacedLine_frame _ c _ j).wide rfl), fun d hd => ?_, fun i h => ?_,
        fun h => absurd rfl (h j), fun i => ?_, fun k => ?_⟩
      · rw [State.displacedLine_chan_ne _ _ _ hd, State.release_chan]
      · cases h
        rw [State.displacedLine_chan, State.release_chan]
      · rw [State.displacedLine_line, State.release_line]
        by_cases h : j = i
        · rw [if_pos h, if_pos (by rw [h])]
        · rw [if_neg h, if_neg fun e => h (by cases e; rfl)]
      · rw [(State.displacedLine_frame _ c _ j).brk_eq rfl, hbrk]

/-- A channel that each record names once is in none after its release (R86). -/
theorem State.releasedRec_unjoined (h : s.joinedOnce c) (k : Fin 24) :
    (s.releasedRec c k).active ≠ some c ∧ (s.releasedRec c k).suspended ≠ some c := by
  have hk := h k
  unfold State.releasedRec
  dsimp only
  by_cases ha : (s.brk k).active = some c
  · rw [if_pos ha]
    cases hs : (s.brk k).suspended with
    | none => exact ⟨nofun, nofun⟩
    | some e =>
      rw [hs] at hk
      exact ⟨hk ha, nofun⟩
  · rw [if_neg ha]
    split
    · exact ⟨ha, nofun⟩
    · exact ⟨ha, by assumption⟩

theorem State.vacated_lasting (s : State) (c : Fin 4) : ((s.vacated c).chan c).lasting = (s.chan c).lasting ∧
    ((s.vacated c).chan c).useNo = (s.chan c).useNo ∧ ((s.vacated c).chan c).queued = (s.chan c).queued := by
  obtain ⟨-, -, hline, hother, -⟩ := s.vacated_spec c
  by_cases h : ∃ i, (s.chan c).owner = some (.line i)
  · obtain ⟨i, h⟩ := h
    rw [hline i h]
    exact ⟨rfl, rfl, rfl⟩
  · rw [hother fun i hi => h ⟨i, hi⟩]
    exact ⟨rfl, rfl, rfl⟩

/-- The takeover of a live use (R69). -/
theorem State.takeover_live_spec (h : (s.chan c).st.live = true) (st : Start) :
    s.begins (s.takeover c st) c st ∧ ((s.takeover c st).chan c).queued = (s.chan c).queued ∧
      (∀ d, d ≠ c → (s.takeover c st).chan d = s.chan d) ∧
      (∀ i, (s.takeover c st).line i =
        if (s.chan c).owner = some (.line i) then { s.line i with request := .pending } else s.line i) ∧
      (∀ i, (s.chan c).owner = some (.line i) → ((s.takeover c st).chan c).pending = (s.chan c).pending ++
        [⟨.line i, (s.chan c).listAddr, (s.chan c).mask, (s.chan c).prio, (s.chan c).reqRep, false⟩]) ∧
      ((s.chan c).owner = some .host → ((s.takeover c st).chan c).pending = (s.chan c).pending) ∧
      (s.joinedOnce c → s.joinsAs (s.takeover c st) (s.releasedRec c) c st ∧ (s.takeover c st).logNow =
        s.logged (s.joinRecords (s.releasedRec c) c st ++ [s.beginRecord c st (s.chan c).st 2])) := by
  obtain ⟨hframe, hchan, hline, hother, hlines, hbrk⟩ := s.vacated_spec c
  obtain ⟨hlasting, huse, hqueued⟩ := s.vacated_lasting c
  obtain ⟨hq, hp, -⟩ := (s.vacated c).beginNow_waits c st (s.chan c).st .takeover
  have hdef : ((s.vacated c).chan c).defaults = (s.chan c).defaults := congrArg Prod.fst hlasting
  rw [State.takeover_live h]
  refine ⟨((s.vacated c).beginNow_begins c st _ _).lasting hlasting huse.ge
      (State.prog_of_same (hframe.same .programmes rfl)), by rw [hq, hqueued],
    fun d hd => by rw [State.beginNow_chan_ne _ _ _ _ hd, hchan d hd], fun i => by rw [State.beginNow_line, hlines],
    fun i hi => by rw [hp, hline i hi]; rfl, fun hi => by rw [hp, hother fun i => by rw [hi]; exact nofun], fun honce => ?_⟩
  have hun : (s.vacated c).unjoined c := fun k => by
    rw [hbrk]
    exact State.releasedRec_unjoined honce k
  have hjoins := State.begin_joins (st := st) hframe rfl (fun d hd => by rw [hchan d hd]) hdef hun (es := [])
    (by rw [State.logged_nil]; exact hframe.logNow rfl rfl) (s.chan c).st .takeover
  rwa [funext hbrk] at hjoins

/-- The takeover of a channel answers the change of the start that begins (R69). -/
theorem State.takeover_answered (h : (s.chan c).st.live = true) (hr : st.reply = true) (hc : s.plan.change.isSome = true) :
    (s.takeover c st).answered .done 0 0 := by
  obtain ⟨hframe, -⟩ := s.vacated_spec c
  rw [State.takeover_live h]
  exact State.beginNow_answered hr (by rw [hframe.change_isSome rfl, hc]) _ _

end Sys2Proof.Machine
end

section
/-! PROOFS. The end of a use and of a begin waiting, with the start that the channel is handed out to (chapter 04). -/

namespace Sys2Proof.Machine

variable {s t u v : State} {c d : Fin 4} {st w : Start} {k : Fin 24} {a : ChanCause}

/-! ### The handout (R74) -/

/-- The start that a channel is handed out to has left what waits, and its line is told. -/
def State.handsOver (s : State) (c : Fin 4) (st : Start) : State :=
  (s.setChan c ((s.chan c).without st)).tellOwner (some st.owner) .running

theorem State.handout_to (h : bestStart (s.chan c).candidates = some st) : s.handout c = (s.handsOver c st).requestBegin c st := by
  unfold State.handout
  rw [h]
  rfl

theorem State.handout_none (h : (s.chan c).noStarts) : s.handout c =
    { s with playout := { s.playout with waitOrder := s.playout.waitOrder.filter fun d => d != c } } := by
  unfold State.handout
  rw [Chan.noStarts_candidates h]
  rfl

theorem State.handsOver_frame (s : State) (c : Fin 4) (st : Start) : Frame [.channels, .requests] s (s.handsOver c st) :=
  ((s.setChan_frame c _).wide rfl).trans ((State.tellOwner_frame _ _ _).wide rfl)

theorem State.handsOver_chan (s : State) (c : Fin 4) (st : Start) : (s.handsOver c st).chan c = (s.chan c).without st := by
  rw [State.handsOver, State.tellOwner_chan, State.chan_setChan]

theorem State.handsOver_chan_ne (s : State) (st : Start) (h : d ≠ c) : (s.handsOver c st).chan d = s.chan d := by
  rw [State.handsOver, State.tellOwner_chan, State.chan_setChan_ne _ _ (Ne.symm h)]

theorem State.handsOver_line (s : State) (c : Fin 4) (st : Start) (i : Fin 6) : (s.handsOver c st).line i =
    if st.owner = .line i then { s.line i with request := .running } else s.line i := by
  rw [State.handsOver, State.tellOwner_line]
  by_cases h : st.owner = .line i
  · rw [if_pos (by rw [h]), if_pos h]
    rfl
  · rw [if_neg fun e => h (Option.some.inj e), if_neg h]
    rfl

theorem State.tellOwner_mixer_path (s : State) (c : Fin 4) (st : Start) : (s.handsOver c st).mixer = s.mixer ∧
    (s.handsOver c st).path = s.path ∧ (s.handsOver c st).playout.waitOrder = s.playout.waitOrder := by
  refine ⟨?_, ?_, ?_⟩
  · rw [State.handsOver, State.tellOwner_mixer]
    rfl
  · rw [State.handsOver, State.tellOwner_path]
    rfl
  · rw [State.handsOver, State.tellOwner_playout]
    rfl

theorem Chan.without_host (ch : Chan) (h : st.owner = .host) : ch.without st = { ch with queued := none } := by
  simp only [Chan.without, h]

theorem Chan.without_line (ch : Chan) {i : Fin 6} (h : st.owner = .line i) :
    ch.without st = { ch with pending := ch.pending.filter fun x => x.owner != .line i } := by
  simp only [Chan.without, h]

theorem Chan.without_fields (ch : Chan) (st : Start) : (ch.without st).lasting = ch.lasting ∧
    (ch.without st).useNo = ch.useNo ∧ (ch.without st).st = ch.st ∧ (ch.without st).prio = ch.prio := by
  unfold Chan.without
  split <;> exact ⟨rfl, rfl, rfl, rfl⟩

/-- A start that is to begin has the channel live, or waits on it. -/
theorem State.requestBegin_occupies (s : State) (c : Fin 4) (st : Start) :
    ((s.requestBegin c st).chan c).st.live = true ∨ ((s.requestBegin c st).chan c).waiting = some st := by
  have hopen (h : s.mayOpen) : ((s.requestBegin c st).chan c).st.live = true := by
    obtain ⟨-, hstill⟩ := (State.requestBegin_begins h c st).1
    have hst := (Chan.still_fields (a := (s.requestBegin c st).chan c) (b := (s.requestBegin c st).chan c) rfl).1
    have hpriming : ((s.requestBegin c st).chan c).still.st = .priming := by rw [hstill]
    rw [show ((s.requestBegin c st).chan c).st = .priming from hpriming]
    rfl
  rcases s.fence_cases with h | h | h
  · exact .inl (hopen (.inl h))
  · exact .inl (hopen (.inr h))
  · exact .inr (by rw [State.requestBegin_parks h, State.parked_chan])

theorem State.checkFence_kept (h : (s.chan c).st.live = true ∨ (s.chan c).waiting = some st) : s.checkFence = s := by
  unfold State.checkFence
  refine if_neg ?_
  rw [State.noStarts_iff]
  intro hno
  obtain ⟨hdead, hnone⟩ := hno c
  rcases h with h | h
  · rw [hdead] at h
    cases h
  · simp [h] at hnone

/-! ### The end of a use (R73) -/

/-- The state in which a use has ended, before its channel is handed out. -/
def State.useClosed (s : State) (c : Fin 4) (a : ChanCause) : State :=
  (((s.release c).tellOwner (s.chan c).owner a.endStatus).putChan c (s.chan c).ended).logChan c (s.chan c).st a

theorem State.endUse_eq (s : State) (c : Fin 4) (a : ChanCause) :
    s.endUse c a = ((s.useClosed c a).handout c).checkFence := by
  unfold State.endUse State.useClosed
  dsimp only
  rw [State.tellOwner_chan, State.release_chan]

/-- CHANNEL_STATE of a use that ends with a cause (R79). -/
def State.endRecord (s : State) (c : Fin 4) (a : ChanCause) : LogRec :=
  s.record .channelState c.val (w4 (s.chan c).st.code 0 a.code 15) (wInt (s.chan c).i)

theorem State.useClosed_spec (s : State) (c : Fin 4) (a : ChanCause) :
    Frame [.breakIns, .requests, .channels, .logQueue, .lostCount] s (s.useClosed c a) ∧
      (s.useClosed c a).chan c = (s.chan c).ended ∧ (∀ d, d ≠ c → (s.useClosed c a).chan d = s.chan d) ∧
      (∀ i, (s.useClosed c a).line i =
        if (s.chan c).owner = some (.line i) then { s.line i with request := a.endStatus } else s.line i) ∧
      (∀ k, (s.useClosed c a).brk k = s.releasedRec c k) ∧ (s.useClosed c a).logNow = s.logged [s.endRecord c a] ∧
      (s.useClosed c a).path = s.path := by
  obtain ⟨-, -, -, -, -, hbrk⟩ := s.release_spec c
  have hput : Frame [.breakIns, .requests, .channels] s
      (((s.release c).tellOwner (s.chan c).owner a.endStatus).putChan c (s.chan c).ended) :=
    (((s.release_frame c).wide rfl).trans ((State.tellOwner_frame _ _ _).wide rfl)).trans
      ((State.putChan_frame _ c _).wide rfl)
  refine ⟨(hput.wide rfl).trans ((State.logChan_frame _ _ _ _).wide rfl), ?_, fun d hd => ?_, fun i => ?_, fun k => ?_, ?_, ?_⟩
  · rw [State.useClosed, State.logChan_chan, State.putChan_chan]
  · rw [State.useClosed, State.logChan_chan, State.putChan_chan_ne _ _ (Ne.symm hd), State.tellOwner_chan, State.release_chan]
  · have hline : (s.useClosed c a).line i = ((s.release c).tellOwner (s.chan c).owner a.endStatus).line i := rfl
    rw [hline, State.tellOwner_line, State.release_line]
  · have hmix : (s.useClosed c a).brk k = (s.release c).brk k := by
      show (((s.release c).tellOwner (s.chan c).owner a.endStatus).mixer.recs.get k) = _
      rw [State.tellOwner_mixer]
      rfl
    rw [hmix, hbrk]
  · have hnow : (((s.release c).tellOwner (s.chan c).owner a.endStatus).putChan c (s.chan c).ended).now = s.now :=
      hput.same .timebase rfl
    have hlog := State.log_after s _ hput rfl [] (by rw [State.logged_nil]; exact hput.logNow rfl rfl)
      .channelState c.val (w4 (s.chan c).st.code 0 a.code 15) (wInt (s.chan c).i)
    rw [State.useClosed, State.logChan, State.putChan_chan]
    simp only [State.record, hnow] at hlog
    exact hlog
  · rw [State.useClosed, State.logChan_path]
    show ((s.release c).tellOwner (s.chan c).owner a.endStatus).path = _
    rw [State.tellOwner_path, State.release_path]

theorem Chan.ended_fields (ch : Chan) : ch.ended.lasting = ch.lasting ∧ ch.ended.useNo = ch.useNo + 1 ∧
    ch.ended.queued = ch.queued ∧ ch.ended.pending = ch.pending := ⟨rfl, rfl, rfl, rfl⟩

/-- The end of a use after which another start begins. -/
theorem State.endUse_hands (h : bestStart (s.chan c).candidates = some st) (a : ChanCause) :
    s.endUse c a = ((s.useClosed c a).handsOver c st).requestBegin c st := by
  obtain ⟨-, hchan, -⟩ := s.useClosed_spec c a
  have hto : bestStart ((s.useClosed c a).chan c).candidates = some st := by
    rw [hchan]
    exact h
  rw [State.endUse_eq, State.handout_to hto]
  exact State.checkFence_kept (State.requestBegin_occupies _ c st)

theorem State.endUse_hands_line (h : bestStart (s.chan c).candidates = some st) (a : ChanCause) (i : Fin 6) : (s.endUse c a).line i =
    if st.owner = .line i then { s.line i with request := .running }
    else if (s.chan c).owner = some (.line i) then { s.line i with request := a.endStatus } else s.line i := by
  obtain ⟨-, -, -, hline, -⟩ := s.useClosed_spec c a
  rw [State.endUse_hands h, State.requestBegin_line, State.handsOver_line, hline]
  by_cases hown : (s.chan c).owner = some (.line i)
  · rw [if_pos hown]
  · rw [if_neg hown]

/-- What a handout takes from what waits for the channel. -/
theorem State.handsOver_takes (v : State) (c : Fin 4) (st : Start) :
    (st.owner = .host → (((v.handsOver c st).requestBegin c st).chan c).queued = none ∧
      (((v.handsOver c st).requestBegin c st).chan c).pending = (v.chan c).pending) ∧
    (∀ i, st.owner = .line i → (((v.handsOver c st).requestBegin c st).chan c).queued = (v.chan c).queued ∧
      (((v.handsOver c st).requestBegin c st).chan c).pending = (v.chan c).pending.filter fun x => x.owner != .line i) := by
  obtain ⟨hq, hp⟩ := (v.handsOver c st).requestBegin_queue c st
  rw [hq, hp, State.handsOver_chan]
  exact ⟨fun h => by rw [Chan.without_host _ h]; exact ⟨rfl, rfl⟩, fun i h => by rw [Chan.without_line _ h]; exact ⟨rfl, rfl⟩⟩

/-- A live use that ends hands its channel out (R73, R74). -/
theorem State.endUse_handedOut (hlive : (s.chan c).st.live = true) (h : (s.chan c).handsTo st) (a : ChanCause) :
    s.handedOut (s.endUse c a) c st a.code := by
  obtain ⟨hframe, hchan, hother, -, hbrk, hlog, hpath⟩ := s.useClosed_spec c a
  rw [State.endUse_hands (bestStart_of_handsTo h)]
  obtain ⟨hhost, hline⟩ := (s.useClosed c a).handsOver_takes c st
  have hended : ((s.useClosed c a).chan c).queued = (s.chan c).queued ∧
      ((s.useClosed c a).chan c).pending = (s.chan c).pending := by
    rw [hchan]
    exact ⟨rfl, rfl⟩
  rw [hended.1, hended.2] at hline
  rw [hended.2] at hhost
  refine ⟨hhost, hline, fun _ hup => ?_, fun w hdead => by rw [hlive] at hdead; cases hdead⟩
  generalize hv : (s.useClosed c a).handsOver c st = v
  have hvframe : Frame [.breakIns, .requests, .channels, .logQueue, .lostCount] s v := by
    rw [← hv]
    exact hframe.trans ((State.handsOver_frame _ c st).wide rfl)
  have hvchan : v.chan c = (s.chan c).ended.without st := by rw [← hv, State.handsOver_chan, hchan]
  have hvother (d : Fin 4) (hd : d ≠ c) : v.chan d = s.chan d := by rw [← hv, State.handsOver_chan_ne _ _ hd, hother d hd]
  have hvpath : v.path = s.path := by rw [← hv, (State.tellOwner_mixer_path _ c st).2.1, hpath]
  have hvbrk : v.brk = s.releasedRec c := by
    funext k
    rw [← hv, (State.handsOver_frame _ c st).brk_eq rfl, hbrk]
  have hvlog : v.logNow = s.logged [s.endRecord c a] := by
    rw [← hv, (State.handsOver_frame _ c st).logNow rfl rfl, hlog]
  obtain ⟨hlasting, huse, -⟩ := (s.chan c).ended.without_fields st
  have hdef : (v.chan c).defaults = (s.chan c).defaults := by
    rw [hvchan]
    exact congrArg Prod.fst hlasting
  rw [State.requestBegin_up v c st (by rw [hvpath, hup])]
  refine ⟨(v.beginNow_begins c st _ _).lasting (by rw [hvchan, hlasting]; rfl) (by rw [hvchan, huse]; exact Nat.le_succ _)
      (State.prog_of_same (hvframe.same .programmes rfl)), fun d hd => by rw [State.beginNow_chan_ne _ _ _ _ hd, hvother d hd],
    by rw [State.beginNow_path, hvpath, hup], fun honce => ?_⟩
  have hun : v.unjoined c := fun k => by
    rw [hvbrk]
    exact State.releasedRec_unjoined honce k
  have hjoins := State.begin_joins (st := st) hvframe rfl (fun d hd => by rw [hvother d hd]) hdef hun hvlog .idle .begin_
  rw [hvbrk] at hjoins
  exact hjoins

/-! ### A begin waiting cancelled (R73) -/

/-- The state in which a begin waiting is cancelled, before its channel is handed out. -/
def State.waitCancelled (s : State) (c : Fin 4) (a : ChanCause) : State :=
  (s.setChan c { s.chan c with waiting := none }).tellOwner ((s.chan c).waiting.map Start.owner) a.endStatus

theorem State.cancelWaiting_eq (s : State) (c : Fin 4) (a : ChanCause) :
    s.cancelWaiting c a = ((s.waitCancelled c a).handout c).checkFence := rfl

theorem State.waitCancelled_spec (s : State) (c : Fin 4) (a : ChanCause) :
    Frame [.channels, .requests] s (s.waitCancelled c a) ∧
      (s.waitCancelled c a).chan c = { s.chan c with waiting := none } ∧
      (∀ d, d ≠ c → (s.waitCancelled c a).chan d = s.chan d) ∧
      (∀ i, (s.waitCancelled c a).line i = if (s.chan c).waiting.map Start.owner = some (.line i)
        then { s.line i with request := a.endStatus } else s.line i) ∧
      (s.waitCancelled c a).mixer = s.mixer ∧ (s.waitCancelled c a).path = s.path ∧
      (s.waitCancelled c a).playout.waitOrder = s.playout.waitOrder := by
  refine ⟨((s.setChan_frame c _).wide rfl).trans ((State.tellOwner_frame _ _ _).wide rfl), ?_, fun d hd => ?_, fun i => ?_,
    ?_, ?_, ?_⟩
  · rw [State.waitCancelled, State.tellOwner_chan, State.chan_setChan]
  · rw [State.waitCancelled, State.tellOwner_chan, State.chan_setChan_ne _ _ (Ne.symm hd)]
  · rw [State.waitCancelled, State.tellOwner_line]
    rfl
  · rw [State.waitCancelled, State.tellOwner_mixer]
    rfl
  · rw [State.waitCancelled, State.tellOwner_path]
    rfl
  · rw [State.waitCancelled, State.tellOwner_playout]
    rfl

theorem State.cancelWaiting_hands (h : bestStart (s.chan c).candidates = some st) (a : ChanCause) :
    s.cancelWaiting c a = ((s.waitCancelled c a).handsOver c st).requestBegin c st := by
  obtain ⟨-, hchan, -⟩ := s.waitCancelled_spec c a
  have hto : bestStart ((s.waitCancelled c a).chan c).candidates = some st := by
    rw [hchan]
    exact h
  rw [State.cancelWaiting_eq, State.handout_to hto]
  exact State.checkFence_kept (State.requestBegin_occupies _ c st)

theorem State.cancelWaiting_hands_line (h : bestStart (s.chan c).candidates = some st) (hw : (s.chan c).waiting = some w) (a : ChanCause)
    (i : Fin 6) : (s.cancelWaiting c a).line i =
      if st.owner = .line i then { s.line i with request := .running }
      else if w.owner = .line i then { s.line i with request := a.endStatus } else s.line i := by
  obtain ⟨-, -, -, hline, -⟩ := s.waitCancelled_spec c a
  rw [State.cancelWaiting_hands h, State.requestBegin_line, State.handsOver_line, hline, hw, Option.map_some]
  by_cases hown : w.owner = .line i
  · rw [if_pos (congrArg some hown), if_pos hown]
  · rw [if_neg fun e => hown (Option.some.inj e), if_neg hown]

/-- A start handed a channel whose begin waiting was cancelled, the fence still rising (R74). -/
theorem State.cancelWaiting_waits (h : bestStart (s.chan c).candidates = some st) (hraising : s.path.fence = .raising) (a : ChanCause) :
    ((s.cancelWaiting c a).chan c).waiting = some st ∧
      (s.cancelWaiting c a).playout.waitOrder =
        (if c ∈ s.playout.waitOrder then s.playout.waitOrder else s.playout.waitOrder ++ [c]) ∧
      (s.cancelWaiting c a).path.fence = .raising ∧ (∀ d, d ≠ c → (s.cancelWaiting c a).chan d = s.chan d) ∧
      (s.cancelWaiting c a).mixer = s.mixer ∧ (s.cancelWaiting c a).logNow = s.logNow := by
  obtain ⟨hframe, hchan, hother, -, hmixer, hpath, horder⟩ := s.waitCancelled_spec c a
  rw [State.cancelWaiting_hands h]
  obtain ⟨hmixer', hpath', horder'⟩ := (s.waitCancelled c a).tellOwner_mixer_path c st
  have hover := hframe.trans (((s.waitCancelled c a).handsOver_frame c st).wide rfl)
  have hotherV (d : Fin 4) (hd : d ≠ c) : ((s.waitCancelled c a).handsOver c st).chan d = s.chan d := by
    rw [State.handsOver_chan_ne _ _ hd, hother d hd]
  generalize (s.waitCancelled c a).handsOver c st = v at hmixer' hpath' horder' hover hotherV
  have hparks : v.requestBegin c st = v.parked c st :=
    State.requestBegin_parks (.inl (by rw [hpath', hpath, hraising])) c st
  rw [hparks]
  refine ⟨by rw [State.parked_chan], by rw [State.parked_waitOrder, horder', horder], rfl,
    fun d hd => by rw [State.parked_chan_ne _ _ hd, hotherV d hd], hmixer'.trans hmixer, ?_⟩
  exact ((v.parked_frame c st).logNow rfl rfl).trans (hover.logNow rfl rfl)

/-- A begin waiting that is cancelled hands its channel out (R73, R74). -/
theorem State.cancelWaiting_handedOut (hdead : (s.chan c).st.live = false) (h : (s.chan c).handsTo st) (a : ChanCause) (n : Nat) :
    s.handedOut (s.cancelWaiting c a) c st n := by
  obtain ⟨-, hchan, -⟩ := s.waitCancelled_spec c a
  obtain ⟨hhost, hline⟩ := (s.waitCancelled c a).handsOver_takes c st
  rw [← State.cancelWaiting_hands (bestStart_of_handsTo h), hchan] at hhost hline
  refine ⟨hhost, hline, fun hlive => by simp [hdead] at hlive, fun w _ _ hraising hc => ?_⟩
  obtain ⟨hwait, horder, hfence, hother, hmixer, hlog⟩ := State.cancelWaiting_waits (bestStart_of_handsTo h) hraising a
  exact ⟨hwait, by rw [horder, if_pos hc], hfence, fun d hd => by rw [hother d hd], hmixer, hlog⟩

/-- A begin waiting cancelled with no other start: the record, the order of waiting and the fence. -/
theorem State.cancelWaiting_ends (h : (s.chan c).noStarts) (a : ChanCause) :
    (s.cancelWaiting c a).chan c = { s.chan c with waiting := none } ∧
      (∀ d, d ≠ c → (s.cancelWaiting c a).chan d = s.chan d) ∧
      (s.cancelWaiting c a).playout.waitOrder = (s.playout.waitOrder.filter fun d => d != c) ∧
      (∀ i, (s.cancelWaiting c a).line i = if (s.chan c).waiting.map Start.owner = some (.line i)
        then { s.line i with request := a.endStatus } else s.line i) ∧
      (s.cancelWaiting c a).path.fence = (if ∀ d, ((s.cancelWaiting c a).chan d).st.live = false ∧
        ((s.cancelWaiting c a).chan d).waiting = none then .down else s.path.fence) ∧
      (s.cancelWaiting c a).mixer = s.mixer ∧
      Frame [.requests, .channels, .startOrder, .fence] s (s.cancelWaiting c a) := by
  obtain ⟨hframe, hchan, hother, hline, hmixer, hpath, horder⟩ := s.waitCancelled_spec c a
  have hno : ((s.waitCancelled c a).chan c).noStarts := by
    rw [hchan]
    exact h
  have hout := State.handout_none hno
  have heq : s.cancelWaiting c a = State.checkFence _ := congrArg State.checkFence hout
  have hchans (d : Fin 4) : (s.cancelWaiting c a).chan d = (s.waitCancelled c a).chan d := by
    rw [heq, State.checkFence_chan]
    rfl
  refine ⟨by rw [hchans, hchan], fun d hd => by rw [hchans, hother d hd], ?_, fun i => ?_, ?_, ?_, ?_⟩
  · rw [heq, (State.checkFence_frame _).same .startOrder rfl]
    exact congrArg (List.filter fun d => d != c) horder
  · rw [heq, (State.checkFence_frame _).line_eq rfl rfl]
    exact hline i
  · rw [heq, State.checkFence_fence]
    simp only [State.checkFence_chan]
    exact congrArg (fun f => ite _ Fence.down f) (congrArg MemPath.fence hpath)
  · rw [heq]
    unfold State.checkFence
    split <;> exact hmixer
  · rw [heq]
    refine (hframe.wide rfl).trans (Frame.trans (l := [.requests, .channels, .startOrder, .fence]) ?_
      ((State.checkFence_frame _).wide rfl))
    intro p hp
    cases p <;> first | exact absurd (by decide) hp | simp [Same, State.line]

theorem State.handout_change (s : State) (c : Fin 4) : (s.handout c).plan.change.isSome = s.plan.change.isSome := by
  unfold State.handout
  split
  · rw [State.requestBegin_change, (State.tellOwner_frame _ _ _).change_isSome rfl]
    rfl
  · rfl

theorem State.endUse_change (s : State) (c : Fin 4) (a : ChanCause) :
    (s.endUse c a).plan.change.isSome = s.plan.change.isSome := by
  obtain ⟨hframe, -⟩ := s.useClosed_spec c a
  rw [State.endUse_eq, (State.checkFence_frame _).change_isSome rfl, State.handout_change, hframe.change_isSome rfl]

theorem State.cancelWaiting_change (s : State) (c : Fin 4) (a : ChanCause) :
    (s.cancelWaiting c a).plan.change.isSome = s.plan.change.isSome := by
  obtain ⟨hframe, -⟩ := s.waitCancelled_spec c a
  rw [State.cancelWaiting_eq, (State.checkFence_frame _).change_isSome rfl, State.handout_change, hframe.change_isSome rfl]

/-- What a handout leaves, in a state with the same channels, fence, section records and log. -/
theorem State.handedOut.of_same {n : Nat} (h : s.handedOut t c st n) (hchan : ∀ d, (u.chan d).still = (t.chan d).still)
    (hfence : u.path.fence = t.path.fence) (horder : u.playout.waitOrder = t.playout.waitOrder) (hmixer : u.mixer = t.mixer)
    (hlog : u.logNow = t.logNow) : s.handedOut u c st n := by
  obtain ⟨hhost, hline, hlive, hwaits⟩ := h
  obtain ⟨hq, hp, hw⟩ := Chan.waits_of_still (hchan c)
  have huse : (u.chan c).useNo = (t.chan c).useNo := by
    have := congrArg Chan.useNo (hchan c)
    exact this
  have hbrk (k : Fin 24) : u.brk k = t.brk k := by simp only [State.brk, hmixer]
  refine ⟨by rw [hq, hp]; exact hhost, fun k hk => by rw [hq, hp]; exact hline k hk, fun hl hup => ?_,
    fun w hdead hwait hraising hc => ?_⟩
  · obtain ⟨⟨hmore, hstill⟩, hother, hf, hjoin⟩ := hlive hl hup
    refine ⟨⟨by rw [huse]; exact hmore, by rw [hchan, hq, hp, huse]; exact hstill⟩,
      fun d hd => (hchan d).trans (hother d hd), hfence.trans hf, fun honce => ?_⟩
    obtain ⟨hjoins, hrecs⟩ := hjoin honce
    exact ⟨fun k => (hbrk k).trans (hjoins k), hlog.trans hrecs⟩
  · obtain ⟨hst, ho, hf, hother, hm, hl⟩ := hwaits w hdead hwait hraising hc
    exact ⟨hw.trans hst, horder.trans ho, hfence.trans hf, fun d hd => (hchan d).trans (hother d hd), hmixer.trans hm,
      hlog.trans hl⟩

theorem State.settle_mixer (s : State) : s.settle.mixer = s.mixer := by
  have hrecs := s.settle_recs
  have harmed := s.settle_armedTable
  cases hm : s.settle.mixer
  cases hm' : s.mixer
  simp_all

theorem State.handedOut.settled {n : Nat} (h : s.handedOut t c st n) : s.handedOut t.settle c st n :=
  h.of_same t.settle_still t.settle_fence t.settle_waitOrder t.settle_mixer t.settle_logNow

end Sys2Proof.Machine
end

section
/-! PROOFS. STOP and CONTINUE (chapter 04). -/

namespace Sys2Proof.Machine

variable {s t u v : State} {c d : Fin 4} {st w : Start} {k : Fin 24} {a : ChanCause} {r : ResultCode}

/-! ### An answer stands through the playout unit's operations -/

theorem State.answered.of_same (h : s.answered r 0 0) (hp : t.plan = s.plan) (ha : t.arb = s.arb) : t.answered r 0 0 := by
  obtain ⟨hstage, hhas⟩ := h
  refine ⟨?_, ?_⟩
  · unfold State.stage at hstage ⊢
    rw [hp]
    exact hstage
  · unfold State.planHas at hhas ⊢
    rw [hp, ha]
    exact hhas

theorem State.tellOwner_plan (s : State) (o : Option Owner) (x : ReqStatus) : (s.tellOwner o x).plan = s.plan := by
  unfold State.tellOwner
  split <;> rfl

theorem State.tellOwner_arb (s : State) (o : Option Owner) (x : ReqStatus) : (s.tellOwner o x).arb = s.arb := by
  unfold State.tellOwner
  split <;> rfl

theorem State.requestBegin_answered_kept (h : s.answered r 0 0) (c : Fin 4) (st : Start) :
    (s.requestBegin c st).answered r 0 0 := by
  rcases s.fence_cases with hf | ⟨hf, hq⟩ | hf
  · rw [State.requestBegin_up s c st hf]
    exact State.beginNow_answered_kept h c st _ _
  · rw [State.requestBegin_opens hf hq, State.fenceUp_eq]
    exact foldBegins_keeps (P := fun v => v.answered r 0 0) (fun _ c h => beginWaiting_answered h c) _
      (s := (s.awaiting c st).fenceRaised) h
  · rw [State.requestBegin_parks hf]
    exact h

theorem State.handout_answered (h : s.answered r 0 0) (c : Fin 4) : (s.handout c).answered r 0 0 := by
  unfold State.handout
  split
  · refine State.requestBegin_answered_kept (h.of_same ?_ ?_) c _
    · rw [State.tellOwner_plan]; rfl
    · rw [State.tellOwner_arb]; rfl
  · exact h

theorem State.checkFence_answered (h : s.answered r 0 0) : s.checkFence.answered r 0 0 := by
  unfold State.checkFence
  split <;> exact h

theorem State.useClosed_plan (s : State) (c : Fin 4) (a : ChanCause) : (s.useClosed c a).plan = s.plan := by
  obtain ⟨-, -, -, -, hplan, -⟩ := s.release_spec c
  show ((s.release c).tellOwner (s.chan c).owner a.endStatus).plan = _
  rw [State.tellOwner_plan, hplan]

theorem State.useClosed_arb (s : State) (c : Fin 4) (a : ChanCause) : (s.useClosed c a).arb = s.arb := by
  show ((s.release c).tellOwner (s.chan c).owner a.endStatus).arb = _
  rw [State.tellOwner_arb]
  exact ((calmKeeps s).release c (Calm.refl s)).2

theorem State.endUse_answered (h : s.answered r 0 0) (c : Fin 4) (a : ChanCause) : (s.endUse c a).answered r 0 0 := by
  rw [State.endUse_eq]
  exact State.checkFence_answered (State.handout_answered (h.of_same (s.useClosed_plan c a) (s.useClosed_arb c a)) c)

theorem State.listError_answered (h : s.answered r 0 0) (c : Fin 4) (x : ListReason) : (s.listError c x).answered r 0 0 :=
  State.endUse_answered (s := s.log _ _ _ _) h c _

theorem State.enterLine_answered (h : s.answered r 0 0) (c : Fin 4) (n : Nat) : (s.enterLine c n).answered r 0 0 := by
  refine h.of_same ?_ ?_
  · rw [State.enterLine, State.requestLine_plan]; rfl
  · exact ((calmKeeps s).enterLine c n (Calm.refl s)).2

theorem State.nextEntry_answered (h : s.answered r 0 0) (c : Fin 4) : (s.nextEntry c).answered r 0 0 := by
  unfold State.nextEntry
  dsimp only
  split
  · exact State.enterLine_answered (s := s.setChan c _) h c _
  · exact h

theorem actMarker_answered (h : s.answered r 0 0) (c : Fin 4) (m : Marker) : (actMarker c s m).answered r 0 0 := by
  cases m <;> exact h

theorem State.attachMarker_answered (h : s.answered r 0 0) (c : Fin 4) (m : Marker) :
    (s.attachMarker c m).answered r 0 0 := by
  unfold State.attachMarker
  dsimp only
  split
  · exact h
  · exact actMarker_answered h c m

theorem State.assignBlock_answered (h : s.answered r 0 0) (c : Fin 4) (src len : Nat) :
    (s.assignBlock c src len).answered r 0 0 := by
  unfold State.assignBlock
  dsimp only
  split
  · exact h
  · exact State.nextEntry_answered (s := s.setChan c _) h c

theorem State.meetEnd_answered (h : s.answered r 0 0) (c : Fin 4) : (s.meetEnd c).answered r 0 0 := by
  unfold State.meetEnd
  dsimp only
  split
  · exact h
  · split
    · exact h
    · split
      · exact State.endUse_answered (s := s.setChan c _) h c _
      · exact h

theorem State.meetHold_answered (h : s.answered r 0 0) (c : Fin 4) : (s.meetHold c).answered r 0 0 :=
  State.nextEntry_answered (State.attachMarker_answered h c .hold) c

theorem State.takeEntry_answered (h : s.answered r 0 0) (c : Fin 4) (e : ListEntry) : (s.takeEntry c e).answered r 0 0 := by
  unfold State.takeEntry
  dsimp only
  split
  · split
    · exact State.nextEntry_answered h c
    · split
      · exact State.assignBlock_answered h c _ _
      · exact State.listError_answered h c _
  · exact State.nextEntry_answered (State.attachMarker_answered h c _) c
  · exact State.meetHold_answered h c
  · exact State.meetEnd_answered h c
  · exact State.listError_answered h c _

theorem State.walk_answered (h : s.answered r 0 0) (c : Fin 4) : (s.walk c).answered r 0 0 := by
  have hfor : ∀ (n u : Nat) (s : State), s.answered r 0 0 → (walkFor c u n s).answered r 0 0 := by
    intro n
    induction n with
    | zero => exact fun _ _ h => h
    | succ n ih =>
      intro u s h
      unfold walkFor
      dsimp only
      split
      · exact h
      · split
        · exact State.listError_answered h c _
        · split
          · exact State.listError_answered h c _
          · split
            · exact h
            · split
              · exact State.listError_answered h c _
              · exact ih u _ (State.takeEntry_answered h c _)
  exact hfor _ _ s h

/-! ### STOP (R75) -/

theorem byteAt_zero (x : Word) : byteAt x 0 = x.toNat % 256 := by
  simp [byteAt]

theorem toFin_high {n m : Nat} (h : n ≤ m) : toFin? n m = none := dif_neg (Nat.not_lt.mpr h)

theorem State.hostStop_bad (s : State) {n : Nat} (h : 4 ≤ n) : s.hostStop n = s.finish .badArgument := by
  rw [State.hostStop, toFin_high h]

theorem State.hostStop_idle (h : (s.chan c).st.live = false) (hw : (s.chan c).waiting = none) :
    s.hostStop c.val = s.finish .refusedState := by
  rw [State.hostStop, toFin_self]
  simp [h, hw]

theorem State.hostStop_live (h : (s.chan c).st.live = true) : s.hostStop c.val = (s.endUse c .stop).finish .done := by
  rw [State.hostStop, toFin_self]
  simp [h]

theorem State.hostStop_waiting (h : (s.chan c).st.live = false) (hw : (s.chan c).waiting = some w) :
    s.hostStop c.val = (s.cancelWaiting c .stop).finish .done := by
  rw [State.hostStop, toFin_self]
  simp [h, hw]

theorem Chan.noStarts_of_best {ch : Chan} (h : bestStart ch.candidates = none) : ch.noStarts := by
  have hnil : ch.candidates = [] := by
    cases hc : ch.candidates with
    | nil => rfl
    | cons x xs =>
      rw [hc, bestStart] at h
      split at h
      · split at h <;> cases h
      · cases h
  rw [Chan.candidates, List.append_eq_nil_iff] at hnil
  exact ⟨Option.toList_eq_nil_iff.mp hnil.2, hnil.1⟩

/-- The end of a use makes its channel's mirror record dirty (R79). -/
theorem State.endUse_dirty (hf : s.inForce = true) (hlive : (s.chan c).st.live = true) (h : (s.chan c).noStarts)
    (a : ChanCause) : (s.endUse c a).report.dirty.getLsbD (c.val + 25) = true := by
  have := c.isLt
  obtain ⟨-, hchan, -⟩ := s.useClosed_spec c a
  have hno : ((s.useClosed c a).chan c).noStarts := by
    rw [hchan]
    exact h
  have hrep : (s.endUse c a).report = (s.useClosed c a).report := by
    rw [State.endUse_eq, State.handout_none hno]
    unfold State.checkFence
    split <;> rfl
  have hmoved : (((s.release c).tellOwner (s.chan c).owner a.endStatus).chan c).st ≠ (s.chan c).ended.st := by
    rw [State.tellOwner_chan, State.release_chan]
    intro e
    rw [show (s.chan c).st = .idle from e] at hlive
    cases hlive
  have hforce : ((s.release c).tellOwner (s.chan c).owner a.endStatus).inForce = true := by
    have hframe : Frame [.breakIns, .requests] s ((s.release c).tellOwner (s.chan c).owner a.endStatus) :=
      ((s.release_frame c).wide rfl).trans ((State.tellOwner_frame _ _ _).wide rfl)
    have hpart : _ = s.plan.partState := hframe.same .partState rfl
    simpa only [State.inForce, hpart] using hf
  rw [hrep, State.useClosed, State.logChan, State.log_dirty]
  simp only [State.putChan, State.markIf, State.inForce_setChan, hforce, Bool.and_true, bne_iff_ne.mpr hmoved, Bool.true_or,
    if_true, mirrorOfChan, BitVec.getLsbD_or, BitVec.getLsbD_twoPow]
  simp
  omega

theorem State.finish_line (s : State) (r : ResultCode) (i : Fin 6) : (s.finish r).line i = s.line i := rfl

theorem State.finish_logNow (s : State) (r : ResultCode) : (s.finish r).logNow = s.logNow := rfl

/-- What a begin waiting that is cancelled leaves alone, with no other start or the fence still rising. -/
theorem State.cancelWaiting_quiet (h : (s.chan c).noStarts ∨ s.path.fence = .raising) (a : ChanCause) :
    (s.cancelWaiting c a).mixer = s.mixer ∧ (s.cancelWaiting c a).logNow = s.logNow ∧
      ∀ d, d ≠ c → (s.cancelWaiting c a).chan d = s.chan d := by
  have hends (hno : (s.chan c).noStarts) : (s.cancelWaiting c a).mixer = s.mixer ∧
      (s.cancelWaiting c a).logNow = s.logNow ∧ ∀ d, d ≠ c → (s.cancelWaiting c a).chan d = s.chan d := by
    obtain ⟨-, hother, -, -, -, hmixer, hframe⟩ := State.cancelWaiting_ends hno a
    exact ⟨hmixer, hframe.logNow rfl rfl, hother⟩
  cases hbest : bestStart (s.chan c).candidates with
  | none => exact hends (Chan.noStarts_of_best hbest)
  | some st =>
    rcases h with hno | hraising
    · exact hends hno
    · obtain ⟨-, -, -, hother, hmixer, hlog⟩ := State.cancelWaiting_waits hbest hraising a
      exact ⟨hmixer, hlog, hother⟩

theorem State.handedOut.finished {n : Nat} (h : s.handedOut t c st n) (r : ResultCode) : s.handedOut (t.finish r) c st n :=
  h.of_same (fun _ => rfl) rfl rfl rfl rfl

/-! ### CONTINUE (R72) -/

theorem State.hostContinue_bad (s : State) {n : Nat} (h : 4 ≤ n) : s.hostContinue n = s.finish .badArgument := by
  rw [State.hostContinue, toFin_high h]

theorem State.hostContinue_refused (h : (s.chan c).st ≠ .held) : s.hostContinue c.val = s.finish .refusedState := by
  rw [State.hostContinue, toFin_self]
  exact if_neg h

/-- The state in which the walk of a channel that continues goes on. -/
def State.resumed (s : State) (c : Fin 4) : State :=
  ((s.setChan c (s.chan c).continued).putChanState c .playing .continue_).finish .done

theorem State.hostContinue_held (h : (s.chan c).st = .held) : s.hostContinue c.val = (s.resumed c).walk c := by
  rw [State.hostContinue, toFin_self]
  exact if_pos h

theorem State.resumed_frame (s : State) (c : Fin 4) : Frame [.change, .channels, .logQueue, .lostCount] s (s.resumed c) :=
  (((s.setChan_frame c _).wide rfl).trans ((State.putChanState_frame _ c _ _).wide rfl)).trans
    ((State.finish_frame _ _).wide rfl)

theorem State.resumed_chan_ne (s : State) (h : d ≠ c) : (s.resumed c).chan d = s.chan d := by
  show (((s.setChan c (s.chan c).continued).putChan c _).chan d) = _
  rw [State.putChan_chan_ne _ _ (Ne.symm h), State.chan_setChan_ne _ _ (Ne.symm h)]

theorem State.resumed_chan (s : State) (c : Fin 4) : (s.resumed c).chan c = { (s.chan c).continued with st := .playing } := by
  show (((s.setChan c (s.chan c).continued).putChan c _).chan c) = _
  rw [State.putChan_chan, State.chan_setChan]

theorem State.logChan_after {l : List Part} {es : List LogRec} {o : ChanState} (h : Frame l s t)
    (hl : (Part.within [.partState] l || Part.within [.logIndices] l || Part.within [.reportBases] l ||
      Part.within [.timebase] l) = false) (hes : t.logNow = s.logged es) :
    (t.logChan c o a).logNow = s.logged (es ++ [s.record .channelState c.val
      (w4 o.code (t.chan c).st.code a.code (ownerCode (t.chan c).owner + 16 * (t.chan c).prio)) (wInt (t.chan c).i)]) := by
  simp only [Bool.or_eq_false_iff] at hl
  obtain ⟨⟨⟨hpart, hidx⟩, hbases⟩, htime⟩ := hl
  have hnow : t.now = s.now := h.same .timebase htime
  rw [State.logChan, State.log_after s t h (by simp [hpart, hidx, hbases]) es hes]
  simp only [State.record, hnow]

theorem State.resumed_logNow (s : State) (h : (s.chan c).st = .held) : (s.resumed c).logNow = s.logged
    [s.record .channelState c.val (w4 3 2 5 (ownerCode (s.chan c).owner + 16 * (s.chan c).prio)) (wInt (s.chan c).i)] := by
  have hput : Frame [.channels] s ((s.setChan c (s.chan c).continued).putChan c
      { (s.setChan c (s.chan c).continued).chan c with st := .playing }) :=
    (s.setChan_frame c _).trans (State.putChan_frame _ c _)
  have hlog := State.logChan_after (c := c) (o := ((s.setChan c (s.chan c).continued).chan c).st) (a := .continue_) hput rfl
    (es := []) (by rw [State.logged_nil]; exact hput.logNow rfl rfl)
  rw [State.putChan_chan, State.chan_setChan, show (s.chan c).continued.st = .held from h] at hlog
  rw [State.resumed, State.finish_logNow]
  unfold State.putChanState
  rw [State.chan_setChan, show (s.chan c).continued.st = .held from h]
  exact hlog

/-- Settles O57: STOP by the channel's current start, and CONTINUE of a HELD channel. -/
theorem stopAndContinue : Obligations.StopAndContinue := by
  refine ⟨fun c ch s h hch => ?_, fun c ch s h hch => ?_⟩
  · obtain ⟨hreset, hhanded, hchange⟩ := State.handed_of_carriesOut h
    have hexec : exec .stop s = .next (s.hostStop ch).settle := by
      rw [hch, ← byteAt_zero]
      exact exec_effect rfl rfl hreset hhanded
    have hend : (s.endUse c .stop).plan.change.isSome = true := by rw [State.endUse_change, hchange]
    have hcancel : (s.cancelWaiting c .stop).plan.change.isSome = true := by rw [State.cancelWaiting_change, hchange]
    refine ⟨_, hexec, (s.hostStop_frame ch).settled, fun hbad => ?_, fun hc hdead hnone => ?_, fun hc hlive => ?_,
      fun hc hlive hq hp => ?_, fun w hc hdead hw => ?_, fun st hc hbusy hto => ?_⟩
    · rw [State.hostStop_bad s hbad]
      exact ⟨State.settle_answered _ _ _ _ (State.finish_answered _ _ hchange), (s.finish_frame _).settled⟩
    · rw [hc, State.hostStop_idle hdead hnone]
      exact ⟨State.settle_answered _ _ _ _ (State.finish_answered _ _ hchange), (s.finish_frame _).settled⟩
    · rw [hc, State.hostStop_live hlive]
      exact State.settle_answered _ _ _ _ (State.finish_answered _ _ hend)
    · rw [hc, State.hostStop_live hlive]
      obtain ⟨hends, hlog⟩ := s.endUse_ends c .stop ⟨hq, hp⟩
      refine ⟨by rw [State.settle_logNow, State.finish_logNow, hlog]; rfl, fun hf => State.settle_mirrorDue _ _ (.inl ?_), s.endUse c .stop, hends,
        s.endUse_frame c .stop, fun i => State.settle_line _ i, ((State.finish_frame _ _).wide rfl).settled⟩
      exact State.endUse_dirty hf hlive ⟨hq, hp⟩ .stop
    · rw [hc, State.hostStop_waiting hdead hw]
      refine ⟨State.settle_answered _ _ _ _ (State.finish_answered _ _ hcancel), fun hquiet => ?_, fun hno => ?_⟩
      · obtain ⟨hmixer, hlog, hother⟩ := State.cancelWaiting_quiet hquiet .stop
        exact ⟨(State.settle_mixer _).trans hmixer, by rw [State.settle_logNow, State.finish_logNow, hlog],
          fun d hd => (State.settle_still _ d).trans (congrArg Chan.still (hother d hd))⟩
      · obtain ⟨hchan, -, horder, hline, hfence, -, -⟩ := State.cancelWaiting_ends hno .stop
        refine ⟨(State.settle_still _ c).trans (congrArg Chan.still hchan), ?_, fun k => ?_, ?_⟩
        · rw [State.settle_waitOrder]
          show c ∉ (s.cancelWaiting c .stop).playout.waitOrder
          rw [horder]
          simp
        · rw [State.settle_line, State.finish_line, hline, hw, Option.map_some]
          by_cases hown : w.owner = .line k
          · rw [if_pos (congrArg some hown), if_pos hown]
            rfl
          · rw [if_neg fun e => hown (Option.some.inj e), if_neg hown]
        · generalize s.cancelWaiting c .stop = z at hfence
          simp only [State.settle_fence, State.settle_chan_st, State.settle_chan_waiting]
          exact hfence
    · by_cases hlive : (s.chan c).st.live = true
      · rw [hc, State.hostStop_live hlive]
        refine ⟨((State.endUse_handedOut hlive hto .stop).finished .done).settled, fun _ i => ?_, fun w hdead => ?_⟩
        · rw [State.settle_line, State.finish_line]
          exact State.endUse_hands_line (bestStart_of_handsTo hto) .stop i
        · rw [hlive] at hdead
          cases hdead
      · rw [Bool.not_eq_true] at hlive
        obtain ⟨w, hw⟩ := Option.isSome_iff_exists.mp (hbusy.resolve_left (by rw [hlive]; exact Bool.false_ne_true))
        rw [hc, State.hostStop_waiting hlive hw]
        refine ⟨((State.cancelWaiting_handedOut hlive hto .stop 7).finished .done).settled, fun hl => ?_, fun x _ hx i => ?_⟩
        · rw [hlive] at hl
          cases hl
        · rw [hw] at hx
          cases hx
          rw [State.settle_line, State.finish_line]
          exact State.cancelWaiting_hands_line (bestStart_of_handsTo hto) hw .stop i
  · obtain ⟨hreset, hhanded, hchange⟩ := State.handed_of_carriesOut h
    have hexec : exec .continueChannel s = .next (s.hostContinue ch).settle := by
      rw [hch, ← byteAt_zero]
      exact exec_effect rfl rfl hreset hhanded
    refine ⟨_, hexec, (s.hostContinue_frame ch).settled, fun hbad => ?_, fun hc hst => ?_, fun hc hst => ?_⟩
    · rw [State.hostContinue_bad s hbad]
      exact ⟨State.settle_answered _ _ _ _ (State.finish_answered _ _ hchange), (s.finish_frame _).settled⟩
    · rw [hc, State.hostContinue_refused hst]
      exact ⟨State.settle_answered _ _ _ _ (State.finish_answered _ _ hchange), (s.finish_frame _).settled⟩
    · rw [hc, State.hostContinue_held hst]
      have hdone : (s.resumed c).answered .done 0 0 := State.finish_answered _ _ hchange
      refine ⟨State.settle_answered _ _ _ _ (State.walk_answered hdone c), s.resumed c, ?_, fun d hd => s.resumed_chan_ne hd,
        s.resumed_logNow hst, s.resumed_frame c, (Frame.refl [] _).settled⟩
      rw [State.resumed_chan]
      rfl

end Sys2Proof.Machine
end

section
/-! PROOFS. START (chapter 04). -/

namespace Sys2Proof.Machine

variable {s t u v : State} {c d : Fin 4} {st w : Start} {ch la prio rep : Nat} {mask : SecSet}

/-! ### The arguments and the state in which a START begins -/

theorem State.startArgsOk_iff : s.startArgsOk ch prio la = true ↔
    ch < 4 ∧ (1 ≤ prio ∧ prio ≤ 7) ∧ la % 64 = 0 ∧ (s.path.clipRegion la).isSome = true := by
  simp only [State.startArgsOk, Bool.and_eq_true, decide_eq_true_eq, and_assoc]

theorem State.startArgsOk_false (h : 4 ≤ ch ∨ prio = 0 ∨ 7 < prio ∨ la % 64 ≠ 0 ∨ s.path.clipRegion la = none) :
    s.startArgsOk ch prio la = false := by
  rw [← Bool.not_eq_true, State.startArgsOk_iff]
  rintro ⟨hch, ⟨hlow, hhigh⟩, hal, hclip⟩
  rcases h with h | h | h | h | h
  · omega
  · omega
  · omega
  · exact h hal
  · rw [h] at hclip
    cases hclip

theorem State.startArgsOk_true {r : Region} (hlow : 1 ≤ prio) (hhigh : prio ≤ 7) (hal : la % 64 = 0)
    (hclip : s.path.clipRegion la = some r) : s.startArgsOk c.val prio la = true :=
  State.startArgsOk_iff.mpr ⟨c.isLt, ⟨hlow, hhigh⟩, hal, by rw [hclip]; rfl⟩

/-- The change waits for its start. -/
def State.starting (s : State) : State := s.setStage .startWait

theorem State.starting_frame (s : State) : Frame [.change] s s.starting := s.setStage_frame _

theorem State.starting_change (s : State) : s.starting.plan.change.isSome = s.plan.change.isSome := by
  unfold State.starting State.setStage
  cases h : s.plan.change with
  | none => exact congrArg Option.isSome h
  | some x => rfl

theorem State.starting_stage (h : s.plan.change.isSome = true) : s.starting.stage = some .startWait := by
  obtain ⟨x, hx⟩ := Option.isSome_iff_exists.mp h
  rw [State.stage, State.starting, State.setStage_change hx]
  rfl

theorem State.starting_begins : s.starting.begins t c st ↔ s.begins t c st := Iff.rfl

theorem State.starting_chan (s : State) (c : Fin 4) : s.starting.chan c = s.chan c := rfl

theorem State.starting_logged (s : State) (es : List LogRec) : s.starting.logged es = s.logged es :=
  s.starting_frame.logged rfl es

/-! ### The decision (R66) -/

theorem Chan.currentPrio_idle {x : Chan} (h : x.st.live = false) (hw : x.waiting = none) : x.currentPrio = none := by
  simp [Chan.currentPrio, h, hw]

theorem Chan.currentPrio_live {x : Chan} (h : x.st.live = true) : x.currentPrio = some x.prio := by
  simp [Chan.currentPrio, h]

theorem Chan.currentPrio_waiting {x : Chan} (h : x.st.live = false) (hw : x.waiting = some w) :
    x.currentPrio = some w.prio := by
  simp [Chan.currentPrio, h, hw]

theorem Chan.currentPrio_ge {x : Chan} (h : x.st.live = true ∧ prio ≤ x.prio ∨
    x.st.live = false ∧ ∃ w, x.waiting = some w ∧ prio ≤ w.prio) : ∃ q, x.currentPrio = some q ∧ prio ≤ q := by
  rcases h with ⟨hlive, hle⟩ | ⟨hdead, w, hw, hle⟩
  · exact ⟨_, Chan.currentPrio_live hlive, hle⟩
  · exact ⟨_, Chan.currentPrio_waiting hdead hw, hle⟩

theorem State.hostStart_bad (h : 4 ≤ ch ∨ prio = 0 ∨ 7 < prio ∨ la % 64 ≠ 0 ∨ s.path.clipRegion la = none) :
    s.hostStart ch la mask prio rep = s.finish .badArgument := by
  unfold State.hostStart
  rw [State.startArgsOk_false h]
  split <;> rfl

section
variable (hargs : s.startArgsOk c.val prio la = true)
include hargs

theorem State.hostStart_idle (h : (s.chan c).currentPrio = none) : s.hostStart c.val la mask prio rep =
    s.starting.requestBegin c ⟨.host, la, mask, prio, rep, true⟩ := by
  unfold State.hostStart
  rw [toFin_self]
  simp only [hargs, h]
  rfl

theorem State.hostStart_takes {q : Nat} (h : (s.chan c).currentPrio = some q) (hq : q < prio) :
    s.hostStart c.val la mask prio rep = s.starting.takeover c ⟨.host, la, mask, prio, rep, true⟩ := by
  unfold State.hostStart
  rw [toFin_self]
  simp only [hargs, h]
  exact if_pos hq

theorem State.hostStart_queues {q : Nat} (h : (s.chan c).currentPrio = some q) (hq : prio ≤ q)
    (hfree : (s.chan c).queued = none) : s.hostStart c.val la mask prio rep =
      (s.setChan c { s.chan c with queued := some ⟨.host, la, mask, prio, rep, false⟩ }).finish .queued := by
  unfold State.hostStart
  rw [toFin_self]
  simp only [hargs, h, hfree, Nat.not_lt.mpr hq]
  rfl

theorem State.hostStart_busy {q : Nat} (h : (s.chan c).currentPrio = some q) (hq : prio ≤ q)
    (hheld : (s.chan c).queued.isSome = true) : s.hostStart c.val la mask prio rep = s.finish .busy := by
  obtain ⟨x, hx⟩ := Option.isSome_iff_exists.mp hheld
  unfold State.hostStart
  rw [toFin_self]
  simp only [hargs, h, hx, Nat.not_lt.mpr hq]
  rfl

end

/-! ### A begin waiting replaced (R69) -/

/-- The begin waiting of a channel replaced by a start of higher priority. -/
def State.replacing (s : State) (c : Fin 4) (st : Start) : State := s.setChan c { s.chan c with waiting := some st }

theorem State.replacing_frame (s : State) (c : Fin 4) (st : Start) : Frame [.channels] s (s.replacing c st) :=
  s.setChan_frame c _

theorem State.replacing_chan (s : State) (c : Fin 4) (st : Start) :
    (s.replacing c st).chan c = { s.chan c with waiting := some st } := State.chan_setChan _ _ _

theorem State.replacing_chan_ne (s : State) (st : Start) (h : d ≠ c) : (s.replacing c st).chan d = s.chan d :=
  State.chan_setChan_ne _ _ (Ne.symm h)

/-- What the takeover of a begin waiting does: the start takes its place, a line's goes back to the pending set, a host's whose
change waits is answered (R69, log entry 12). -/
theorem State.takeover_waiting_spec (h : (s.chan c).st.live = false) (hw : (s.chan c).waiting = some w) (st : Start) :
    (s.takeover c st).playout.waitOrder = s.playout.waitOrder ∧ (∀ d, d ≠ c → (s.takeover c st).chan d = s.chan d) ∧
      (∀ i, (s.takeover c st).line i =
        if w.owner = .line i then { s.line i with request := .pending } else s.line i) ∧
      (∀ i, w.owner = .line i → (s.takeover c st).plan = s.plan ∧
        (s.takeover c st).chan c = { s.chan c with waiting := some st, pending := (s.chan c).pending ++ [w] }) ∧
      (w.owner = .host → (s.takeover c st).chan c = { s.chan c with waiting := some st } ∧
        (w.reply = false → (s.takeover c st).plan = s.plan) ∧
        (w.reply = true → s.plan.change.isSome = true → (s.takeover c st).answered .done 0 0)) ∧
      Frame [.change, .channels, .requests] s (s.takeover c st) := by
  have htake : s.takeover c st = (s.replacing c st).displace c w := State.takeover_waiting h hw st
  have hrep := s.replacing_frame c st
  rw [htake]
  cases hown : w.owner with
  | line j =>
    rw [State.displace_line hown]
    refine ⟨?_, fun d hd => ?_, fun i => ?_, fun i hi => ⟨rfl, ?_⟩, nofun, ?_⟩
    · exact Eq.trans ((State.displacedLine_frame _ c w j).same .startOrder rfl) (hrep.same .startOrder rfl)
    · rw [State.displacedLine_chan_ne _ _ _ hd, State.replacing_chan_ne _ _ hd]
    · rw [State.displacedLine_line]
      by_cases hj : j = i
      · rw [if_pos hj, if_pos (by rw [hj])]
        rfl
      · rw [if_neg hj, if_neg fun e => hj (Owner.line.inj e)]
        rfl
    · rw [State.displacedLine_chan, State.replacing_chan]
    · exact (hrep.wide rfl).trans ((State.displacedLine_frame _ c w j).wide rfl)
  | host =>
    rw [State.displace_host hown]
    have hfinish := (s.replacing c st).finish_frame .done
    refine ⟨?_, fun d hd => ?_, fun i => ?_, nofun, fun _ => ⟨?_, fun hr => ?_, fun hr hc => ?_⟩, ?_⟩
    · split <;> rfl
    · rw [← State.replacing_chan_ne s st hd]
      split <;> rfl
    · rw [if_neg (show ¬Owner.host = Owner.line i from nofun)]
      split <;> rfl
    · rw [← State.replacing_chan s c st]
      split <;> rfl
    · rw [hr]
      rfl
    · rw [if_pos hr]
      exact State.finish_answered _ _ hc
    · split
      · exact (hrep.wide rfl).trans (hfinish.wide rfl)
      · exact hrep.wide rfl

/-! ### The idle channel (R67) -/

/-- A host's start that is to begin on an idle channel, by the state of the clip fence. -/
theorem State.starting_begin (hc : s.plan.change.isSome = true) (c : Fin 4) {st : Start} (hr : st.reply = true) {t : State}
    (ht : t = s.starting.requestBegin c st) :
    (s.path.fence = .up → s.begins t c st ∧ t.answered .done 0 0) ∧
      (s.path.fence = .down → s.clipQueued = false → t.path.fence = .up ∧ s.begins t c st ∧ t.answered .done 0 0) ∧
      (∀ i, t.line i = s.line i) ∧ (t.chan c).queued = (s.chan c).queued ∧ (t.chan c).pending = (s.chan c).pending ∧
      (s.path.fence = .up ∨ s.playout.waitOrder = [] → ∀ d, d ≠ c → t.chan d = s.chan d) ∧
      (s.path.fence = .up ∨ (s.path.fence = .down ∧ s.clipQueued = false ∧ s.playout.waitOrder = []) → s.unjoined c →
        s.joinsAs t s.brk c st ∧ t.logNow = s.logged (s.joinRecords s.brk c st ++ [s.beginRecord c st .idle 1])) ∧
      (s.mustWait → t = s.starting.parked c st) := by
  have hopens (h : s.mayOpen) : s.begins t c st ∧ t.path.fence = .up ∧ t.answered .done 0 0 := by
    obtain ⟨hbegins, hfence⟩ := State.requestBegin_begins (s := s.starting) h c st
    rw [ht]
    exact ⟨State.starting_begins.mp hbegins, hfence,
      State.requestBegin_answered (s := s.starting) h hr (by rw [State.starting_change, hc]) c⟩
  have hparks (h : s.mustWait) : t = s.starting.parked c st := by
    rw [ht]
    exact State.requestBegin_parks (s := s.starting) h c st
  obtain ⟨hq, hp⟩ := s.starting.requestBegin_queue c st
  have halone (h : s.mayOpen) (ha : s.path.fence = .up ∨ s.playout.waitOrder = []) :=
    State.requestBegin_alone (s := s.starting) h ha c st
  rw [← ht] at hq hp halone
  refine ⟨fun h => ?_, fun h hclear => ?_, fun i => ?_, hq, hp, fun ha d hd => ?_, fun ha hun => ?_, hparks⟩
  · obtain ⟨hbegins, -, hans⟩ := hopens (.inl h)
    exact ⟨hbegins, hans⟩
  · obtain ⟨hbegins, hfence, hans⟩ := hopens (.inr ⟨h, hclear⟩)
    exact ⟨hfence, hbegins, hans⟩
  · rw [ht, State.requestBegin_line]
    rfl
  · rcases s.fence_cases with h | h | h
    · exact (halone (.inl h) ha).1 d hd
    · exact (halone (.inr h) ha).1 d hd
    · rw [hparks h, State.parked_chan_ne _ _ hd]
      rfl
  · have hopen : s.mayOpen ∧ (s.path.fence = .up ∨ s.playout.waitOrder = []) := by
      rcases ha with h | ⟨h, hclear, ho⟩
      · exact ⟨.inl h, .inl h⟩
      · exact ⟨.inr ⟨h, hclear⟩, .inr ho⟩
    obtain ⟨hjoins, hlog⟩ := (halone hopen.1 hopen.2).2 hun
    rw [State.starting_logged] at hlog
    exact ⟨hjoins, hlog⟩

theorem State.mustWait_of (hup : s.path.fence ≠ .up) (h : s.path.fence = .raising ∨ s.clipQueued = true) : s.mustWait := by
  rcases s.fence_cases with h' | ⟨h', hq⟩ | h'
  · exact absurd h' hup
  · rcases h with h | h
    · rw [h'] at h
      cases h
    · rw [hq] at h
      cases h
  · exact h'

/-- Settles O56: the decision by the arguments, the channel's current start and the clip fence. -/
theorem startDecided : Obligations.StartDecided := by
  intro c ch la prio rep mask st s h hch hprio hrep hla hmask hst
  obtain ⟨hreset, hhanded, hchange⟩ := State.handed_of_carriesOut h
  have hstart : s.startChange = s.hostStart ch la mask prio rep := by
    simp only [State.startChange, byteAt, hch, hprio, hrep, hla, hmask]
    simp
  have hexec : exec .start s = .next (s.hostStart ch la mask prio rep).settle := by
    rw [← hstart]
    exact exec_effect rfl rfl hreset hhanded
  refine ⟨_, hexec, (s.hostStart_frame ch la mask prio rep).settled, fun hbad => ?_, fun r hc hlow hhigh hal hclip => ?_⟩
  · rw [State.hostStart_bad hbad]
    exact ⟨State.settle_answered _ _ _ _ (State.finish_answered _ _ hchange), (s.finish_frame _).settled⟩
  have hargs : s.startArgsOk c.val prio la = true := State.startArgsOk_true hlow hhigh hal hclip
  have hreply : st.reply = true := by rw [hst]
  have hstprio : st.prio = prio := by rw [hst]
  rw [hc]
  refine ⟨fun hidle hnone => ?_, fun hlive hlt => ?_, fun w hdead hw hlt => ?_, fun hge => ⟨fun hfree => ?_, fun hheld => ?_⟩⟩
  · rw [State.hostStart_idle hargs (Chan.currentPrio_idle (by rw [hidle]; rfl) hnone), ← hst]
    generalize ht : s.starting.requestBegin c st = t
    obtain ⟨hup, hdown, hlines, hq, hp, halone, hjoin, hparks⟩ := State.starting_begin hchange c hreply ht.symm
    refine ⟨fun h => ?_, fun h hclear => ?_, fun i => by rw [State.settle_line, hlines],
      by rw [State.settle_chan_queued, hq], by rw [State.settle_chan_pending, hp],
      fun ha d hd => by rw [State.settle_still, halone ha d hd], fun ha hun => ?_, fun hnup hmust => ?_⟩
    · obtain ⟨hbegins, hans⟩ := hup h
      exact ⟨hbegins.settled, State.settle_answered _ _ _ _ hans⟩
    · obtain ⟨hfence, hbegins, hans⟩ := hdown h hclear
      exact ⟨by rw [State.settle_fence, hfence], hbegins.settled, State.settle_answered _ _ _ _ hans⟩
    · obtain ⟨hjoins, hlog⟩ := hjoin ha hun
      exact ⟨hjoins.settled, by rw [State.settle_logNow, hlog]⟩
    · rw [hparks (State.mustWait_of hnup hmust)]
      refine ⟨by rw [State.settle_fence]; rfl, ?_, by rw [State.settle_waitOrder, State.parked_waitOrder]; rfl, ?_,
        fun d hd => by rw [State.settle_still, State.parked_chan_ne _ _ hd]; rfl,
        ((s.starting_frame.wide rfl).trans ((s.starting.parked_frame c st).wide rfl)).settled⟩
      · rw [State.settle_still, State.parked_chan]
        rfl
      · rw [State.settle_stage]
        exact State.starting_stage hchange
  · rw [State.hostStart_takes hargs (Chan.currentPrio_live hlive) hlt, ← hst]
    obtain ⟨hbegins, hq, hother, hlines, hline, hhost, hjoin⟩ := State.takeover_live_spec (s := s.starting) hlive st
    have hans := State.takeover_answered (s := s.starting) (c := c) hlive hreply (by rw [State.starting_change, hchange])
    generalize s.starting.takeover c st = t at hbegins hq hother hlines hline hhost hjoin hans ⊢
    refine ⟨(State.starting_begins.mp hbegins).settled, State.settle_answered _ _ _ _ hans,
      by rw [State.settle_chan_queued, hq]; rfl, fun d hd => by rw [State.settle_still, hother d hd]; rfl,
      fun i => by rw [State.settle_line, hlines]; rfl, fun k hk => ⟨?_, by rw [State.settle_chan_pending, hline k hk]; rfl⟩,
      fun hk => by rw [State.settle_chan_pending, hhost hk]; rfl, fun honce => ?_⟩
    · rw [State.settle_line, hlines, State.starting_chan, if_pos hk]
    · obtain ⟨hjoins, hlog⟩ := hjoin honce
      rw [State.starting_logged] at hlog
      exact ⟨State.joinsAs.settled hjoins, by rw [State.settle_logNow]; exact hlog⟩
  · rw [State.hostStart_takes hargs (Chan.currentPrio_waiting hdead hw) hlt, ← hst]
    obtain ⟨horder, hother, hlines, hline, hhost, hframe⟩ := State.takeover_waiting_spec (s := s.starting) hdead hw st
    generalize s.starting.takeover c st = t at horder hother hlines hline hhost hframe ⊢
    have hstage (hp : t.plan = s.starting.plan) : t.settle.stage = some .startWait := by
      rw [State.settle_stage, State.stage, hp]
      exact State.starting_stage hchange
    refine ⟨by rw [State.settle_waitOrder, horder]; rfl, fun d hd => by rw [State.settle_still, hother d hd]; rfl,
      fun i => by rw [State.settle_line, hlines]; rfl, fun k hk => ?_, fun hk => ?_,
      ((s.starting_frame.wide rfl).trans hframe).settled⟩
    · obtain ⟨hplan, hchan⟩ := hline k hk
      exact ⟨hstage hplan, by rw [State.settle_line, hlines, if_pos hk], by rw [State.settle_still, hchan]; rfl⟩
    · obtain ⟨hchan, hplan, -⟩ := hhost hk
      exact ⟨by rw [State.settle_still, hchan]; rfl, fun hr => hstage (hplan hr)⟩
  · obtain ⟨q, hq, hle⟩ := Chan.currentPrio_ge hge
    rw [State.hostStart_queues hargs hq hle hfree, hst]
    refine ⟨?_, fun d hd => ?_, State.settle_answered _ _ _ _ (State.finish_answered _ _ hchange),
      (((s.setChan_frame c _).wide rfl).trans ((State.finish_frame _ _).wide rfl)).settled⟩
    · rw [State.settle_still]
      exact congrArg Chan.still (State.chan_setChan _ _ _)
    · rw [State.settle_still]
      exact congrArg Chan.still (State.chan_setChan_ne _ _ (Ne.symm hd))
  · obtain ⟨q, hq, hle⟩ := Chan.currentPrio_ge hge
    rw [State.hostStart_busy hargs hq hle hheld]
    exact ⟨State.settle_answered _ _ _ _ (State.finish_answered _ _ hchange), (s.finish_frame _).settled⟩

end Sys2Proof.Machine
end

section
/-! PROOFS. A line's request at the playout unit, and RESUME with the lines' requests (chapters 04, 09). -/

namespace Sys2Proof.Machine

variable {s t u v : State} {c d : Fin 4} {st w : Start} {k : Fin 6} {j : Fin 3} {ch la prio rep : Nat} {mask : SecSet}

/-! ### The request as the playout unit meets it (R151) -/

/-- The state in which the playout unit is asked: the request channel recorded. -/
def State.asking (s : State) (k : Fin 6) (ch : Nat) : State := s.setLine k { s.line k with reqChannel := toFin? 4 ch }

theorem State.asking_frame (s : State) (k : Fin 6) (ch : Nat) : Frame [.lines] s (s.asking k ch) :=
  s.setLine_frame_kept k _ rfl

theorem State.asking_line (s : State) (k : Fin 6) (ch : Nat) :
    (s.asking k ch).line k = { s.line k with reqChannel := toFin? 4 ch } := State.line_setLine _ _ _

theorem State.asking_line_ne (s : State) (ch : Nat) {i : Fin 6} (h : i ≠ k) : (s.asking k ch).line i = s.line i :=
  State.line_setLine_ne _ _ (Ne.symm h)

theorem State.requestBreakin_answer (h : (s.line k).actions.get j = .breakin ch la mask prio rep) {x : State} {r : ReqStatus}
    (hx : (s.asking k ch).lineRequest k ch la mask prio rep = (x, r)) : s.requestBreakin k j =
      if r = .refused then (x.setRequest k r).logRefusedAction k j.val (.breakin ch la mask prio rep) 4
      else x.setRequest k r := by
  have hask : s.requestBreakin k j =
      if ((s.asking k ch).lineRequest k ch la mask prio rep).2 = .refused then
        (((s.asking k ch).lineRequest k ch la mask prio rep).1.setRequest k
          ((s.asking k ch).lineRequest k ch la mask prio rep).2).logRefusedAction k j.val (.breakin ch la mask prio rep) 4
      else ((s.asking k ch).lineRequest k ch la mask prio rep).1.setRequest k
        ((s.asking k ch).lineRequest k ch la mask prio rep).2 := by
    unfold State.requestBreakin
    dsimp only
    rw [h]
    rfl
  rw [hask, hx]

theorem State.lineRequest_refused (h : 4 ≤ ch ∨ prio = 0 ∨ 7 < prio ∨ la % 64 ≠ 0 ∨ s.path.clipRegion la = none) :
    s.lineRequest k ch la mask prio rep = (s, .refused) := by
  unfold State.lineRequest
  rw [State.startArgsOk_false h]
  split <;> rfl

section
variable (hargs : s.startArgsOk c.val prio la = true)
include hargs

theorem State.lineRequest_idle (h : (s.chan c).currentPrio = none) : s.lineRequest k c.val la mask prio rep =
    (s.requestBegin c ⟨.line k, la, mask, prio, rep, false⟩, .running) := by
  unfold State.lineRequest
  rw [toFin_self]
  simp only [hargs, h]
  rfl

theorem State.lineRequest_takes {q : Nat} (h : (s.chan c).currentPrio = some q) (hq : q < prio) :
    s.lineRequest k c.val la mask prio rep = (s.takeover c ⟨.line k, la, mask, prio, rep, false⟩, .running) := by
  unfold State.lineRequest
  rw [toFin_self]
  simp only [hargs, h]
  exact if_pos hq

theorem State.lineRequest_pends {q : Nat} (h : (s.chan c).currentPrio = some q) (hq : prio ≤ q) :
    s.lineRequest k c.val la mask prio rep = (s.setChan c { s.chan c with
      pending := (s.chan c).pending ++ [⟨.line k, la, mask, prio, rep, false⟩] }, .pending) := by
  unfold State.lineRequest
  rw [toFin_self]
  simp only [hargs, h]
  exact if_neg (Nat.not_lt.mpr hq)

end

/-- A line told: its request status, and nothing else but its mirror record. -/
theorem State.told_spec (v : State) (k : Fin 6) (r : ReqStatus) : ((v.setRequest k r).line k).request = r ∧
    (∀ i, i ≠ k → (v.setRequest k r).line i = v.line i) ∧ (v.setRequest k r).logNow = v.logNow :=
  ⟨by rw [State.setRequest_line], fun _ hi => State.setRequest_line_ne v r hi, (State.setRequest_frame v k r).logNow rfl rfl⟩

theorem State.begins.told (h : s.begins v c st) (k : Fin 6) (r : ReqStatus) : s.begins (v.setRequest k r) c st := h

theorem State.clipQueued_iff (s : State) : s.clipQueued = true ↔ ∃ e ∈ s.path.queue, e.kind = .clip := by
  simp [State.clipQueued]

theorem State.clipQueued_not (s : State) : s.clipQueued = false ↔ ∀ e ∈ s.path.queue, e.kind ≠ .clip := by
  simp [State.clipQueued]

theorem State.asking_still (s : State) (k : Fin 6) (ch : Nat) : ((s.asking k ch).line k).still =
    { (s.line k).still with reqChannel := if h : ch < 4 then some ⟨ch, h⟩ else none } := by
  rw [State.asking_line]
  rfl

/-- What a request leaves of its own line's record. -/
theorem State.requestBreakin_asked (h : (s.line k).actions.get j = .breakin ch la mask prio rep) :
    ((s.requestBreakin k j).line k).still =
      { (s.line k).still with reqChannel := if h : ch < 4 then some ⟨ch, h⟩ else none } := by
  have hanswer := (State.lineRequest_frame (s.asking k ch) k ch la mask prio rep).still_line rfl k
  rw [s.asking_still] at hanswer
  generalize hx : (s.asking k ch).lineRequest k ch la mask prio rep = x at hanswer
  rw [State.requestBreakin_answer h (x := x.1) (r := x.2) hx]
  have htold : ((x.1.setRequest k x.2).line k).still = (x.1.line k).still := by rw [State.setRequest_line]; rfl
  split
  · rw [State.logRefusedAction, State.line_log, htold, hanswer]
  · rw [htold, hanswer]

/-- Settles O13: the request by its arguments and the channel's current start. -/
theorem lineRequestAnswered : Obligations.LineRequestAnswered := by
  intro k j ch la prio rep mask s t hact ht
  have hasking := s.asking_frame k ch
  refine ⟨ht ▸ s.requestBreakin_frame k j, fun i hi => ht ▸ s.requestBreakin_still k j hi,
    ht ▸ State.requestBreakin_asked hact, fun hbad => ?_, fun c r st hc hlow hhigh hal hclip hst => ?_⟩
  · have hno := State.requestBreakin_answer hact
      (State.lineRequest_refused (s := s.asking k ch) (k := k) (mask := mask) (rep := rep) hbad)
    rw [if_pos rfl] at hno
    obtain ⟨hreq, hother, -⟩ := (s.asking k ch).told_spec k .refused
    have htold : Frame [.lines, .requests] s ((s.asking k ch).setRequest k .refused) :=
      (hasking.wide rfl).trans ((State.setRequest_frame _ k _).wide rfl)
    rw [ht, hno]
    refine ⟨by rw [State.logRefusedAction, State.line_log, hreq], fun i hi => ?_, ?_,
      (htold.wide rfl).trans ((State.logRefusedAction_frame _ _ _ _ _).wide rfl)⟩
    · rw [State.logRefusedAction, State.line_log, hother i hi, State.asking_line_ne _ _ hi]
    · exact State.log_after s _ htold rfl [] (by rw [State.logged_nil]; exact htold.logNow rfl rfl) _ _ _ _
  have hargs : (s.asking k ch).startArgsOk c.val prio la = true := State.startArgsOk_true hlow hhigh hal hclip
  have hstprio : st.prio = prio := by rw [hst]
  have hanswer {x : State} {a : ReqStatus} (hx : (s.asking k ch).lineRequest k ch la mask prio rep = (x, a))
      (ha : a ≠ .refused) : t = x.setRequest k a := by
    rw [ht, State.requestBreakin_answer hact hx, if_neg ha]
  refine ⟨fun hidle hnone => ?_, fun hlive hlt => ?_, fun w hdead hw hlt => ?_, fun hge => ?_⟩
  · have hx := hanswer (a := .running) (by rw [hc]; exact State.lineRequest_idle (hc ▸ hargs) (Chan.currentPrio_idle
      (by show (s.chan c).st.live = false; rw [hidle]; rfl) hnone)) nofun
    rw [← hc, ← hst] at hx
    obtain ⟨hreq, hother, hlog⟩ := ((s.asking k ch).requestBegin c st).told_spec k .running
    rw [hx]
    refine ⟨hreq, fun i hi => by rw [hother i hi, State.requestBegin_line, State.asking_line_ne _ _ hi], fun hopen => ?_,
      fun hwait => ?_⟩
    · have hmay : (s.asking k ch).mayOpen := hopen.imp_right fun h => ⟨h.1, s.clipQueued_not.mpr h.2⟩
      obtain ⟨hbegins, hfence⟩ := State.requestBegin_begins hmay c st
      obtain ⟨hq, hp⟩ := (s.asking k ch).requestBegin_queue c st
      refine ⟨hfence, hbegins, hq, hp, fun halone => ?_⟩
      obtain ⟨hchans, hjoin⟩ := State.requestBegin_alone hmay halone c st
      refine ⟨hchans, fun hun => ?_⟩
      obtain ⟨hjoins, hrecs⟩ := hjoin hun
      exact ⟨hjoins, hlog.trans hrecs⟩
    · have hmust : (s.asking k ch).mustWait := hwait.imp_right fun h => ⟨h.1, s.clipQueued_iff.mpr h.2⟩
      rw [State.requestBegin_parks hmust]
      exact ⟨rfl, State.parked_chan _ c st, fun d hd => State.parked_chan_ne _ st hd, State.parked_waitOrder _ c st,
        ((hasking.wide rfl).trans ((State.parked_frame _ c st).wide rfl)).trans ((State.setRequest_frame _ k _).wide rfl)⟩
  · have hx := hanswer (a := .running) (by rw [hc]; exact State.lineRequest_takes (hc ▸ hargs) (Chan.currentPrio_live hlive) hlt) nofun
    rw [← hc, ← hst] at hx
    obtain ⟨hreq, hother, hlog⟩ := ((s.asking k ch).takeover c st).told_spec k .running
    obtain ⟨hbegins, hq, hchans, hlines, hline, hhost, hjoin⟩ := State.takeover_live_spec (s := s.asking k ch) hlive st
    rw [hx]
    refine ⟨hreq, hbegins, hq, hchans, fun i hi => ?_, hline, hhost, fun honce => ?_⟩
    · rw [hother i hi, hlines, State.asking_line_ne _ _ hi]
      rfl
    · obtain ⟨hjoins, hrecs⟩ := hjoin honce
      exact ⟨hjoins, hlog.trans hrecs⟩
  · have hx := hanswer (a := .running) (by rw [hc]; exact State.lineRequest_takes (hc ▸ hargs) (Chan.currentPrio_waiting hdead hw) hlt) nofun
    rw [← hc, ← hst] at hx
    obtain ⟨hreq, hother, hlog⟩ := ((s.asking k ch).takeover c st).told_spec k .running
    obtain ⟨-, hchans, hlines, hline, hhost, hframe⟩ := State.takeover_waiting_spec (s := s.asking k ch) hdead hw st
    rw [hx]
    generalize (s.asking k ch).takeover c st = y at hreq hother hlog hchans hlines hline hhost hframe ⊢
    refine ⟨hreq, hchans, fun i hi => ⟨(hline i hi).2, fun hik => ?_, fun l hlk hli => ?_⟩, fun hh => ?_,
      ((hasking.wide rfl).trans (hframe.wide rfl)).trans ((State.setRequest_frame _ k _).wide rfl)⟩
    · rw [hother i hik, hlines, if_pos hi, State.asking_line_ne _ _ hik]
    · rw [hother l hlk, hlines, if_neg (by rw [hi]; exact fun e => hli (Owner.line.inj e).symm), State.asking_line_ne _ _ hlk]
    · obtain ⟨hchan, hplan, hans⟩ := hhost hh
      refine ⟨hchan, fun i hi => ?_, fun hr => ?_, fun hr hchange => ?_⟩
      · rw [hother i hi, hlines, if_neg (by rw [hh]; exact nofun), State.asking_line_ne _ _ hi]
      · exact congrArg PlanUnit.change (hplan hr)
      · exact (hans hr hchange).of_same rfl rfl
  · obtain ⟨q, hq, hle⟩ := Chan.currentPrio_ge hge
    have hx := hanswer (a := .pending) (by rw [hc]; exact State.lineRequest_pends (hc ▸ hargs) hq hle) nofun
    rw [← hc, ← hst] at hx
    rw [hx]
    obtain ⟨hreq, hother, -⟩ := ((s.asking k ch).setChan c { (s.asking k ch).chan c with
      pending := ((s.asking k ch).chan c).pending ++ [st] }).told_spec k .pending
    refine ⟨hreq, fun i hi => ?_, State.chan_setChan _ _ _, fun d hd => State.chan_setChan_ne _ _ (Ne.symm hd), ?_⟩
    · rw [hother i hi]
      exact State.asking_line_ne _ _ hi
    · exact ((hasking.wide rfl).trans ((State.setChan_frame _ c _).wide rfl)).trans ((State.setRequest_frame _ k _).wide rfl)

end Sys2Proof.Machine
end

section
/-! PROOFS. A line withdrawn, ACK, and RESUME with the lines' requests (chapters 04, 09). -/

namespace Sys2Proof.Machine

variable {s t u v : State} {c d : Fin 4} {st w : Start} {k : Fin 6} {a : ChanCause}

/-! ### The withdrawal of a request (R77) -/

theorem State.withdrawRequest_use (h : (s.chan c).st.live = true) (ho : (s.chan c).owner = some (.line k)) :
    s.withdrawRequest k c = s.endUse c .withdraw := by
  simp [State.withdrawRequest, h, ho]

theorem State.withdrawRequest_wait (h : (s.chan c).st.live = false) (hw : (s.chan c).waiting = some w)
    (ho : w.owner = .line k) : s.withdrawRequest k c = s.cancelWaiting c .withdraw := by
  simp [State.withdrawRequest, h, hw, ho]

theorem State.withdrawRequest_pending (h : (s.chan c).st.live = true → (s.chan c).owner ≠ some (.line k))
    (hw : ∀ w, (s.chan c).waiting = some w → w.owner ≠ .line k) : s.withdrawRequest k c =
      s.setChan c { s.chan c with pending := (s.chan c).pending.filter fun x => x.owner != .line k } := by
  have huse : ((s.chan c).st.live && decide ((s.chan c).owner = some (.line k))) = false := by
    rw [Bool.and_eq_false_iff, decide_eq_false_iff_not]
    by_cases hl : (s.chan c).st.live = true
    · exact .inr (h hl)
    · exact .inl (Bool.not_eq_true _ ▸ hl)
  have hwait : (s.chan c).waiting.map Start.owner ≠ some (.line k) := by
    intro e
    obtain ⟨w, hs, ho⟩ := Option.map_eq_some_iff.mp e
    exact hw w hs ho
  unfold State.withdrawRequest
  simp only [huse, hwait, if_false]
  rfl

/-! ### The withdrawal of a line (R155) -/

/-- The state in which a line that is withdrawn has its request withdrawn. -/
def State.quieted (s : State) (k : Fin 6) : State := s.putLine k { s.line k with state := .quiet, deadline := none }

/-- The end of a line's withdrawal: no request stands. -/
def State.unrequested (s : State) (k : Fin 6) : State := s.putLine k { s.line k with request := .none, acked := false }

theorem State.quieted_frame (s : State) (k : Fin 6) : Frame [.lines] s (s.quieted k) := s.putLine_frame_kept k _ rfl

theorem State.quieted_line_ne (s : State) {i : Fin 6} (h : i ≠ k) : (s.quieted k).line i = s.line i :=
  State.putLine_line_ne _ _ (Ne.symm h)

theorem State.unrequested_frame (s : State) (k : Fin 6) : Frame [.lines, .requests] s (s.unrequested k) := s.putLine_frame k _

theorem State.unrequested_line_ne (s : State) {i : Fin 6} (h : i ≠ k) : (s.unrequested k).line i = s.line i :=
  State.putLine_line_ne _ _ (Ne.symm h)

theorem State.withdrawLine_eq (s : State) (k : Fin 6) : s.withdrawLine k =
    ((match (s.line k).reqChannel with
      | some c => if (s.line k).request == ReqStatus.running || (s.line k).request == ReqStatus.pending
          then (s.quieted k).withdrawRequest k c else s.quieted k
      | none => s.quieted k) : State).unrequested k := rfl

theorem State.withdrawLine_alone
    (h : (s.line k).reqChannel = none ∨ ((s.line k).request ≠ .running ∧ (s.line k).request ≠ .pending)) :
    s.withdrawLine k = (s.quieted k).unrequested k := by
  rw [State.withdrawLine_eq]
  cases hr : (s.line k).reqChannel with
  | none => rfl
  | some c =>
    obtain ⟨hrun, hpend⟩ := h.resolve_left (by rw [hr]; exact nofun)
    dsimp only
    rw [if_neg (by simp [hrun, hpend])]

theorem State.withdrawLine_withdraws (hr : (s.line k).reqChannel = some c)
    (h : (s.line k).request = .running ∨ (s.line k).request = .pending) :
    s.withdrawLine k = ((s.quieted k).withdrawRequest k c).unrequested k := by
  rw [State.withdrawLine_eq, hr]
  dsimp only
  rw [if_pos (by rcases h with h | h <;> simp [h])]

/-- What a handout says of the state before it does not concern the lines. -/
theorem State.handedOut.source {n : Nat} (h : (s.quieted k).handedOut t c st n) : s.handedOut t c st n := by
  have hlogged (es : List LogRec) : (s.quieted k).logged es = s.logged es := s.logged_putLine k _ es
  have hlog : (s.quieted k).logNow = s.logNow := s.putLine_logNow k _
  unfold State.handedOut at h ⊢
  rw [hlog] at h
  simp only [hlogged] at h
  exact h

theorem State.handedOut.unrequested {n : Nat} (h : s.handedOut t c st n) (k : Fin 6) :
    s.handedOut (t.unrequested k) c st n :=
  h.of_same (fun _ => rfl) rfl rfl rfl (State.putLine_logNow _ _ _)

/-- The lines of another state put into a state. -/
def State.withLines (t u : State) : State := { t with lines := u.lines }

theorem State.withLines_frame (t u : State) : Frame [.lines, .requests] t (t.withLines u) := by
  intro p hp
  cases p <;> first | exact absurd (by decide) hp | simp [Same, State.withLines, State.chan]

theorem State.withLines_playParts (hs : Frame lineParts s t) (hu : Frame playParts s u) : Frame playParts s (t.withLines u) :=
  (hs.trans ((t.withLines_frame u).wide rfl)).drop fun i => hu.same .lines rfl i

/-- The end of a use in the course of its line's withdrawal is the end of that use, but for the line itself (R73, R155). -/
theorem State.ends_unrequested {r : ReqStatus} {x : State} {es : List LogRec} (hv : (s.quieted k).ends v c r)
    (hx : s.ends x c r) (hplay : Frame playParts s x) (hframe : Frame lineParts s (v.unrequested k))
    (hlog : v.logNow = (s.quieted k).logged es) :
    ∃ u, s.ends u c r ∧ Frame playParts s u ∧ (v.unrequested k).logNow = s.logged es ∧
      (∀ i, i ≠ k → (v.unrequested k).line i = u.line i) ∧ (∀ d, (v.unrequested k).chan d = u.chan d) ∧
      Frame [.lines, .requests, .logQueue, .lostCount] u (v.unrequested k) := by
  obtain ⟨hchan, hother, hbrk, hline, hfence⟩ := hv
  obtain ⟨-, -, -, hlineX, -⟩ := hx
  refine ⟨(v.unrequested k).withLines x, ⟨hchan, hother, hbrk, hlineX, hfence⟩, State.withLines_playParts hframe hplay, ?_,
    fun i hi => ?_, fun _ => rfl, ?_⟩
  · rw [State.unrequested, State.putLine_logNow, hlog, State.quieted, State.logged_putLine]
  · rw [State.unrequested_line_ne _ hi, hline, s.quieted_line_ne hi]
    exact (hlineX i).symm
  · exact (State.withLines_frame ((v.unrequested k).withLines x) (v.unrequested k)).wide rfl

/-- The request statuses of the other lines after a withdrawal that hands the channel out. -/
theorem State.request_after {i : Fin 6} {x : LineRec} (o : Option Owner) (hi : i ≠ k) (ho : o = some (.line k)) (r : ReqStatus)
    (hx : v.line i = if st.owner = .line i then { x with request := .running }
      else if o = some (.line i) then { x with request := r } else x) :
    (v.line i).request = if st.owner = .line i then .running else x.request := by
  rw [hx, if_neg (show ¬o = some (.line i) by rw [ho]; exact fun e => hi (Owner.line.inj (Option.some.inj e)).symm)]
  by_cases hst : st.owner = .line i
  · rw [if_pos hst, if_pos hst]
  · rw [if_neg hst, if_neg hst]

/-- Settles O14: the withdrawal by what stands of the line's request. -/
theorem lineRequestWithdrawn : Obligations.LineRequestWithdrawn := by
  intro k s t ht
  have hframe : Frame lineParts s t := ht ▸ s.withdrawLine_frame k
  have hquiet := s.quieted_frame k
  refine ⟨ht ▸ s.withdrawLine_line k, fun i hi => ht ▸ s.withdrawLine_still k hi, hframe, fun hno => ?_,
    fun c hr hreq => ⟨fun hlive hown => ⟨fun hno => ?_, fun st hto => ?_⟩, fun w hdead hw hown => ⟨fun hno => ?_,
      fun st hto => ?_⟩, fun huse hwait => ?_⟩⟩
  · rw [ht, State.withdrawLine_alone hno]
    exact ⟨fun i hi => by rw [State.unrequested_line_ne _ hi, s.quieted_line_ne hi],
      (hquiet.wide rfl).trans (State.unrequested_frame _ k)⟩
  · have hu := State.withdrawLine_withdraws hr hreq
    rw [State.withdrawRequest_use (s := s.quieted k) hlive hown, ← ht] at hu
    rw [hu] at hframe ⊢
    obtain ⟨hends, hlog⟩ := (s.quieted k).endUse_ends c .withdraw hno
    exact State.ends_unrequested hends (s.endUse_ends c .withdraw hno).1 (s.endUse_frame c _) hframe hlog
  · have hu := State.withdrawLine_withdraws hr hreq
    rw [State.withdrawRequest_use (s := s.quieted k) hlive hown, ← ht] at hu
    have hhands := State.endUse_handedOut (s := s.quieted k) hlive hto .withdraw
    have hline := State.endUse_hands_line (s := s.quieted k) (bestStart_of_handsTo hto) .withdraw
    rw [hu]
    refine ⟨(hhands.unrequested k).source, fun i hi => ?_⟩
    rw [State.unrequested_line_ne _ hi, State.request_after _ hi hown _ (hline i), s.quieted_line_ne hi]
  · have hu := State.withdrawLine_withdraws hr hreq
    rw [State.withdrawRequest_wait (s := s.quieted k) hdead hw hown, ← ht] at hu
    obtain ⟨hchan, hother, horder, hline, hfence, -, hcancel⟩ := State.cancelWaiting_ends (s := s.quieted k) hno .withdraw
    rw [hu]
    generalize (s.quieted k).cancelWaiting c .withdraw = v at hchan hother horder hline hfence hcancel ⊢
    refine ⟨hchan, hother, horder, fun i hi => ?_, hfence,
      ((hquiet.wide rfl).trans (hcancel.wide rfl)).trans ((State.unrequested_frame _ k).wide rfl)⟩
    have hnot : (((s.quieted k).chan c).waiting.map Start.owner) ≠ some (.line i) := by
      rw [show ((s.quieted k).chan c).waiting = some w from hw, Option.map_some, hown]
      exact fun e => hi (Owner.line.inj (Option.some.inj e)).symm
    rw [State.unrequested_line_ne _ hi, hline, if_neg hnot, s.quieted_line_ne hi]
  · have hu := State.withdrawLine_withdraws hr hreq
    rw [State.withdrawRequest_wait (s := s.quieted k) hdead hw hown, ← ht] at hu
    have hhands := State.cancelWaiting_handedOut (s := s.quieted k) hdead hto .withdraw 8
    have hline (i : Fin 6) := State.cancelWaiting_hands_line (s := s.quieted k) (bestStart_of_handsTo hto) hw .withdraw i
    rw [hu]
    refine ⟨(hhands.unrequested k).source, fun i hi => ?_⟩
    have hnot : w.owner ≠ .line i := by
      rw [hown]
      exact fun e => hi (Owner.line.inj e).symm
    rw [State.unrequested_line_ne _ hi, hline, if_neg hnot, s.quieted_line_ne hi]
    by_cases hst : st.owner = .line i
    · rw [if_pos hst, if_pos hst]
    · rw [if_neg hst, if_neg hst]
  · have hu := State.withdrawLine_withdraws hr hreq
    rw [State.withdrawRequest_pending (s := s.quieted k) huse hwait, ← ht] at hu
    rw [hu]
    refine ⟨State.chan_setChan _ _ _, fun d hd => State.chan_setChan_ne _ _ (Ne.symm hd), fun i hi => ?_,
      ((hquiet.wide rfl).trans ((State.setChan_frame _ c _).wide rfl)).trans ((State.unrequested_frame _ k).wide rfl)⟩
    rw [State.unrequested_line_ne _ hi]
    exact s.quieted_line_ne hi

end Sys2Proof.Machine
end

section
/-! PROOFS. ACK, and RESUME with the lines' requests (chapters 09, 10). -/

namespace Sys2Proof.Machine

variable {s t u v : State} {c : Fin 4} {st w : Start} {k : Fin 6} {j : Fin 3}

/-! ### ACK (R154) -/

theorem State.hostAck_bad (s : State) {n : Nat} (h : 6 ≤ n) : s.hostAck n = s.finish .badArgument := by
  rw [State.hostAck, toFin_high h]

theorem State.hostAck_nothing (h : (s.line k).state = .quiet ∨ (s.line k).state = .debounce) :
    s.hostAck k.val = s.finish .nothingToAck := by
  rw [State.hostAck, toFin_self]
  rcases h with h | h <;> simp [h]

theorem State.hostAck_active (h : (s.line k).state = .active) :
    s.hostAck k.val = (s.putLine k { s.line k with acked := true }).finish .done := by
  rw [State.hostAck, toFin_self]
  simp [h]

theorem State.hostAck_latched (h : (s.line k).state = .latched) :
    s.hostAck k.val = ((s.withdrawLine k).logLine k .latched .ack).finish .done := by
  rw [State.hostAck, toFin_self]
  simp [h]

/-! ### The change in progress under a line's operations -/

theorem State.displace_change (s : State) (c : Fin 4) (w : Start) :
    (s.displace c w).plan.change.isSome = s.plan.change.isSome := by
  cases hw : w.owner with
  | line i => rw [State.displace_line hw]; rfl
  | host =>
    rw [State.displace_host hw]
    split
    · rw [State.finish_change_isSome]
    · rfl

theorem State.takeover_change (s : State) (c : Fin 4) (st : Start) :
    (s.takeover c st).plan.change.isSome = s.plan.change.isSome := by
  cases hl : (s.chan c).st.live with
  | true => rw [State.takeover_live hl, State.beginNow_change, (s.vacated_spec c).1.change_isSome rfl]
  | false =>
    cases hw : (s.chan c).waiting with
    | some w =>
      rw [State.takeover_waiting hl hw, State.displace_change]
      rfl
    | none => simp [State.takeover, hl, hw]

theorem State.lineRequest_change (s : State) (k : Fin 6) (ch la : Nat) (mask : SecSet) (prio rep : Nat) :
    (s.lineRequest k ch la mask prio rep).1.plan.change.isSome = s.plan.change.isSome := by
  unfold State.lineRequest
  split
  · rfl
  · dsimp only
    split
    · rfl
    · split
      · exact State.requestBegin_change s _ _
      · split
        · exact s.takeover_change _ _
        · rfl

theorem State.requestBreakin_change (s : State) (k : Fin 6) (j : Fin 3) :
    (s.requestBreakin k j).plan.change.isSome = s.plan.change.isSome := by
  unfold State.requestBreakin
  dsimp only
  split
  · rename_i ch la mask prio rep _
    have hask := (s.setLine k { s.line k with reqChannel := toFin? 4 ch }).lineRequest_change k ch la mask prio rep
    split
    · exact hask
    · exact hask
  · rfl

theorem State.withdrawRequest_change (s : State) (k : Fin 6) (c : Fin 4) :
    (s.withdrawRequest k c).plan.change.isSome = s.plan.change.isSome := by
  unfold State.withdrawRequest
  dsimp only
  split
  · exact s.endUse_change c _
  · split
    · exact s.cancelWaiting_change c _
    · rfl

theorem State.withdrawLine_change (s : State) (k : Fin 6) :
    (s.withdrawLine k).plan.change.isSome = s.plan.change.isSome := by
  rw [State.withdrawLine_eq]
  split
  · split
    · exact (s.quieted k).withdrawRequest_change k _
    · rfl
  · rfl

/-! ### RESUME (R175, R159) -/

/-- The lines' requests at RESUME, each as its line stood when the part resumed. -/
theorem foldResume_eq (l : List (Fin 6)) (v : State) (h : ∀ i, (v.line i).sameLine (s.line i)) :
    l.foldl resumeLine v = l.foldl (fun x k =>
      match (s.line k).state, (s.line k).firstBreakin with
      | .active, some j => x.requestBreakin k j
      | _, _ => x) v := by
  induction l generalizing v with
  | nil => rfl
  | cons k l ih =>
    have hstate : (v.line k).state = (s.line k).state := by rw [(h k).eq]
    have hfirst : (v.line k).breakinSlot = (s.line k).firstBreakin := by
      rw [LineRec.firstBreakin_eq, LineRec.firstBreakin_congr (h k).actions]
    have hstep : resumeLine v k = match (s.line k).state, (s.line k).firstBreakin with
        | .active, some j => v.requestBreakin k j
        | _, _ => v := by
      simp only [resumeLine, hstate, hfirst] <;> rfl
    rw [List.foldl_cons, List.foldl_cons, ih (resumeLine v k) fun i => (resumeLine_sameLine v k i).trans (h i)]
    exact congrArg (fun v => l.foldl _ v) hstep

theorem resumeLine_change (s : State) (k : Fin 6) : (resumeLine s k).plan.change.isSome = s.plan.change.isSome := by
  unfold resumeLine
  split
  · exact s.requestBreakin_change k _
  · rfl

theorem foldResume_none (l : List (Fin 6)) (v : State)
    (h : ∀ k, (v.line k).state = .active → (v.line k).firstBreakin = none) : l.foldl resumeLine v = v := by
  induction l with
  | nil => rfl
  | cons k l ih =>
    have hstep : resumeLine v k = v := by
      unfold resumeLine
      rw [LineRec.firstBreakin_eq]
      split
      · rename_i hst hj
        rw [h k hst] at hj
        cases hj
      · rfl
    rw [List.foldl_cons, hstep, ih]

/-- The part RUNNING again, before its lines request. -/
def State.restarted (s : State) : State :=
  let s1 := (s.setPartState .running).mark 0
  { s1 with gather := { s1.gather with taking := true } }

theorem State.restarted_frame (s : State) : Frame [.partState, .taking] s s.restarted := by
  have htake (u : State) : Frame [.partState, .taking] u { u with gather := { u.gather with taking := true } } := by
    intro p hp
    cases p <;> first | exact absurd (by decide) hp | simp [Same, State.chan, State.line]
  exact (((s.setPartState_frame .running).wide rfl).trans ((State.mark_frame _ 0).mono nofun)).trans (htake _)

theorem State.resumePart_eq (s : State) :
    s.resumePart = (((List.finRange 6).foldl resumeLine s.restarted).writeState).finish .done := rfl

/-- Settles O58: ACK by the line's state, RESUME with the requests of the lines that were ACTIVE. -/
theorem ackAndResume : Obligations.AckAndResume := by
  refine ⟨fun k n s h hn => ?_, fun s h => ?_⟩
  · obtain ⟨hreset, hhanded, hchange⟩ := State.handed_of_carriesOut h
    have hexec : exec .ack s = .next (s.hostAck n).settle := by
      rw [hn, ← byteAt_zero]
      exact exec_effect rfl rfl hreset hhanded
    refine ⟨_, hexec, (s.hostAck_frame n).settled, fun hbad => ?_, fun hk hst => ?_, fun hk hst => ?_, fun hk hst => ?_⟩
    · rw [State.hostAck_bad s hbad]
      exact ⟨State.settle_answered _ _ _ _ (State.finish_answered _ _ hchange), (s.finish_frame _).settled⟩
    · rw [hk, State.hostAck_nothing hst]
      exact ⟨State.settle_answered _ _ _ _ (State.finish_answered _ _ hchange), (s.finish_frame _).settled⟩
    · rw [hk, State.hostAck_active hst]
      have hput := s.putLine_frame_kept k { s.line k with acked := true } rfl
      refine ⟨State.settle_answered _ _ _ _ (State.finish_answered _ _ (by rw [hput.change_isSome rfl, hchange])), ?_,
        fun i hi => ?_, ((hput.wide rfl).trans ((State.finish_frame _ _).wide rfl)).settled⟩
      · rw [State.settle_line, State.finish_line, State.putLine_line]
      · rw [State.settle_line, State.finish_line, State.putLine_line_ne _ _ (Ne.symm hi)]
    · rw [hk, State.hostAck_latched hst]
      have hgone := s.withdrawLine_line k
      have hstay := s.withdrawLine_change k
      have hnow : (s.withdrawLine k).now = s.now := (s.withdrawLine_frame k).same .timebase rfl
      generalize s.withdrawLine k = u at hgone hstay hnow ⊢
      have hlog := State.logLine_after (k := k) (es := []) (old := .latched) (cause := .ack) (Frame.refl [] u) rfl (by simp)
      have hline (i : Fin 6) : ((u.logLine k .latched .ack).finish .done).settle.line i = u.line i := by
        rw [State.settle_line, State.finish_line, State.logLine_line]
      have hlogged := State.logLine_frame u k .latched .ack
      refine ⟨State.settle_answered _ _ _ _ (State.finish_answered _ _ ?_), by rw [hline, hgone], by rw [hline, hgone],
        by rw [hline, hgone], u, rfl, hline, ?_, ((hlogged.wide rfl).trans ((State.finish_frame _ _).wide rfl)).settled⟩
      · rw [hlogged.change_isSome rfl, hstay, hchange]
      · rw [State.settle_logNow, State.finish_logNow, hlog, hgone]
        simp only [State.lineRecord, State.record, hnow]
        rfl
  · obtain ⟨hreset, hhanded, hchange⟩ := State.handed_of_carriesOut h
    have hexec : exec .resume s = .next s.resumePart.settle := exec_effect rfl rfl hreset hhanded
    have hframe := s.resumePart_frame.settled
    have hrestarted := s.restarted_frame
    have hfold : (List.finRange 6).foldl resumeLine s.restarted = (List.finRange 6).foldl (fun x k =>
        match (s.line k).state, (s.line k).firstBreakin with
        | .active, some j => x.requestBreakin k j
        | _, _ => x) s.restarted :=
      foldResume_eq _ s.restarted fun i => by rw [hrestarted.line_eq rfl rfl]; rfl
    have hstay : ((List.finRange 6).foldl resumeLine s.restarted).plan.change.isSome = true := by
      rw [foldl_keeps (fun v => v.plan.change.isSome) resumeLine resumeLine_change, hrestarted.change_isSome rfl, hchange]
    have hasked : Frame lineParts s.restarted ((List.finRange 6).foldl resumeLine s.restarted) :=
      Frame.foldl _ (fun v k => resumeLine_frame v k) _ _
    have hnone (hno : ∀ k, (s.line k).state = .active → (s.line k).firstBreakin = none) :
        (List.finRange 6).foldl resumeLine s.restarted = s.restarted :=
      foldResume_none _ _ fun k => by
        rw [hrestarted.line_eq rfl rfl]
        exact hno k
    rw [State.resumePart_eq] at hexec hframe
    generalize (List.finRange 6).foldl resumeLine s.restarted = u at hexec hframe hfold hstay hasked hnone
    have hpart : u.plan.partState = .running := hasked.same .partState rfl
    have hwritten : u.writeState.planHas (.stateField .running) := by
      left
      rw [← hpart]
      simp [State.writeState, State.planOut]
    have hend : Frame [.change] u (u.writeState.finish .done) := ((u.planOut_frame _).wide rfl).trans (State.finish_frame _ _)
    refine ⟨_, hexec, ?_, ?_, State.settle_answered _ _ _ _ (State.finish_answered _ _ hstay),
      State.settle_planHas _ _ (State.finish_planHas _ hwritten), hframe, fun hno => ?_, s.restarted, u, hrestarted, rfl, rfl,
      hfold, fun i => ?_, hend.settled⟩
    · rw [State.settle_partState]
      exact Eq.trans (hend.same .partState rfl) hpart
    · rw [State.settle_taking]
      exact Eq.trans (hend.same .taking rfl) (hasked.same .taking rfl)
    · rw [hnone hno] at hend ⊢
      exact ((hrestarted.wide rfl).trans (hend.wide rfl)).settled
    · rw [State.settle_line]
      exact hend.line_eq rfl rfl i

end Sys2Proof.Machine
end

section
/-! PROOFS. The memory-port arbiter: what makes a burst eligible, which one is granted, and what a grant does (chapters 02, 11). -/

namespace Sys2Proof.Machine

variable {s t : State}

/-! ### Eligible bursts (R30, R31, R35) -/

theorem State.queuedOn_false_iff (s : State) (a : Nat) : s.queuedOn a = false ↔ s.unqueued a := by
  rw [State.queuedOn, State.unqueued, List.any_eq_false]
  exact forall₂_congr fun e _ => ⟨fun h he => h (decide_eq_true he), fun h he => h (of_decide_eq_true he)⟩

theorem State.eligible_of_own {r : Requester} (h : r ≠ .pass) :
    s.eligible r = true ↔ s.presents r = true ∧ s.unqueued (s.burstAddr r) := by
  rw [← s.queuedOn_false_iff]
  cases r with
  | pass => exact absurd rfl h
  | _ => simp [State.eligible]

/-- The record written next is the first dirty one after the one written last, in mirror order (R177). -/
theorem Report.nextDirty_iff (r : Report) (m : Nat) : r.nextDirty = some m ↔
    m < 47 ∧ r.dirty.getLsbD m = true ∧
      ∀ j, j < (m + 46 - r.lastWritten % 47) % 47 → r.dirty.getLsbD ((r.lastWritten + 1 + j) % 47) = false := by
  simp only [Report.nextDirty, List.find?_eq_some_iff_getElem, List.length_map, List.length_range, List.getElem_map,
    List.getElem_range]
  constructor
  · rintro ⟨hm, i, hi, e, hbefore⟩
    have hi' : (m + 46 - r.lastWritten % 47) % 47 = i := by omega
    refine ⟨by omega, hm, fun j hj => ?_⟩
    simpa using hbefore j (hi' ▸ hj)
  · rintro ⟨hlt, hm, hbefore⟩
    exact ⟨hm, (m + 46 - r.lastWritten % 47) % 47, Nat.mod_lt _ (by omega), by omega, fun j hj => by simp [hbefore j hj]⟩

theorem State.resultKept_false_iff {ga : Gather} {rest : List Gather} (hres : s.gather.results = ga :: rest) :
    s.resultKept = false ↔
      ∀ r, s.path.txn = some (.read r) → r.phase ≠ .held ga.group ga.pos 0 ∧ r.phase ≠ .released ga.group ga.pos := by
  unfold State.resultKept State.dueKey
  rw [hres]
  cases htxn : s.path.txn with
  | none => simp
  | some x =>
    cases x with
    | write b => simp
    | unclassified b => simp
    | read r =>
      cases hph : r.phase with
      | held g n k => cases k <;> simp [ReadPhase.dueKey, Gather.hasKey, hph, eq_comm (a := ga.group), eq_comm (a := ga.pos)]
      | released g n => simp [ReadPhase.dueKey, Gather.hasKey, hph, eq_comm (a := ga.group), eq_comm (a := ga.pos)]
      | _ => simp [ReadPhase.dueKey, hph]

theorem State.eligible_result_iff (s : State) : s.eligible .result = true ↔
    ∃ ga rest, s.gather.results = ga :: rest ∧ s.arb.port ≠ some .result ∧
      s.unqueued ((s.grp ga.group).outputBase + ga.pos * 64) ∧
      ∀ r, s.path.txn = some (.read r) → r.phase ≠ .held ga.group ga.pos 0 ∧ r.phase ≠ .released ga.group ga.pos := by
  rw [State.eligible_of_own (by decide)]
  cases hres : s.gather.results with
  | nil => simp [State.presents, hres]
  | cons ga rest =>
    have hkept := State.resultKept_false_iff hres
    simp only [State.presents, State.burstAddr, State.resultAddr, hres, List.cons.injEq, Bool.and_eq_true, Bool.not_eq_true',
      List.isEmpty_cons, bne_iff_ne, true_and, hkept]
    constructor
    · rintro ⟨⟨hport, hk⟩, hq⟩
      exact ⟨ga, rest, ⟨rfl, rfl⟩, hport, hq, hk⟩
    · rintro ⟨_, _, ⟨rfl, rfl⟩, hport, hq, hk⟩
      exact ⟨⟨hport, hk⟩, hq⟩

theorem State.eligible_clip_iff (s : State) :
    s.eligible .clip = true ↔ ∃ f, s.arb.clip = some f ∧ s.unqueued f.addr := by
  rw [State.eligible_of_own (by decide)]
  cases h : s.arb.clip <;> simp [State.presents, State.burstAddr, h]

theorem State.readReady_iff (s : State) : s.readReady = true ↔
    ∃ r, s.path.txn = some (.read r) ∧ (r.phase = .waiting ∨ ∃ g n, r.phase = .released g n) ∧ s.unqueued r.memAddr := by
  simp only [State.readReady, ← s.queuedOn_false_iff]
  cases s.path.txn with
  | none => simp
  | some x =>
    cases x with
    | write b => simp
    | unclassified b => simp
    | read r => cases hph : r.phase <;> simp [ReadPhase.waits, hph]

theorem State.eligible_pass_iff (s : State) : s.eligible .pass = true ↔
    (∃ r, s.path.txn = some (.read r) ∧ (r.phase = .waiting ∨ ∃ g n, r.phase = .released g n) ∧ s.unqueued r.memAddr) ∨
    (s.path.queue ≠ [] ∧ s.gather.waiting = none ∧ s.arb.port ≠ some .queueHead) := by
  rw [← s.readReady_iff]
  simp [State.eligible, State.presents, State.headReady, and_assoc]

theorem State.eligible_plan_iff (s : State) : s.eligible .plan = true ↔
    ∃ b rest, s.plan.out = b :: rest ∧ s.unqueued (b.addr s.anchorAddr) := by
  rw [State.eligible_of_own (by decide)]
  cases h : s.plan.out <;> simp [State.presents, State.burstAddr, h]

theorem State.eligible_mirror_iff (s : State) : s.eligible .mirror = true ↔ s.inForce = true ∧
    ∃ m, s.report.nextDirty = some m ∧ s.unqueued (s.report.mirrorBase + 64 * m) := by
  rw [State.eligible_of_own (by decide)]
  cases h : s.report.nextDirty <;> simp [State.presents, State.burstAddr, State.mirrorAddr, h]

theorem State.eligible_log_iff (s : State) : s.eligible .log = true ↔ s.inForce = true ∧
    ((s.report.req = .header ∧ s.unqueued (s.anchorAddr + 68)) ∨
      (s.report.req = .record ∧ s.unqueued (s.report.logBase + 16 * s.report.producer))) := by
  rw [State.eligible_of_own (by decide)]
  cases h : s.report.req <;>
    simp [State.presents, State.burstAddr, State.logAddr, Report.slotAddr, h]

/-! ### Urgent and promoted bursts (R37, R39) -/

theorem Chan.nearReady_false_iff (ch : Chan) : ch.nearReady = false ↔
    ∃ j : Nat, j < 4 ∧ (ch.window.get ⟨((ch.i + j) % 32).toNat, by omega⟩).st ≠ .ready := by
  simp only [Chan.nearReady, List.all_eq_false, List.mem_range, decide_eq_true_eq]
  exact Iff.rfl

theorem Chan.urgent_iff (ch : Chan) : ch.urgent = true ↔ ch.st.live = true ∧
    ∃ j : Nat, j < 4 ∧ (ch.window.get ⟨((ch.i + j) % 32).toNat, by omega⟩).st ≠ .ready := by
  rw [← ch.nearReady_false_iff]
  simp [Chan.urgent]

theorem State.clipUrgent_iff (s : State) :
    s.clipUrgent = true ↔ ∃ f, s.arb.clip = some f ∧ (s.chan f.ch).urgent = true := by
  cases h : s.arb.clip <;> simp [State.clipUrgent, h]

theorem State.promoted_iff (s : State) (r : Requester) : s.promoted r = true ↔
    s.eligible r = true ∧ ∃ p, s.arb.waits.of r = some p ∧ p + 2000 < s.now := by
  cases h : s.arb.waits.of r with
  | none => simp [State.promoted, h]
  | some p =>
    simp only [State.promoted, h, Bool.and_eq_true, decide_eq_true_eq, Option.some.injEq, exists_eq_left']
    refine and_congr_right fun _ => ?_
    omega

theorem State.promoted_false {r : Requester} (h : s.eligible r = false) : s.promoted r = false := by
  simp [State.promoted, h]

theorem State.othersWait_iff (s : State) : s.othersWait = true ↔
    s.eligible .clip = true ∨ s.eligible .plan = true ∨ s.eligible .mirror = true ∨ s.eligible .log = true := by
  simp [State.othersWait, or_assoc]

/-! ### The winner (R36, R38, R39) -/

theorem State.winner_result (h : s.eligible .result = true) : s.winner = some .result := by simp [State.winner, h]

/-- Neither a result nor an urgent CLIP burst is eligible. -/
def State.calm (s : State) : Prop := s.eligible .result = false ∧ (s.eligible .clip && s.clipUrgent) = false

/-- Nor is a burst promoted. -/
def State.unpromoted (s : State) : Prop :=
  s.calm ∧ s.promoted .plan = false ∧ s.promoted .mirror = false ∧ s.promoted .log = false

/-- Nor is PASS granted. -/
def State.passed (s : State) : Prop := s.unpromoted ∧ (s.eligible .pass && !(s.arb.runCount = 8 && s.othersWait)) = false

theorem State.winner_of_calm (h : s.calm) : s.winner =
    if s.promoted .plan then some .plan
    else if s.promoted .mirror then some .mirror
    else if s.promoted .log then some .log
    else if s.eligible .pass && !(s.arb.runCount = 8 && s.othersWait) then some .pass
    else if s.eligible .clip then some .clip
    else if s.eligible .plan then some .plan
    else if s.eligible .mirror then some .mirror
    else if s.eligible .log then some .log
    else none := by
  obtain ⟨hr, hc⟩ := h
  rw [State.winner, hr, hc]
  rfl

theorem State.winner_of_passed (h : s.passed) : s.winner =
    if s.eligible .clip then some .clip
    else if s.eligible .plan then some .plan
    else if s.eligible .mirror then some .mirror
    else if s.eligible .log then some .log
    else none := by
  obtain ⟨⟨hcalm, hp, hm, hl⟩, hpass⟩ := h
  rw [State.winner_of_calm hcalm, hp, hm, hl, hpass]
  rfl

theorem State.winner_none_iff (s : State) : s.winner = none ↔
    s.eligible .result = false ∧ s.eligible .clip = false ∧ s.eligible .pass = false ∧ s.eligible .plan = false ∧
      s.eligible .mirror = false ∧ s.eligible .log = false := by
  constructor
  · exact fun h => ⟨s.winner_none h _, s.winner_none h _, s.winner_none h _, s.winner_none h _, s.winner_none h _,
      s.winner_none h _⟩
  · rintro ⟨hr, hc, hpa, hp, hm, hl⟩
    have hpassed : s.passed :=
      ⟨⟨⟨hr, by rw [hc]; rfl⟩, State.promoted_false hp, State.promoted_false hm, State.promoted_false hl⟩, by rw [hpa]; rfl⟩
    simp [State.winner_of_passed hpassed, hc, hp, hm, hl]

/-! ### The grant (R36, R38, R177, R180) -/

theorem State.arbitrate_busy {b : PortBurst} (h : s.arb.port = some b) : s.arbitrate = s := by
  simp only [State.arbitrate, h]

theorem State.arbitrate_idle (h : s.winner = none) : s.arbitrate = s := by
  cases hp : s.arb.port <;> simp only [State.arbitrate, hp, h]

theorem State.arbitrate_grants {r : Requester} (hp : s.arb.port = none) (h : s.winner = some r) :
    s.arbitrate = s.grant r := by
  simp only [State.arbitrate, hp, h]

/-- A grant takes its burst from its own requester only. -/
theorem State.grant_others (s : State) (r : Requester) :
    (r ≠ .clip → (s.grant r).arb.clip = s.arb.clip) ∧ (r ≠ .plan → (s.grant r).plan.out = s.plan.out) ∧
      (r ≠ .mirror → (s.grant r).report.dirty = s.report.dirty ∧
        (s.grant r).report.lastWritten = s.report.lastWritten) ∧
      (r ≠ .log → (s.grant r).report.req = s.report.req) ∧ (r ≠ .pass → (s.grant r).path.txn = s.path.txn) := by
  cases hr : r with
  | mirror => cases h : s.report.nextDirty <;> simp [State.grant, State.reportAfter, h]
  | _ => simp [State.grant, State.reportAfter]

theorem State.grant_mirror {m : Nat} (h : s.report.nextDirty = some m) :
    (s.grant .mirror).arb.port = some (.mirror (s.report.mirrorBase + 64 * m) (s.mirrorBytes m)) ∧
      (s.grant .mirror).report.dirty.getLsbD m = false ∧ (s.grant .mirror).report.lastWritten = m := by
  simp [State.grant, State.grantedBurst, State.reportAfter, h]

theorem State.grant_result_cells {ga : Gather} {rest : List Gather} (h : s.gather.results = ga :: rest) :
    (s.grant .result).portCells = cellsFrom ((s.grp ga.group).outputBase + ga.pos * 64) ga.result := by
  simp only [State.portCells, State.grant, State.grantedBurst, State.resultAddr, h]
  rfl

/-- What the LOG requester has presented is what its grant writes (R180). -/
theorem State.grant_log (hl : s.eligible .log = true) : (s.grant .log).report.req = .onPort ∧
    ((s.report.req = .record ∧ (s.grant .log).arb.port = some .logRecord ∧ ∀ e es, s.report.queue = e :: es →
        (s.grant .log).portCells = cellsFrom (s.report.logBase + 16 * s.report.producer) e.bytes) ∨
      (s.report.req = .header ∧ (s.grant .log).arb.port = some (.logHeader s.report.producer s.report.lost) ∧
        (s.grant .log).portCells = cellsFrom (s.anchorAddr + 68) (le 4 s.report.producer ++ le 4 s.report.lost))) := by
  refine ⟨rfl, ?_⟩
  obtain ⟨_, ⟨hreq, _⟩ | ⟨hreq, _⟩⟩ := s.eligible_log_iff.mp hl
  · refine .inr ⟨hreq, ?_, ?_⟩
    · simp [State.grant, State.grantedBurst, hreq]
    · simp [State.portCells, State.grant, State.grantedBurst, hreq, State.anchorAddr]
  · refine .inl ⟨hreq, ?_, fun e es hq => ?_⟩
    · simp [State.grant, State.grantedBurst, hreq]
    · simp [State.portCells, State.grant, State.grantedBurst, hreq, State.reportAfter, hq, Report.slotAddr]

/-- A command with effect has arbitrated (log entry 14). -/
theorem exec_arbitrated {c : Instr} (hs : s.inReset = false) (hc : c ≠ .reset) (h : exec c s = .next t) (hne : t ≠ s) :
    ∃ u : State, t = u.settle := by
  obtain ⟨h1, -⟩ | ⟨_, _, -, h1, -⟩ | h1 | ⟨-, -, -, h1⟩ := exec_cases h
  · exact absurd h1 hc
  · rw [hs] at h1
    exact absurd h1 (by decide)
  · exact absurd h1 hne
  · exact ⟨_, h1⟩

/-- Settles O59: the chain of `State.winner` read branch by branch, the fields of `State.grant`, and the end of every command. -/
theorem arbiterOrder : Obligations.ArbiterOrder := by
  intro s
  have hcalm : s.eligible .result = false → (s.eligible .clip = true → s.clipUrgent = false) → s.calm := fun hr hc =>
    ⟨hr, by cases he : s.eligible .clip with
      | false => rfl
      | true => rw [hc he]; rfl⟩
  refine ⟨fun b => State.arbitrate_busy, State.winner_result, fun hr hc hu => by simp [State.winner, hr, hc, hu],
    fun hr hc => ?order, s.winner_none_iff, fun hp hw => ?pass, fun hp hw => ?count, fun hp hw => ?result, fun hp hw => ?clip,
    fun hp hw => ?plan, fun hp hw => ?log, fun r hp hw => ?others, State.arbitrate_idle, s.othersWait_iff,
    fun hp hw => ?mirror, s.eligible_result_iff, s.eligible_clip_iff, s.eligible_pass_iff, ?planIff, ?mirrorIff,
    s.eligible_log_iff, ?urgent, s.promoted_iff .plan, s.promoted_iff .mirror, s.promoted_iff .log, ?done⟩
  case order =>
    have h := hcalm hr hc
    refine ⟨fun hp => ?_, fun hp hm => ?_, fun hp hm hl => ?_, fun hp hm hl => ⟨fun hpa hrun => ?_, fun hpa => ?_⟩⟩
    · simp [State.winner_of_calm h, hp]
    · simp [State.winner_of_calm h, hp, hm]
    · simp [State.winner_of_calm h, hp, hm, hl]
    · rcases hrun with hrun | hrun <;> simp [State.winner_of_calm h, hp, hm, hl, hpa, hrun]
    · have hpassed : s.passed := ⟨⟨h, hp, hm, hl⟩, by rcases hpa with hpa | ⟨h8, ho⟩ <;> simp [*]⟩
      rw [State.winner_of_passed hpassed]
      exact ⟨fun h => by simp [h], fun h h1 => by simp [h, h1], fun h h1 h2 => by simp [h, h1, h2],
        fun h h1 h2 h3 => by simp [h, h1, h2, h3]⟩
  case pass =>
    rw [State.arbitrate_grants hp hw]
    exact ⟨fun h => by simp [State.grant, State.grantedBurst, h], fun h => by simp [State.grant, State.grantedBurst, h], rfl⟩
  case count => rcases hw with hw | hw | hw | hw <;> rw [State.arbitrate_grants hp hw] <;> rfl
  case result =>
    obtain ⟨ga, rest, hres, -⟩ := s.eligible_result_iff.mp (s.winner_eligible _ hw)
    rw [State.arbitrate_grants hp hw]
    exact ⟨rfl, ga, rest, hres, rfl, State.grant_result_cells hres⟩
  case clip =>
    obtain ⟨f, hf, -⟩ := s.eligible_clip_iff.mp (s.winner_eligible _ hw)
    rw [State.arbitrate_grants hp hw]
    exact ⟨f, hf, by simp [State.grant, State.grantedBurst, hf], rfl⟩
  case plan =>
    obtain ⟨b, rest, hb, -⟩ := s.eligible_plan_iff.mp (s.winner_eligible _ hw)
    rw [State.arbitrate_grants hp hw]
    exact ⟨b, rest, hb, by simp [State.grant, State.grantedBurst, hb], by simp [State.grant, hb]⟩
  case log =>
    rw [State.arbitrate_grants hp hw]
    exact State.grant_log (s.winner_eligible _ hw)
  case others =>
    have hframe := s.arbitrate_frame
    rw [State.arbitrate_grants hp hw] at hframe ⊢
    obtain ⟨h1, h2, h3, h4, h5⟩ := s.grant_others r
    exact ⟨h1, h2, h3, h4, h5, hframe⟩
  case mirror =>
    obtain ⟨-, m, hm, -⟩ := s.eligible_mirror_iff.mp (s.winner_eligible _ hw)
    obtain ⟨hlt, hdirty, hfirst⟩ := (s.report.nextDirty_iff m).mp hm
    rw [State.arbitrate_grants hp hw]
    exact ⟨m, hlt, hdirty, hfirst, State.grant_mirror hm⟩
  case planIff =>
    rw [s.eligible_plan_iff]
    refine exists_congr fun b => exists_congr fun rest => and_congr_right fun _ => ?_
    cases b <;> rfl
  case mirrorIff => simp only [s.eligible_mirror_iff, Report.nextDirty_iff, and_assoc]
  case urgent => simp only [s.clipUrgent_iff, Chan.urgent_iff]
  case done =>
    intro c t hs hc h hne
    obtain ⟨u, rfl⟩ := exec_arbitrated hs hc h hne
    exact u.settle_done

end Sys2Proof.Machine
end

section
/-! PROOFS. What the CLIP and LOG requesters present (chapters 02, 04, 11). -/

namespace Sys2Proof.Machine

variable {s t : State} {c d : Fin 4} {ch : Chan} {f : ClipFetch} {sl : Slot} {j : Fin 32} {x : Int} {a k : Nat}

/-! ### The four things a channel may offer (R64) -/

/-- The walk of a live channel waits for a line, and for no other than that of its current entry. -/
theorem State.awaitedLine_of_awaits (hl : (s.chan c).st.live = true) (h : s.awaitsLine c) :
    s.awaitedLine c = some ((s.chan c).walk.entry / 4) := by
  obtain ⟨hst, hnext, hentry, hbuf, r, hr, hfit⟩ := h
  simp [State.awaitedLine, Chan.walkReady, State.listLineInside, hl, hst, hnext, hentry, hbuf, hr, hfit]

theorem State.awaitedLine_none (hl : (s.chan c).st.live = true) (h : ¬s.awaitsLine c) : s.awaitedLine c = none := by
  refine if_neg fun hall => h ?_
  simp only [Chan.walkReady, hl, Bool.true_and, Bool.and_eq_true, decide_eq_true_eq, Option.isNone_iff_eq_none] at hall
  obtain ⟨⟨⟨⟨hst, hnext⟩, hentry⟩, hbuf⟩, hin⟩ := hall
  unfold State.listLineInside at hin
  cases hr : s.path.clipRegion (s.chan c).listAddr with
  | none => simp [hr] at hin
  | some r => exact ⟨hst, hnext, hentry, hbuf, r, hr, by simpa [hr] using hin⟩

/-- The list line of the earliest request, offered while no line of the list is on the port. -/
theorem State.requestedLine_eq {rest : Option (ClipFetch × Int)}
    (hnone : (s.chan c).requested = [] ∨ s.fetchesList c → rest = none)
    (hsome : ∀ k ks, (s.chan c).requested = k :: ks → ¬s.fetchesList c →
      rest = some ((s.chan c).listFetch c k, (s.chan c).walk.next - (s.chan c).i)) : s.requestedLine c = rest := by
  cases hreq : (s.chan c).requested with
  | nil => simp only [State.requestedLine, hreq, hnone (.inl hreq)]
  | cons k ks =>
    by_cases hp : s.fetchesList c
    · simp only [State.requestedLine, hreq, hnone (.inr hp), (s.listOnPort_iff c).mpr hp, if_true]
    · have hport : s.listOnPort c ≠ true := fun h => hp ((s.listOnPort_iff c).mp h)
      simp only [State.requestedLine, hreq, hsome k ks hreq hp, hport, Bool.false_eq_true, if_false]

theorem Chan.inProgress_of_one (h : (ch.window.get j).st = .fetching)
    (hone : ∀ l, (ch.window.get l).st = .fetching → l = j) : ch.inProgress = some (ch.window.get j) := by
  unfold Chan.inProgress
  cases hf : ch.window.xs.find? fun sl => decide (sl.st = .fetching) with
  | none => exact absurd (decide_eq_true h) (List.find?_eq_none.mp hf _ ((mem_table_xs ch.window _).mpr ⟨j, rfl⟩))
  | some e =>
    obtain ⟨l, rfl⟩ := (mem_table_xs ch.window e).mp (List.mem_of_find?_eq_some hf)
    have hl := List.find?_some hf
    rw [hone l (of_decide_eq_true hl)]

theorem Chan.inProgress_none (h : ∀ j, (ch.window.get j).st ≠ .fetching) : ch.inProgress = none := by
  refine List.find?_eq_none.mpr fun e he => ?_
  obtain ⟨l, rfl⟩ := (mem_table_xs ch.window e).mp he
  simpa using h l

/-- The slots that hold a block to fetch. -/
def Chan.fetchable (ch : Chan) : List Slot :=
  ch.window.xs.filter fun sl => sl.st = .empty && sl.src.isSome && decide (ch.i ≤ sl.idx.getD (ch.i - 1))

theorem Chan.mem_fetchable_iff (ch : Chan) (e : Slot) :
    e ∈ ch.fetchable ↔ ∃ j x a, ch.window.get j = e ∧ ch.mayFetch j x a := by
  simp only [Chan.fetchable, List.mem_filter, mem_table_xs, Bool.and_eq_true, decide_eq_true_eq,
    Option.isSome_iff_exists, Chan.mayFetch]
  constructor
  · rintro ⟨⟨j, rfl⟩, ⟨hst, a, ha⟩, hi⟩
    cases hx : (ch.window.get j).idx with
    | none => rw [hx] at hi; simp only [Option.getD_none] at hi; omega
    | some x => exact ⟨j, x, a, rfl, hst, hx, ha, by simpa [hx] using hi⟩
  · rintro ⟨j, x, a, rfl, hst, hx, ha, hi⟩
    exact ⟨⟨j, rfl⟩, ⟨hst, a, ha⟩, by simpa [hx] using hi⟩

/-- A slot below every other one is the lowest of a list that holds it. -/
theorem foldl_lowerSlot (l : List Slot) (acc : Option Slot)
    (hlow : ∀ e, e ∈ l ∨ acc = some e → e = sl ∨ sl.idx.getD 0 < e.idx.getD 0) (hin : acc = some sl ∨ sl ∈ l) :
    l.foldl lowerSlot acc = some sl := by
  induction l generalizing acc with
  | nil => simpa using hin
  | cons b l ih =>
    rw [List.foldl_cons]
    refine ih _ (fun e he => ?_) ?_
    · rcases he with he | he
      · exact hlow e (.inl (List.mem_cons_of_mem b he))
      · have : e = b ∨ acc = some e := by
          unfold lowerSlot at he
          split at he
          · exact .inl (Option.some.inj he).symm
          · split at he
            · exact .inl (Option.some.inj he).symm
            · exact .inr he
        rcases this with rfl | this
        · exact hlow e (.inl List.mem_cons_self)
        · exact hlow e (.inr this)
    · by_cases hb : b = sl
      · subst hb
        left
        cases acc with
        | none => rfl
        | some e => rcases hlow e (.inr rfl) with rfl | h <;> simp [lowerSlot, *]
      · rcases hin with rfl | hin
        · have := (hlow b (.inl List.mem_cons_self)).resolve_left hb
          exact .inl (if_neg (by omega))
        · exact .inr ((List.mem_cons.mp hin).resolve_left (Ne.symm hb))

theorem Chan.firstEmpty_of_lowest (h : ch.mayFetch j x a)
    (hlow : ∀ l y b, ch.mayFetch l y b → l = j ∨ x < y) : ch.firstEmpty = some (ch.window.get j) := by
  obtain ⟨_, hx, _, _⟩ := id h
  refine foldl_lowerSlot ch.fetchable none (fun e he => ?_) (.inr ((ch.mem_fetchable_iff _).mpr ⟨j, x, a, rfl, h⟩))
  obtain ⟨l, y, b, rfl, hm⟩ := (ch.mem_fetchable_iff e).mp (he.resolve_right (by simp))
  obtain ⟨_, hy, _, _⟩ := id hm
  rcases hlow l y b hm with rfl | hlt
  · exact .inl rfl
  · exact .inr (by simpa [hx, hy] using hlt)

theorem Chan.firstEmpty_none (h : ∀ j x a, ¬ch.mayFetch j x a) : ch.firstEmpty = none := by
  have : ch.fetchable = [] := List.eq_nil_iff_forall_not_mem.mpr fun e he => by
    obtain ⟨j, x, a, -, hm⟩ := (ch.mem_fetchable_iff e).mp he
    exact h j x a hm
  exact congrArg (List.foldl lowerSlot none) this

/-! ### A channel's offer (R64) -/

/-- What a live channel offers beside a list line awaited. -/
def State.blockOffer (s : State) (c : Fin 4) : Option (ClipFetch × Int) :=
  match (s.chan c).inProgress with
  | some sl =>
    if sl.presented < 3 && !s.blockOnPort c sl then
      some ((s.chan c).blockFetch c sl sl.presented, sl.idx.getD 0 - (s.chan c).i)
    else s.requestedLine c
  | none =>
    match (s.chan c).firstEmpty with
    | some sl => some ((s.chan c).blockFetch c sl 0, sl.idx.getD 0 - (s.chan c).i)
    | none => s.requestedLine c

theorem State.offer_idle (h : (s.chan c).st.live = false) : s.offer c = none := if_pos (by simp [h])

theorem State.offer_live (h : (s.chan c).st.live = true) : s.offer c =
    match if s.listOnPort c then none else s.awaitedLine c with
    | some k => some ((s.chan c).listFetch c k, (s.chan c).walk.next - (s.chan c).i)
    | none => s.blockOffer c := by
  refine (if_neg (by simp [h])).trans ?_
  cases (if s.listOnPort c then none else s.awaitedLine c) <;> rfl

theorem State.offer_list (h : (s.chan c).st.live = true) (ha : s.awaitsLine c) (hp : ¬s.fetchesList c) : s.offer c =
    some ((s.chan c).listFetch c ((s.chan c).walk.entry / 4), (s.chan c).walk.next - (s.chan c).i) := by
  have hport : s.listOnPort c = false := by simpa using fun h => hp ((s.listOnPort_iff c).mp h)
  rw [State.offer_live h, hport, State.awaitedLine_of_awaits h ha]
  rfl

theorem State.offer_block (h : (s.chan c).st.live = true) (ha : ¬s.awaitsLine c ∨ s.fetchesList c) :
    s.offer c = s.blockOffer c := by
  have : (if s.listOnPort c then none else s.awaitedLine c) = none := by
    rcases ha with ha | ha
    · rw [State.awaitedLine_none h ha, ite_self]
    · exact if_pos ((s.listOnPort_iff c).mpr ha)
  rw [State.offer_live h, this]

theorem State.blockOffer_fetching (h : ((s.chan c).window.get j).st = .fetching)
    (hone : ∀ l, ((s.chan c).window.get l).st = .fetching → l = j) : s.blockOffer c =
      if ((s.chan c).window.get j).presented < 3 && !s.blockOnPort c ((s.chan c).window.get j) then
        some ((s.chan c).blockFetch c ((s.chan c).window.get j) ((s.chan c).window.get j).presented,
          ((s.chan c).window.get j).idx.getD 0 - (s.chan c).i)
      else s.requestedLine c := by
  simp only [State.blockOffer, Chan.inProgress_of_one h hone]

theorem State.blockOffer_empty (hno : ∀ j, ((s.chan c).window.get j).st ≠ .fetching) (h : (s.chan c).mayFetch j x a)
    (hlow : ∀ l y b, (s.chan c).mayFetch l y b → l = j ∨ x < y) : s.blockOffer c =
      some ((s.chan c).blockFetch c ((s.chan c).window.get j) 0, ((s.chan c).window.get j).idx.getD 0 - (s.chan c).i) := by
  simp only [State.blockOffer, Chan.inProgress_none hno, Chan.firstEmpty_of_lowest h hlow]

theorem State.blockOffer_rest (hno : ∀ j, ((s.chan c).window.get j).st ≠ .fetching)
    (h : ∀ j x a, ¬(s.chan c).mayFetch j x a) : s.blockOffer c = s.requestedLine c := by
  simp only [State.blockOffer, Chan.inProgress_none hno, Chan.firstEmpty_none h]

/-- A channel offers its own fetches only. -/
theorem State.offer_ch (h : s.offer c = some (f, x)) : f.ch = c := by
  have hreq : ∀ g y, s.requestedLine c = some (g, y) → g.ch = c := by
    intro g y hg
    unfold State.requestedLine at hg
    dsimp only at hg
    split at hg
    · split at hg
      · cases hg
      · cases hg; rfl
    · cases hg
  by_cases hl : (s.chan c).st.live = true
  · rw [State.offer_live hl] at h
    split at h
    · cases h; rfl
    · unfold State.blockOffer at h
      split at h
      · split at h
        · cases h; rfl
        · exact hreq f x h
      · split at h
        · cases h; rfl
        · exact hreq f x h
  · rw [State.offer_idle (by simpa using hl)] at h
    cases h

/-! ### The offer presented (R65) -/

theorem betterOffer_none (best : Option (ClipFetch × Int)) (h : s.offer c = none) : betterOffer s best c = best := by
  simp only [betterOffer, h]

theorem betterOffer_first {o : ClipFetch × Int} (h : s.offer c = some o) : betterOffer s none c = some o := by
  simp only [betterOffer, h]

theorem betterOffer_eq {o b : ClipFetch × Int} (h : s.offer c = some o) : betterOffer s (some b) c =
    if (s.chan c).urgent != (s.chan b.1.ch).urgent then (if (s.chan c).urgent then some o else some b)
    else if o.2 < b.2 then some o else some b := by
  simp only [betterOffer, h]

/-- The best of a list's offers is the offer of one of its channels, if there is one. -/
theorem foldl_betterOffer_mem (s : State) (l : List (Fin 4)) (best : Option (ClipFetch × Int)) :
    l.foldl (betterOffer s) best = best ∨ ∃ d ∈ l, l.foldl (betterOffer s) best = s.offer d := by
  induction l generalizing best with
  | nil => exact .inl rfl
  | cons d l ih =>
    rw [List.foldl_cons]
    have hd : betterOffer s best d = best ∨ betterOffer s best d = s.offer d := by
      cases ho : s.offer d with
      | none => exact .inl (betterOffer_none best ho)
      | some o =>
        cases best with
        | none => exact .inr (betterOffer_first ho)
        | some b => rw [betterOffer_eq ho]; split_ifs <;> simp
    rcases ih (betterOffer s best d) with h | ⟨e, he, h⟩
    · rcases hd with hd | hd
      · exact .inl (h.trans hd)
      · exact .inr ⟨d, List.mem_cons_self, h.trans hd⟩
    · exact .inr ⟨e, List.mem_cons_of_mem d he, h⟩

/-- An offer at least as good as every later one stays the best. -/
theorem foldl_betterOffer_keeps (l : List (Fin 4)) (hf : f.ch = c)
    (h : ∀ d ∈ l, ∀ g y, s.offer d = some (g, y) → ((s.chan c).urgent = true ∧ (s.chan d).urgent = false) ∨
      ((s.chan c).urgent = (s.chan d).urgent ∧ x ≤ y)) :
    l.foldl (betterOffer s) (some (f, x)) = some (f, x) := by
  induction l with
  | nil => rfl
  | cons d l ih =>
    have hd : betterOffer s (some (f, x)) d = some (f, x) := by
      cases ho : s.offer d with
      | none => exact betterOffer_none _ ho
      | some o =>
        rw [betterOffer_eq ho, hf]
        rcases h d List.mem_cons_self o.1 o.2 ho with ⟨hc, hd⟩ | ⟨hu, hxy⟩
        · simp [hc, hd]
        · simp [hu, Int.not_lt.mpr hxy]
    rw [List.foldl_cons, hd]
    exact ih fun e he => h e (List.mem_cons_of_mem d he)

theorem State.chosenOffer_best (ho : s.offer c = some (f, x))
    (h : ∀ d g y, d ≠ c → s.offer d = some (g, y) → ((s.chan c).urgent = true ∧ (s.chan d).urgent = false) ∨
      ((s.chan c).urgent = (s.chan d).urgent ∧ (x < y ∨ (x = y ∧ c < d)))) : s.chosenOffer = some f := by
  have hf := State.offer_ch ho
  obtain ⟨l₁, l₂, hsplit⟩ := List.append_of_mem (List.mem_finRange c)
  have hsorted : (l₁ ++ c :: l₂).Pairwise (· < ·) := hsplit ▸ List.pairwise_lt_finRange 4
  obtain ⟨-, hright, hleft⟩ := List.pairwise_append.mp hsorted
  have hbest : betterOffer s (l₁.foldl (betterOffer s) none) c = some (f, x) := by
    rcases foldl_betterOffer_mem s l₁ none with hl | ⟨d, hd, hl⟩
    · rw [hl]; exact betterOffer_first ho
    · have hdc : d < c := hleft d hd c List.mem_cons_self
      rw [hl]
      cases hod : s.offer d with
      | none => exact betterOffer_first ho
      | some b =>
        rw [betterOffer_eq ho, State.offer_ch (f := b.1) (x := b.2) hod]
        rcases h d b.1 b.2 (ne_of_lt hdc) hod with ⟨hc, hd⟩ | ⟨hu, hxy | ⟨-, hcd⟩⟩
        · simp [hc, hd]
        · simp [hu, hxy]
        · exact absurd hcd (not_lt.mpr hdc.le)
  have hall : (List.finRange 4).foldl (betterOffer s) none = some (f, x) := by
    rw [hsplit, List.foldl_append, List.foldl_cons, hbest]
    refine foldl_betterOffer_keeps l₂ hf fun d hd g y hg => ?_
    have hcd : c < d := (List.pairwise_cons.mp hright).1 d hd
    rcases h d g y (ne_of_gt hcd) hg with hu | ⟨hu, hxy⟩
    · exact .inl hu
    · exact .inr ⟨hu, by omega⟩
  rw [State.chosenOffer, hall]
  rfl

theorem State.chosenOffer_of_none (h : ∀ c, s.offer c = none) : s.chosenOffer = none := by
  rcases foldl_betterOffer_mem s (List.finRange 4) none with hl | ⟨d, -, hl⟩
  · rw [State.chosenOffer, hl]; rfl
  · rw [State.chosenOffer, hl, h d]; rfl

theorem State.presentClip_still (h : s.arb.clip ≠ none ∨ s.chosenOffer = none) : s.presentClip = s := by
  cases hc : s.arb.clip with
  | some g => simp only [State.presentClip, hc]
  | none => simp only [State.presentClip, hc, h.resolve_left (absurd hc)]

theorem State.presentClip_eq (hc : s.arb.clip = none) (ho : s.chosenOffer = some f) : s.presentClip =
    { s.setChan f.ch ((s.chan f.ch).presents f) with arb := { s.arb with clip := some f } } := by
  simp only [State.presentClip, hc, ho]
  rfl

theorem Chan.presents_block (ch : Chan) {n : Nat} (h : f.what = .block x n) : ch.presents f =
    { ch with window := ch.window.set (slotNo x) { (ch.slot x) with
        st := if (ch.slot x).st = .empty then .fetching else (ch.slot x).st
        presented := (ch.slot x).presented + 1 } } := by
  simp only [Chan.presents, h]

theorem Chan.presents_list (ch : Chan) (h : f.what = .list k) :
    ch.presents f = { ch with requested := ch.requested.filter fun j => j != k } := by
  simp only [Chan.presents, h]

/-! ### LOG (R180) -/

theorem Report.choose_busy {r : Report} (h : r.req ≠ .idle) : r.choose = r := by
  cases hr : r.req with
  | idle => exact absurd hr h
  | _ => simp only [Report.choose, hr]

theorem Report.choose_idle {r : Report} (h : r.req = .idle) : r.choose =
    if r.header ≠ some (r.producer, r.lost) then { r with req := .header }
    else if r.queue ≠ [] ∧ (r.producer + 1) % r.logLen ≠ r.consumer then { r with req := .record } else r := by
  simp [Report.choose, h, Report.headerDue, Report.slotFree]

/-- Settles O60: the offer by the state of the walk and of the window, the choice as a fold over the channels in order. -/
theorem requestersPresent : Obligations.RequestersPresent := by
  refine ⟨?offers, fun s => ⟨State.chosenOffer_of_none, ?best, State.presentClip_still, ?presented⟩, ?log⟩
  case offers =>
    rintro c ch s rfl
    refine ⟨State.offer_idle, fun hl => ⟨State.offer_list hl, fun ha rest hrest => ?_⟩, Chan.urgent_iff _⟩
    have hreq : s.requestedLine c = rest := State.requestedLine_eq hrest.1 hrest.2
    rw [State.offer_block hl ha]
    refine ⟨fun j x a hst hone hx hsrc => ?_, fun hno => ⟨fun j x a hm hlow => ?_, fun hm => ?_⟩⟩
    · rw [State.blockOffer_fetching hst hone, hreq, hx]
      refine ⟨fun hlt hport => ?_, fun h => if_neg ?_⟩
      · have hfree : s.blockOnPort c ((s.chan c).window.get j) = false := by
          simpa using fun h => hport ((State.blockOnPort_iff _ _ _ _ hx).mp h)
        simp [hlt, hfree, Chan.blockFetch, hx, hsrc]
      · rcases h with h | h
        · simp [Nat.not_lt.mpr h]
        · simp [(State.blockOnPort_iff _ _ _ _ hx).mpr h]
    · obtain ⟨-, hx, hsrc, -⟩ := id hm
      rw [State.blockOffer_empty hno hm hlow]
      simp [Chan.blockFetch, hx, hsrc]
    · exact (State.blockOffer_rest hno hm).trans hreq
  case best => exact fun c f x ho h => State.chosenOffer_best ho h
  case presented =>
    intro f hc ho
    have hframe := s.presentClip_frame
    rw [State.presentClip_eq hc ho] at hframe ⊢
    refine ⟨rfl, fun d hd => ?_, fun x n hw => ⟨_, rfl, ?_⟩, fun k hw => ?_, hframe⟩
    · exact Table.get_set_ne _ _ (Ne.symm hd)
    · exact (Table.get_set_self _ _ _).trans (Chan.presents_block _ hw)
    · exact (Table.get_set_self _ _ _).trans (Chan.presents_list _ hw)
  case log =>
    refine fun r => ⟨Report.choose_busy, fun h => ?_⟩
    rw [Report.choose_idle h]
    refine ⟨fun hh => if_pos hh, fun hh hq hs => ?_, fun hh hq => ?_⟩
    · rw [if_neg (not_not.mpr hh), if_pos ⟨hq, hs⟩]
    · rw [if_neg (not_not.mpr hh), if_neg fun h => hq.elim h.1 h.2]

end Sys2Proof.Machine
end

section
/-! PROOFS. UPDATE GROUP, UPDATE CHANNEL and UPDATE LINE applied (chapters 04, 06, 09). -/

namespace Sys2Proof.Machine

variable {s t u v : State} {g : Fin 12} {e : GroupEntry} {k : Fin 6}

/-! ### What the closes leave of a group's record -/

/-- The group record with the fields that a close may change: the counts, the last winner and the gates (R110). -/
def Group.closedWith (gr : Group) (x : Group) : Group :=
  { gr with counts := x.counts, lastWinner := x.lastWinner, gates := x.gates }

theorem closeFold_grp (st : CloseStatus) (l : List Gather) (s : State) (g : Fin 12) :
    (l.foldl (fun x ga => x.closeGather ga st) s).grp g =
      (s.grp g).closedWith ((l.foldl (fun x ga => x.closeGather ga st) s).grp g) := by
  induction l generalizing s with
  | nil => rfl
  | cons ga l ih =>
    have hone : (s.closeGather ga st).grp g = (s.grp g).closedWith ((s.closeGather ga st).grp g) := by
      obtain ⟨-, -, hgrp, hother, -⟩ := s.closeGather_closed ga st
      by_cases hg : g = ga.group
      · rw [hg, hgrp]; rfl
      · rw [hother g hg]; rfl
    rw [List.foldl_cons]
    refine (ih _).trans ?_
    rw [hone]
    rfl

theorem closeFold_grp_other (st : CloseStatus) (l : List Gather) (s : State) (h : ∀ ga ∈ l, ga.group ≠ g) :
    (l.foldl (fun x ga => x.closeGather ga st) s).grp g = s.grp g := by
  induction l generalizing s with
  | nil => rfl
  | cons ga l ih =>
    rw [List.foldl_cons, ih _ fun x hx => h x (List.mem_cons_of_mem ga hx)]
    obtain ⟨-, -, -, hother, -⟩ := s.closeGather_closed ga st
    exact hother g (Ne.symm (h ga List.mem_cons_self))

/-! ### The flush of one group (R115) -/

/-- The OPEN gathers of a group closed as FLUSHED (R115 step 1). -/
def State.flushGroup (s : State) (g : Fin 12) : State :=
  (sortKeys (s.gather.opens.filter fun ga => ga.group = g)).foldl flushOne s

theorem mem_flushKeys {ga : Gather} :
    ga ∈ sortKeys (s.gather.opens.filter fun ga => ga.group = g) ↔ ga ∈ s.gather.opens ∧ ga.group = g := by
  rw [(sortKeys_perm _).mem_iff, List.mem_filter, decide_eq_true_eq]

theorem State.flushGroup_opens (s : State) (g : Fin 12) (x : Gather) :
    x ∈ (s.flushGroup g).gather.opens ↔ x ∈ s.gather.opens ∧ x.group ≠ g := by
  have hfold := closeFold_opens .flushed (sortKeys (s.gather.opens.filter fun ga => ga.group = g)) s
  rw [State.flushGroup, show flushOne = fun x ga => x.closeGather ga .flushed from rfl, hfold, List.mem_filter]
  refine and_congr_right fun hx => ?_
  rw [decide_eq_true_eq, List.mem_map, not_iff_not]
  constructor
  · rintro ⟨y, hy, hkey⟩
    rw [← (mem_flushKeys.mp hy).2]
    exact (Prod.ext_iff.mp hkey).1.symm
  · exact fun hg => ⟨x, mem_flushKeys.mpr ⟨hx, hg⟩, rfl⟩

/-- A flush logs nothing (R110). -/
theorem State.flushGroup_frame (s : State) (g : Fin 12) : Frame [.groups, .opens, .results] s (s.flushGroup g) :=
  Frame.foldl _ (fun v ga => v.closeGather_quiet_frame ga .flushed rfl) _ _

theorem State.flushGroup_grp (s : State) (g : Fin 12) :
    (s.flushGroup g).grp g = (s.grp g).closedWith ((s.flushGroup g).grp g) := closeFold_grp .flushed _ s g

theorem State.flushGroup_grp_ne (s : State) {j : Fin 12} (h : j ≠ g) : (s.flushGroup g).grp j = s.grp j :=
  closeFold_grp_other .flushed _ s fun _ hga => by rw [(mem_flushKeys.mp hga).2]; exact Ne.symm h

/-- What a completed read leaves is what the closes see. -/
theorem State.closesAll.of_complete {f : Gather → Bool} {st : CloseStatus} (hcells : s.portCells = [])
    (h : (s.complete false).closesAll u f st) : s.closesAll u f st := by
  obtain ⟨l, hperm, hsorted, hcloses⟩ := h
  have hread := s.complete_read_frame false hcells
  refine ⟨l, hperm, hsorted, ?_⟩
  cases l with
  | nil => exact hread.trans hcloses
  | cons ga rest =>
    obtain ⟨w, hclosed, hframe, hrest⟩ := hcloses
    exact ⟨w, hclosed, (hread.wide rfl).trans hframe, hrest⟩

/-! ### The wait of an arrival of the group (R115) -/

theorem State.endWaitOf_frame (s : State) (g : Fin 12) : Frame [.arrival, .queue] s (s.endWaitOf g) := by
  unfold State.endWaitOf
  split
  · exact Frame.ite (State.endWait_frame s) (Frame.refl _ s)
  · exact Frame.refl _ s

theorem State.endWaitOf_none (h : s.gather.waiting = none) : s.endWaitOf g = s := by
  simp only [State.endWaitOf, h]

theorem State.endWaitOf_own {a : Arrival} (h : s.gather.waiting = some a) (hg : a.group = g) :
    (s.endWaitOf g).gather.waiting = none ∧ (s.endWaitOf g).path.queue = s.path.queue.tail := by
  simp [State.endWaitOf, State.endWait, h, hg]

theorem State.endWaitOf_other {a : Arrival} (h : s.gather.waiting = some a) (hg : a.group ≠ g) : s.endWaitOf g = s := by
  simp only [State.endWaitOf, h, if_neg hg]

/-! ### The group's record after the flush (R115 steps 3 and 4) -/

theorem has_without_ne (m : SecSet) {j k : Fin 24} (h : j ≠ k) : has (m &&& ~~~(single j)) k = has m k := by
  have hval : j.val ≠ k.val := fun hv => h (Fin.ext hv)
  simp [has, single, Ne.symm hval]

/-- The gates closed section by section. -/
theorem foldl_without (l : List (Fin 24)) (b : GateBand) (k : Fin 24) :
    has (l.foldl GateBand.without b).isOpen k = (has b.isOpen k && decide (k ∉ l)) ∧
      (l.foldl GateBand.without b).hold.get k = if k ∈ l then 0 else b.hold.get k := by
  induction l generalizing b with
  | nil => simp
  | cons j l ih =>
    obtain ⟨hopen, hhold⟩ := ih (b.without j)
    rw [List.foldl_cons, hopen, hhold]
    by_cases hj : k = j
    · subst hj
      simp [GateBand.without, has_without]
    · simp [GateBand.without, has_without_ne _ (Ne.symm hj), Table.get_set_ne _ _ (Ne.symm hj), hj]

theorem Group.setChanged_gates (gr : Group) (old : SecSet) (x : Fin 8) (k : Fin 24) :
    (has old k = true → has gr.set k = false →
      has ((gr.setChanged old).gates.get x).isOpen k = false ∧ ((gr.setChanged old).gates.get x).hold.get k = 0) ∧
    (has old k = false ∨ has gr.set k = true →
      has ((gr.setChanged old).gates.get x).isOpen k = has (gr.gates.get x).isOpen k ∧
        ((gr.setChanged old).gates.get x).hold.get k = (gr.gates.get x).hold.get k) := by
  have hgates : (gr.setChanged old).gates.get x = (members (old &&& ~~~gr.set)).foldl GateBand.without (gr.gates.get x) := by
    simp [Group.setChanged]
  have hgone : k ∈ members (old &&& ~~~gr.set) ↔ has old k = true ∧ has gr.set k = false := by
    rw [mem_members]
    simp [has, k.isLt]
  obtain ⟨hopen, hhold⟩ := foldl_without (members (old &&& ~~~gr.set)) (gr.gates.get x) k
  rw [hgates, hopen, hhold]
  constructor
  · intro hold hnew
    simp [hgone.mpr ⟨hold, hnew⟩]
  · intro h
    have hstays : k ∉ members (old &&& ~~~gr.set) := fun hk => by
      obtain ⟨hold, hnew⟩ := hgone.mp hk
      rcases h with h | h
      · rw [h] at hold; exact absurd hold (by decide)
      · rw [h] at hnew; exact absurd hnew (by decide)
    simp [hstays]

/-- The group record that an UPDATE GROUP leaves. -/
def Group.updated (gr : Group) (e : GroupEntry) : Group := (gr.withEntry e).setChanged gr.set

theorem Group.updated_lastWinner (gr : Group) (e : GroupEntry) :
    (∀ k, gr.lastWinner = some k → (gr.updated e).lastWinner = if has e.set k then some k else none) ∧
      (gr.lastWinner = none → (gr.updated e).lastWinner = none) := by
  constructor
  · intro k hk
    simp [Group.updated, Group.setChanged, Group.withEntry, hk]
  · intro hk
    simp [Group.updated, Group.setChanged, Group.withEntry, hk]

/-- The group flushed, a waiting arrival of it gone, before its record changes. -/
def State.regrouping (s : State) (g : Fin 12) : State := (s.flushGroup g).endWaitOf g

theorem State.regrouping_grp (s : State) (g j : Fin 12) : (s.regrouping g).grp j = (s.flushGroup g).grp j :=
  (State.endWaitOf_frame _ g).grp_eq rfl j

theorem State.applyGroup_eq (s : State) (g : Fin 12) (e : GroupEntry) : s.applyGroup g e =
    ((s.regrouping g).setGrp g (((s.flushGroup g).grp g).updated e)).markIf
      (((s.flushGroup g).grp g).lastWinner != (((s.flushGroup g).grp g).updated e).lastWinner) (mirrorOfGroup g) := by
  rw [← s.regrouping_grp g g]
  rfl

theorem State.applyGroup_grp (s : State) (g j : Fin 12) (e : GroupEntry) : (s.applyGroup g e).grp j =
    if j = g then ((s.flushGroup g).grp g).updated e else s.grp j := by
  rw [State.applyGroup_eq]
  by_cases hj : j = g
  · subst hj
    simp [State.grp, State.setGrp]
  · rw [if_neg hj, ← s.flushGroup_grp_ne hj, ← s.regrouping_grp g j]
    simp [State.grp, State.setGrp, Table.get_set_ne _ _ (Ne.symm hj)]

/-- The frame of the record's change, behind the flush and the end of a wait. -/
theorem State.applyGroup_frame_flushed (s : State) (g : Fin 12) (e : GroupEntry) :
    Frame [.groups] (s.regrouping g) (s.applyGroup g e) := by
  rw [State.applyGroup_eq]
  exact (State.setGrp_frame _ _ _).trans ((State.markIf_frame _ _ _).mono (by simp))

theorem Frame.waiting_eq {l : List Part} (h : Frame l s t) (hl : (Part.within [.arrival] l || Part.within [.queue] l) = false) :
    t.gather.waiting = s.gather.waiting ∧ t.path.queue = s.path.queue := by
  rw [Bool.or_eq_false_iff] at hl
  exact ⟨h.same .arrival hl.1, h.same .queue hl.2⟩

/-! ### The entry of a channel and of a line (R78, R157) -/

theorem State.applyChannel_still (s : State) (c : Fin 4) (d : ChanDefaults) :
    ((s.applyChannel c d).chan c).still = { s.chan c with defaults := d }.still ∧
      ∀ j, j ≠ c → ((s.applyChannel c d).chan j).still = (s.chan j).still := by
  constructor
  · simp [State.applyChannel, State.chan, State.setChan]
  · intro j hj
    simp [State.applyChannel, State.chan, State.setChan, Table.get_set_ne _ _ (Ne.symm hj)]

theorem LineRec.evaluated_active {l : LineRec} (now : Nat) (he : l.enabled = true) (h : l.high ≠ l.activeLow) :
    l.evaluated now = { l with state := .debounce, deadline := some (now + l.debounce * 1000), acked := false } :=
  if_pos (by rw [he, l.inputActive_iff.mpr h]; rfl)

theorem LineRec.evaluated_quiet {l : LineRec} (now : Nat) (h : l.enabled = false ∨ l.high = l.activeLow) :
    l.evaluated now = { l with state := .quiet, deadline := none } :=
  if_neg (by rcases h with h | h <;> simp [h, l.inputActive_false])

theorem LineRec.evaluated_request (l : LineRec) (now : Nat) :
    (l.evaluated now).request = l.request ∧ (l.acked = false → (l.evaluated now).acked = false) := by
  unfold LineRec.evaluated
  split
  · exact ⟨rfl, fun _ => rfl⟩
  · exact ⟨rfl, id⟩

/-- The fields of an entry in force, its input evaluated afresh (R157 steps 2 and 3). -/
def State.relined (s : State) (k : Fin 6) (set : LineRec → LineRec) : State :=
  s.putLine k ((set (s.line k)).evaluated s.now)

/-- The same, and LINE_STATE where the state has moved (R157 step 4). -/
def State.relinedLogged (s : State) (k : Fin 6) (set : LineRec → LineRec) (cause : LineCause) : State :=
  if ((set (s.line k)).evaluated s.now).state = (s.line k).state then s.relined k set
  else (s.relined k set).logLine k (s.line k).state cause

theorem State.relinedLogged_line (s : State) (k i : Fin 6) (set : LineRec → LineRec) (cause : LineCause) :
    (s.relinedLogged k set cause).line i = if i = k then (set (s.line k)).evaluated s.now else s.line i := by
  have hput : (s.relined k set).line i = if i = k then (set (s.line k)).evaluated s.now else s.line i := by
    by_cases hi : i = k
    · subst hi; simp [State.relined]
    · simp [State.relined, hi, Ne.symm hi]
  unfold State.relinedLogged
  split
  · exact hput
  · rw [State.logLine_line, hput]

theorem State.relinedLogged_frame (s : State) (k : Fin 6) (set : LineRec → LineRec) (cause : LineCause)
    (h : (set (s.line k)).request = (s.line k).request) :
    Frame [.lines, .logQueue, .lostCount] s (s.relinedLogged k set cause) := by
  have hput : Frame [.lines] s (s.relined k set) :=
    s.putLine_frame_kept k _ ((LineRec.evaluated_request _ _).1.trans h)
  exact Frame.ite (hput.wide rfl) ((hput.wide rfl).trans ((State.logLine_frame _ _ _ _).wide rfl))

theorem State.relinedLogged_logNow (s : State) (k : Fin 6) (set : LineRec → LineRec) (cause : LineCause) :
    (s.relinedLogged k set cause).logNow = s.logged
      (if (s.line k).state = ((set (s.line k)).evaluated s.now).state then []
        else [s.lineRecord k ((set (s.line k)).evaluated s.now) (s.line k).state cause]) := by
  unfold State.relinedLogged
  by_cases hst : ((set (s.line k)).evaluated s.now).state = (s.line k).state
  · rw [if_pos hst, if_pos hst.symm, s.logged_nil]
    exact (s.putLine_frame k _).logNow rfl rfl
  · rw [if_neg hst, if_neg (Ne.symm hst)]
    exact s.putLine_logLine_logNow k _ _ _

theorem State.applyLine_forced (set : LineRec → LineRec) (cause : LineCause) (h : (s.line k).state.inForce = true) :
    s.applyLine k set cause = ((s.withdrawLine k).logLine k (s.line k).state cause).relinedLogged k set cause := by
  have hnow : ((s.withdrawLine k).logLine k (s.line k).state cause).now = s.now := (s.withdrawLine_frame k).same .timebase rfl
  unfold State.applyLine State.relinedLogged State.relined
  simp only [h, if_true, State.putLine_line, hnow]

theorem State.applyLine_unforced (set : LineRec → LineRec) (cause : LineCause) (h : (s.line k).state.inForce = false) :
    s.applyLine k set cause = s.relinedLogged k set cause := by
  unfold State.applyLine State.relinedLogged State.relined
  simp only [h, Bool.false_eq_true, if_false, State.putLine_line]

end Sys2Proof.Machine
end

section
/-! PROOFS. UPDATE GROUP, UPDATE CHANNEL and UPDATE LINE answered (chapters 04, 06, 09, 10). -/

namespace Sys2Proof.Machine

variable {s t u v : State} {g : Fin 12} {e : GroupEntry} {k : Fin 6}

/-- The end of an UPDATE, as the next command finds it. -/
theorem State.applied_settled {l : List Part} {es : List LogRec} {clamped : Nat} (h : Frame l s v)
    (hl : (Part.within [.partState] l || Part.within [.logIndices] l || Part.within [.reportBases] l ||
      Part.within [.timebase] l) = false) (hc : v.plan.change.isSome = true) (hlog : v.logNow = s.logged es) :
    (v.applied clamped).settle.answered .done 0 0 ∧
      (v.applied clamped).settle.logNow = s.logged (es ++ s.clampedRecords clamped) ∧
      Frame [.change, .logQueue, .lostCount] v (v.applied clamped).settle :=
  ⟨State.settle_answered _ _ _ _ (State.applied_answered hc _),
    by rw [State.settle_logNow, State.applied_logNow h hl hlog], (v.applied_frame clamped).settled⟩

/-! ### UPDATE GROUP (R115) -/

theorem Group.accepts_iff (gr : Group) (e : GroupEntry) : gr.accepts e = true ↔
    gr.present = true ∧ e.present = true ∧ groupKindOf e.kind = some gr.kind ∧ e.ringLen = gr.ringLen := by
  simp [Group.accepts, and_assoc]

theorem exec_updateGroup {b : List Byte} {clamped : Nat} (h : s.entryComes 4 g.val b) (hparse : parseGroup b = (e, clamped))
    (hok : (s.grp g).accepts e = true) :
    exec (.updateGroup false) s = .next (((s.complete false).applyGroup g e).applied clamped).settle := by
  obtain ⟨hreset, hup, hcells, -, hread⟩ := State.entryComes_hands h
  have hentry : s.entryLineRead 4 false = ((s.complete false).applyGroup g e).applied clamped := by
    rw [hread, State.handEntry_group, toFin_self, hparse]
    exact if_pos hok
  rw [← hentry]
  exact exec_effect rfl rfl hreset hup

/-- A group updated: what is OPEN, what waits, what the flush has left, and the log. -/
theorem State.applyGroup_spec (s : State) (g : Fin 12) (e : GroupEntry) :
    (∀ x, x ∈ (s.applyGroup g e).gather.opens ↔ x ∈ s.gather.opens ∧ x.group ≠ g) ∧
      (s.applyGroup g e).gather.results = (s.flushGroup g).gather.results ∧
      (s.applyGroup g e).gather.waiting = (s.regrouping g).gather.waiting ∧
      (s.applyGroup g e).path.queue = (s.regrouping g).path.queue ∧ (s.applyGroup g e).logNow = s.logNow := by
  have hflush := s.flushGroup_frame g
  have hwait : Frame [.arrival, .queue] (s.flushGroup g) (s.regrouping g) := State.endWaitOf_frame _ g
  have hrecord := s.applyGroup_frame_flushed g e
  have hgather : Frame [.groups, .arrival, .queue] (s.flushGroup g) (s.applyGroup g e) :=
    (hwait.wide rfl).trans (hrecord.wide rfl)
  have hopens : (s.applyGroup g e).gather.opens = (s.flushGroup g).gather.opens := hgather.same .opens rfl
  refine ⟨fun x => by rw [hopens, s.flushGroup_opens], hgather.same .results rfl, hrecord.same .arrival rfl,
    hrecord.same .queue rfl, ?_⟩
  rw [hgather.logNow rfl rfl, hflush.logNow rfl rfl]

/-- The waiting arrival after the flush of a group (R115 step 2). -/
theorem State.regrouping_waits (s : State) (g : Fin 12) :
    (s.gather.waiting = none → (s.regrouping g).gather.waiting = none ∧ (s.regrouping g).path.queue = s.path.queue) ∧
      (∀ a, s.gather.waiting = some a → a.group = g →
        (s.regrouping g).gather.waiting = none ∧ (s.regrouping g).path.queue = s.path.queue.tail) ∧
      (∀ a, s.gather.waiting = some a → a.group ≠ g →
        (s.regrouping g).gather.waiting = some a ∧ (s.regrouping g).path.queue = s.path.queue) := by
  obtain ⟨hwaiting, hqueue⟩ := (s.flushGroup_frame g).waiting_eq rfl
  rw [← hwaiting, ← hqueue, State.regrouping]
  exact ⟨fun h => by rw [State.endWaitOf_none h]; exact ⟨h, rfl⟩, fun a h hg => State.endWaitOf_own h hg,
    fun a h hg => by rw [State.endWaitOf_other h hg]; exact ⟨h, rfl⟩⟩

/-! ### UPDATE LINE (R157) -/

variable {b : List Byte} {en : LineEntry} {clamped : Nat}

theorem exec_updateLine (h : s.entryComes 6 k.val b) (hparse : parseLine b = (en, clamped)) :
    exec (.updateLine false) s =
      .next (((s.complete false).applyLine k (fun l => l.withEntry en) .update).applied clamped).settle := by
  obtain ⟨hreset, hup, -, -, hread⟩ := State.entryComes_hands h
  have hentry : s.entryLineRead 6 false =
      ((s.complete false).applyLine k (fun l => l.withEntry en) .update).applied clamped := by
    rw [hread, State.handEntry_line, toFin_self, hparse]
    rfl
  rw [← hentry]
  exact exec_effect rfl rfl hreset hup

/-- The line, its entry in force and its input evaluated afresh. -/
def LineRec.renewed (l : LineRec) (en : LineEntry) (now : Nat) : LineRec := (l.withEntry en).evaluated now

theorem LineRec.renewed_fields (l : LineRec) (en : LineEntry) (now : Nat) :
    (l.renewed en now).enabled = en.enabled ∧ (l.renewed en now).activeLow = en.activeLow ∧
      (l.renewed en now).debounce = en.debounce ∧ (l.renewed en now).actions = en.actions ∧
      (l.renewed en now).high = l.high ∧ (l.renewed en now).request = l.request ∧
      (l.acked = false → (l.renewed en now).acked = false) := by
  unfold LineRec.renewed LineRec.evaluated
  split
  · exact ⟨rfl, rfl, rfl, rfl, rfl, rfl, fun _ => rfl⟩
  · exact ⟨rfl, rfl, rfl, rfl, rfl, rfl, id⟩

theorem LineRec.renewed_active {l : LineRec} (now : Nat) (he : en.enabled = true) (h : l.high ≠ en.activeLow) :
    (l.renewed en now).state = .debounce ∧ (l.renewed en now).deadline = some (now + en.debounce * 1000) ∧
      (l.renewed en now).acked = false := by
  rw [LineRec.renewed, LineRec.evaluated_active (l := l.withEntry en) now he h]
  exact ⟨rfl, rfl, rfl⟩

theorem LineRec.renewed_quiet {l : LineRec} (now : Nat) (h : en.enabled = false ∨ l.high = en.activeLow) :
    (l.renewed en now).state = .quiet ∧ (l.renewed en now).deadline = none := by
  rw [LineRec.renewed, LineRec.evaluated_quiet (l := l.withEntry en) now h]
  exact ⟨rfl, rfl⟩

/-- A line withdrawn, its new entry in force. -/
theorem State.applyLine_withdrawn (s : State) (h : (s.line k).state.inForce = true) (cause : LineCause) :
    ∃ old : LineRec, old.state = .quiet ∧ old.high = (s.line k).high ∧ old.request = .none ∧ old.acked = false ∧
      (s.applyLine k (fun l => l.withEntry en) cause).line k = old.renewed en s.now ∧
      (∀ i, i ≠ k → (s.applyLine k (fun l => l.withEntry en) cause).line i = (s.withdrawLine k).line i) ∧
      Frame [.lines, .logQueue, .lostCount] (s.withdrawLine k) (s.applyLine k (fun l => l.withEntry en) cause) ∧
      (s.applyLine k (fun l => l.withEntry en) cause).logNow = (s.withdrawLine k).logged
        (s.record .lineState k.val (w4 (s.line k).state.code 0 cause.code 0) 0 ::
          if (old.renewed en s.now).state = .quiet then []
          else [s.record .lineState k.val (w4 0 (old.renewed en s.now).state.code cause.code 0) 0]) := by
  have hline := s.withdrawLine_line k
  have hnow : (s.withdrawLine k).now = s.now := (s.withdrawLine_frame k).same .timebase rfl
  rw [State.applyLine_forced _ cause h]
  generalize s.withdrawLine k = u at hline hnow ⊢
  have hlog := State.logLine_after (k := k) (es := []) (old := (s.line k).state) (cause := cause) (Frame.refl [] u) rfl (by simp)
  have hlogged := u.logLine_frame k (s.line k).state cause
  have hkept (i : Fin 6) : (u.logLine k (s.line k).state cause).line i = u.line i := State.logLine_line _ _ _ _ _
  generalize u.logLine k (s.line k).state cause = w at hlog hlogged hkept ⊢
  have hsame : w.now = u.now := hlogged.same .timebase rfl
  have hwnow : w.now = s.now := hsame.trans hnow
  obtain ⟨-, -, -, -, -, hreq, hack⟩ := (u.line k).renewed_fields en s.now
  refine ⟨u.line k, by rw [hline], by rw [hline], by rw [hline], by rw [hline], ?_, fun i hi => ?_, ?_, ?_⟩
  · rw [State.relinedLogged_line, if_pos rfl, hkept, hwnow]
    rfl
  · rw [State.relinedLogged_line, if_neg hi, hkept]
  · exact (hlogged.wide rfl).trans (w.relinedLogged_frame k _ cause rfl)
  · have hfirst : u.lineRecord k (u.line k) (s.line k).state cause =
        s.record .lineState k.val (w4 (s.line k).state.code 0 cause.code 0) 0 := by
      rw [State.lineRecord_unacked _ _ _ _ _ (by rw [hline]), hline]
      simp only [State.record, hnow]
      rfl
    have hacked : ((u.line k).renewed en s.now).acked = false := hack (by rw [hline])
    have hrequest : ((u.line k).renewed en s.now).request = .none := by rw [hreq, hline]
    have hsecond : w.lineRecord k ((u.line k).renewed en s.now) .quiet cause =
        s.record .lineState k.val (w4 0 ((u.line k).renewed en s.now).state.code cause.code 0) 0 := by
      rw [State.lineRecord_unacked _ _ _ _ _ hacked, hrequest]
      simp only [State.record, hwnow]
      rfl
    have hstate : (w.line k).state = .quiet := by rw [hkept, hline]
    have hafter : ((w.line k).withEntry en).evaluated w.now = (u.line k).renewed en s.now := by rw [hkept, hwnow]; rfl
    rw [w.relinedLogged_logNow, hafter, hstate, hlogged.logged_append rfl _ _ hlog, hfirst, hsecond]
    simp only [eq_comm (a := LineState.quiet)]
    rfl

/-- A line not in force, its new entry in force. -/
theorem State.applyLine_kept (s : State) (h : (s.line k).state.inForce = false) (cause : LineCause) :
    (∀ i, (s.applyLine k (fun l => l.withEntry en) cause).line i =
        if i = k then (s.line k).renewed en s.now else s.line i) ∧
      Frame [.lines, .logQueue, .lostCount] s (s.applyLine k (fun l => l.withEntry en) cause) ∧
      (s.applyLine k (fun l => l.withEntry en) cause).logNow = s.logged
        (if (s.line k).state = ((s.line k).renewed en s.now).state then []
          else [s.lineRecord k ((s.line k).renewed en s.now) (s.line k).state cause]) := by
  rw [State.applyLine_unforced _ cause h]
  exact ⟨fun i => s.relinedLogged_line k i _ cause, s.relinedLogged_frame k _ cause rfl, s.relinedLogged_logNow k _ cause⟩

theorem State.applyLine_others (s : State) (en : LineEntry) (cause : LineCause) :
    (∀ i, i ≠ k → ((s.applyLine k (fun l => l.withEntry en) cause).line i).still = (s.line i).still) ∧
      (s.applyLine k (fun l => l.withEntry en) cause).plan.change.isSome = s.plan.change.isSome := by
  cases hf : (s.line k).state.inForce with
  | true =>
    obtain ⟨-, -, -, -, -, -, hother, hframe, -⟩ := s.applyLine_withdrawn (en := en) hf cause
    exact ⟨fun i hi => by rw [hother i hi, s.withdrawLine_still k hi],
      by rw [hframe.change_isSome rfl, s.withdrawLine_change k]⟩
  | false =>
    obtain ⟨hline, hframe, -⟩ := s.applyLine_kept (en := en) hf cause
    exact ⟨fun i hi => by rw [hline, if_neg hi], hframe.change_isSome rfl⟩

/-- Settles O55: the flush, the wait and the record of a group; a channel's defaults; a line withdrawn and evaluated afresh. -/
theorem updateAppliesEntry : Obligations.UpdateAppliesEntry := by
  refine ⟨?group, ?channel, ?line⟩
  case group =>
    intro g b e clamped s hcomes hparse hpresent hepresent hkind hring
    obtain ⟨-, -, hcells, hchange, -⟩ := State.entryComes_hands hcomes
    have hexec := exec_updateGroup hcomes hparse ((Group.accepts_iff _ _).mpr ⟨hpresent, hepresent, hkind, hring⟩)
    have hbase := s.complete_read_frame false hcells
    have hcloses := State.closesAll.of_complete hcells (flushFold_closesAll (s.complete false) fun x => x.group = g)
    change s.closesAll ((s.complete false).flushGroup g) (fun x => x.group = g) .flushed at hcloses
    have hgrps (j : Fin 12) : (s.complete false).grp j = s.grp j := hbase.grp_eq rfl j
    have hgather : (s.complete false).gather = s.gather := rfl
    have hqueue : (s.complete false).path.queue = s.path.queue := rfl
    generalize s.complete false = v at hexec hbase hcloses hgrps hgather hqueue
    obtain ⟨hopens, hresults, hwaiting, hfree, hlog⟩ := v.applyGroup_spec g e
    obtain ⟨hnone, hown, hother⟩ := v.regrouping_waits g
    rw [hgather, hqueue, ← hwaiting, ← hfree] at hnone hown hother
    have hgrp (j : Fin 12) := v.applyGroup_grp g j e
    have hflushed := v.flushGroup_grp g
    rw [hgrps] at hflushed
    have happly : Frame flushParts s (v.applyGroup g e) := (hbase.wide rfl).trans (v.applyGroup_frame g e)
    generalize v.flushGroup g = u at hcloses hresults hgrp hflushed
    generalize v.applyGroup g e = w at hexec hopens hresults hwaiting hfree hlog hnone hown hother hgrp happly
    obtain ⟨hans, hlogged, hend⟩ := State.applied_settled (clamped := clamped) (es := []) happly rfl
      (by rw [happly.change_isSome rfl, hchange]) (by rw [hlog, hbase.logNow rfl rfl, s.logged_nil])
    generalize (w.applied clamped).settle = t at hexec hans hlogged hend
    have hto : t.gather.opens = w.gather.opens := hend.same .opens rfl
    have htr : t.gather.results = w.gather.results := hend.same .results rfl
    obtain ⟨htw, htq⟩ := hend.waiting_eq rfl
    have htg (j : Fin 12) : t.grp j = if j = g then (u.grp g).updated e else s.grp j := by
      rw [hend.grp_eq rfl j, hgrp j, hgrps]
    have htgg : t.grp g = (u.grp g).updated e := by rw [htg, if_pos rfl]
    obtain ⟨hwins, hno⟩ := (u.grp g).updated_lastWinner e
    have hgates (x : Fin 8) (k : Fin 24) := ((u.grp g).withEntry e).setChanged_gates (u.grp g).set x k
    have hset : (u.grp g).set = (s.grp g).set := by rw [hflushed]; rfl
    refine ⟨t, hexec, hans, fun x => by rw [hto, hopens, hgather], ⟨u, hcloses, htr.trans hresults, ?_⟩, ?_, ?_, ?_, ?_⟩
    · rw [htgg]
      refine ⟨rfl, rfl, rfl, hwins, hno, fun k x hk => ?_⟩
      rw [← hset] at hk
      exact (hgates x k).2 hk
    · rw [htw, htq]; exact hnone
    · rw [htw, htq]; exact hown
    · rw [htw, htq]; exact hother
    · rw [htgg]
      refine ⟨rfl, rfl, rfl, rfl, rfl, rfl, ?_, ?_, ?_, ?_, ?_, fun k x hk => ?_, fun j hj => by rw [htg, if_neg hj], hlogged,
        (happly.wide rfl).trans (hend.wide rfl)⟩
      · exact (show ((u.grp g).updated e).kind = (u.grp g).kind from rfl).trans (by rw [hflushed]; rfl)
      · exact (show ((u.grp g).updated e).ringLen = (u.grp g).ringLen from rfl).trans (by rw [hflushed]; rfl)
      · exact (show ((u.grp g).updated e).present = (u.grp g).present from rfl).trans (by rw [hflushed]; exact hpresent)
      · exact (show ((u.grp g).updated e).uplinkBase = (u.grp g).uplinkBase from rfl).trans (by rw [hflushed]; rfl)
      · exact (show ((u.grp g).updated e).outputBase = (u.grp g).outputBase from rfl).trans (by rw [hflushed]; rfl)
      · rw [← hset] at hk
        exact (hgates x k).1 hk
  case channel =>
    intro c b d clamped s hcomes hparse
    obtain ⟨hreset, hup, hcells, hchange, hread⟩ := State.entryComes_hands hcomes
    have hbase := s.complete_read_frame false hcells
    have hchans (j : Fin 4) : (s.complete false).chan j = s.chan j := rfl
    generalize s.complete false = v at hread hbase hchans
    have hentry : s.entryLineRead 5 false = (v.applyChannel c d).applied clamped := by
      rw [hread, State.handEntry_channel, toFin_self, hparse]
      rfl
    have hexec : exec (.updateChannel false) s = .next ((v.applyChannel c d).applied clamped).settle := by
      rw [← hentry]
      exact exec_effect rfl rfl hreset hup
    have happly : Frame [.channels] s (v.applyChannel c d) :=
      (hbase.wide rfl).trans ((v.setChan_frame c _).trans ((State.mark_frame _ _).mono (by simp)))
    obtain ⟨hown, hother⟩ := v.applyChannel_still c d
    obtain ⟨hans, hlogged, hend⟩ := State.applied_settled (clamped := clamped) (es := []) happly rfl
      (by rw [happly.change_isSome rfl, hchange]) (by rw [happly.logNow rfl rfl, s.logged_nil])
    refine ⟨_, hexec, hans, ?_, fun j hj => ?_, hlogged, (happly.wide rfl).trans (hend.wide rfl)⟩
    · rw [hend.same .channels rfl c, hown, hchans]
    · rw [hend.same .channels rfl j, hother j hj, hchans]
  case line =>
    intro k b en clamped s hcomes hparse
    obtain ⟨-, -, hcells, hchange, -⟩ := State.entryComes_hands hcomes
    have hexec := exec_updateLine hcomes hparse
    have hbase := s.complete_read_frame false hcells
    have hlines (j : Fin 6) : (s.complete false).line j = s.line j := rfl
    have hnow : (s.complete false).now = s.now := rfl
    generalize s.complete false = v at hexec hbase hlines hnow
    obtain ⟨hstill, hstay⟩ := v.applyLine_others (k := k) en .update
    have hforced (hf : (s.line k).state.inForce = true) :=
      v.applyLine_withdrawn (k := k) (en := en) (by rw [hlines, hf]) .update
    have hkept (hf : (s.line k).state.inForce = false) :=
      v.applyLine_kept (k := k) (en := en) (by rw [hlines, hf]) .update
    have happly := (hbase.wide (m := lineParts) rfl).trans (v.applyLine_frame k (fun l => l.withEntry en) .update)
    generalize v.applyLine k (fun l => l.withEntry en) .update = w at hexec hstill hstay hforced hkept happly
    have hchanged : w.plan.change.isSome = true := by rw [hstay, hbase.change_isSome rfl, hchange]
    have hans := State.settle_answered _ _ _ _ (State.applied_answered hchanged clamped)
    have hend := (w.applied_frame clamped).settled
    have hlog {x : State} {l : List Part} {es : List LogRec} (h : Frame l x w)
        (hl : (Part.within [.partState] l || Part.within [.logIndices] l || Part.within [.reportBases] l ||
          Part.within [.timebase] l) = false) (hes : w.logNow = x.logged es) :
        (w.applied clamped).settle.logNow = x.logged (es ++ x.clampedRecords clamped) := by
      rw [State.settle_logNow, State.applied_logNow h hl hes]
    generalize (w.applied clamped).settle = t at hexec hans hend hlog
    have htline (j : Fin 6) : t.line j = w.line j := hend.line_eq rfl rfl j
    have hline : ∃ l : LineRec, l.high = (s.line k).high ∧ w.line k = l.renewed en s.now := by
      cases hf : (s.line k).state.inForce with
      | true =>
        obtain ⟨l, -, hhigh, -, -, hl, -⟩ := hforced hf
        exact ⟨l, by rw [hhigh, hlines], by rw [hl, hnow]⟩
      | false =>
        obtain ⟨hl, -⟩ := hkept hf
        exact ⟨s.line k, rfl, by rw [hl, if_pos rfl, hnow, hlines]⟩
    obtain ⟨l, hhigh, hl⟩ := hline
    obtain ⟨h1, h2, h3, h4, h5, -, -⟩ := l.renewed_fields en s.now
    refine ⟨t, hexec, hans, ?_, ?_, ?_, ?_, ?_, fun he ha => ?_, fun hq => ?_, fun j hj => ?_, fun hf => ?_, fun hf => ?_,
      (happly.wide rfl).trans (hend.wide rfl)⟩
    · rw [htline, hl, h1]
    · rw [htline, hl, h2]
    · rw [htline, hl, h3]
    · rw [htline, hl, h4]
    · rw [htline, hl, h5, hhigh]
    · rw [htline, hl]
      exact LineRec.renewed_active _ he (hhigh ▸ ha)
    · rw [htline, hl]
      exact LineRec.renewed_quiet _ (hhigh ▸ hq)
    · rw [htline, hstill j hj, hlines]
    · obtain ⟨old, hst, -, hreq, hack, hold, hother, hframe, hes⟩ := hforced ((LineState.inForce_iff _).mpr hf)
      obtain ⟨-, -, -, -, -, hnreq, hnack⟩ := old.renewed_fields en v.now
      have hwith := v.withdrawLine_frame k
      refine ⟨by rw [htline, hold, hnreq, hreq], by rw [htline, hold, hnack hack], v, v.withdrawLine k, hbase, rfl,
        fun j hj => by rw [htline, hother j hj], ?_, (hframe.wide rfl).trans (hend.wide rfl)⟩
      have hunow : (v.withdrawLine k).now = v.now := hwith.same .timebase rfl
      rw [hlog hframe rfl hes, htline, hold]
      simp only [State.clampedRecords, State.record, hunow, hnow, hlines, List.cons_append]
      rfl
    · have hquiet : (s.line k).state.inForce = false := by rcases hf with hf | hf <;> rw [hf] <;> rfl
      obtain ⟨hw, hframe, hes⟩ := hkept hquiet
      have hall := (hbase.wide (m := [.lines, .logQueue, .lostCount]) rfl).trans hframe
      refine ⟨?_, fun j hj => by rw [htline, hw, if_neg hj, hlines], (hall.wide rfl).trans (hend.wide rfl)⟩
      rw [hbase.logged rfl] at hes
      rw [hlog hall rfl hes, htline, hw, if_pos rfl]
      obtain ⟨-, -, -, -, -, hnreq, -⟩ := (v.line k).renewed_fields en v.now
      simp only [State.lineRecord, State.record, hnow, hlines] at hnreq ⊢
      rw [hnreq]
      rfl

end Sys2Proof.Machine
end

section
/-! PROOFS. What a channel's walk and its block-time event are made of: steps that change its own record, and at most one end of its
use as the last of them; from like records they do alike (chapter 04). -/

namespace Sys2Proof.Machine

variable {s s' t t' u u' v : State} {c d : Fin 4} {x : Chan}

/-! ### Steps of a channel's use -/

/-- What no step of a use changes in its channel's record. -/
def Chan.standing (ch : Chan) : ChanDefaults × UseCopies × Nat × Option Start × List Start × Option Start :=
  (ch.defaults, ch.use, ch.useNo, ch.queued, ch.pending, ch.waiting)

theorem Chan.standing_fields {a b : Chan} (h : a.standing = b.standing) : a.defaults = b.defaults ∧ a.use = b.use ∧
    a.useNo = b.useNo ∧ a.waiting = b.waiting ∧ (a.noStarts ↔ b.noStarts) := by
  simp only [Chan.standing, Prod.mk.injEq] at h
  obtain ⟨h1, h2, h3, h4, h5, h6⟩ := h
  exact ⟨h1, h2, h3, h6, by simp only [Chan.noStarts, h4, h5]⟩

/-- Channel `c` has gone on in its use: no other channel, no section and no part of the memory path has changed. -/
structure State.plays (s t : State) (c : Fin 4) : Prop where
  mixer : t.mixer = s.mixer
  path : t.path = s.path
  own : (t.chan c).standing = (s.chan c).standing
  others : ∀ d, d ≠ c → t.chan d = s.chan d

theorem State.plays.refl (s : State) (c : Fin 4) : s.plays s c := ⟨rfl, rfl, rfl, fun _ _ => rfl⟩

theorem State.plays.trans (h : s.plays t c) (g : t.plays u c) : s.plays u c :=
  ⟨g.mixer.trans h.mixer, g.path.trans h.path, g.own.trans h.own, fun d hd => (g.others d hd).trans (h.others d hd)⟩

theorem State.plays_setChan (s : State) (hx : x.standing = (s.chan c).standing) : s.plays (s.setChan c x) c :=
  ⟨rfl, rfl, by rw [State.chan_setChan, hx], fun d hd => State.chan_setChan_ne _ _ (Ne.symm hd)⟩

theorem State.plays_putChan (s : State) (hx : x.standing = (s.chan c).standing) : s.plays (s.putChan c x) c :=
  ⟨rfl, rfl, by rw [State.putChan_chan, hx], fun d hd => State.putChan_chan_ne _ _ (Ne.symm hd)⟩

theorem State.plays_log (s : State) (c : Fin 4) (kd : LogKind) (n : Nat) (d1 d2 : Word) : s.plays (s.log kd n d1 d2) c :=
  ⟨rfl, rfl, rfl, fun _ _ => rfl⟩

/-! ### Two states that a channel sees alike -/

/-- Channel `c` has the same record in both states, and lists and clips lie in the same regions. -/
structure Alike (c : Fin 4) (s s' : State) : Prop where
  chan : s'.chan c = s.chan c
  regions : s'.path.allRegions = s.path.allRegions

theorem Alike.refl (c : Fin 4) (s : State) : Alike c s s := ⟨rfl, rfl⟩

theorem Alike.listLineInside (h : Alike c s s') (a k : Nat) : s'.listLineInside a k = s.listLineInside a k := by
  simp only [State.listLineInside, MemPath.clipRegion, h.regions]

theorem Alike.clipInside (h : Alike c s s') (a n : Nat) : s'.clipInside a n = s.clipInside a n := by
  simp only [State.clipInside, MemPath.clipRegion, h.regions]

/-- From like states channel `c` has gone on to like records. -/
structure Goes (c : Fin 4) (s s' t t' : State) : Prop where
  left : s.plays t c
  right : s'.plays t' c
  chan : t'.chan c = t.chan c

theorem Goes.alike (g : Goes c s s' t t') (h : Alike c s s') : Alike c t t' :=
  ⟨g.chan, by rw [g.left.path, g.right.path, h.regions]⟩

theorem Goes.trans (g : Goes c s s' t t') (k : Goes c t t' u u') : Goes c s s' u u' :=
  ⟨g.left.trans k.left, g.right.trans k.right, k.chan⟩

theorem Alike.goes (h : Alike c s s') : Goes c s s' s s' := ⟨.refl s c, .refl s' c, h.chan⟩

theorem Alike.setChan (h : Alike c s s') (hx : x.standing = (s.chan c).standing) :
    Goes c s s' (s.setChan c x) (s'.setChan c x) :=
  ⟨s.plays_setChan hx, s'.plays_setChan (hx.trans (by rw [h.chan])), by rw [State.chan_setChan, State.chan_setChan]⟩

theorem Alike.putChan (h : Alike c s s') (hx : x.standing = (s.chan c).standing) :
    Goes c s s' (s.putChan c x) (s'.putChan c x) :=
  ⟨s.plays_putChan hx, s'.plays_putChan (hx.trans (by rw [h.chan])), by rw [State.putChan_chan, State.putChan_chan]⟩

theorem Alike.log (h : Alike c s s') {kd : LogKind} {n : Nat} {d1 d2 e1 e2 : Word} :
    Goes c s s' (s.log kd n d1 d2) (s'.log kd n e1 e2) :=
  ⟨s.plays_log c kd n d1 d2, s'.plays_log c kd n e1 e2, h.chan⟩

theorem Goes.andLog (g : Goes c s s' t t') {kd : LogKind} {n : Nat} {d1 d2 e1 e2 : Word} :
    Goes c s s' (t.log kd n d1 d2) (t'.log kd n e1 e2) :=
  g.trans ⟨t.plays_log c kd n d1 d2, t'.plays_log c kd n e1 e2, g.chan⟩

/-! ### The walk's operations (R59 to R61, R71) -/

theorem Alike.putChanState (h : Alike c s s') (st : ChanState) (a : ChanCause) :
    Goes c s s' (s.putChanState c st a) (s'.putChanState c st a) := by
  unfold State.putChanState
  rw [h.chan]
  refine Goes.andLog (h.putChan ?_)
  rfl

theorem Alike.actMarker (h : Alike c s s') (m : Marker) : Goes c s s' (actMarker c s m) (actMarker c s' m) := by
  cases m with
  | mark tag entry =>
    show Goes c s s' (s.passMark c tag entry) (s'.passMark c tag entry)
    unfold State.passMark
    rw [h.chan]
    refine Goes.andLog (h.putChan ?_)
    rfl
  | hold => exact h.putChanState _ _

theorem Alike.actMarkers (h : Alike c s s') (ms : List Marker) :
    Goes c s s' (ms.foldl (Machine.actMarker c) s) (ms.foldl (Machine.actMarker c) s') := by
  induction ms generalizing s s' with
  | nil => exact h.goes
  | cons m ms ih => exact (h.actMarker m).trans (ih ((h.actMarker m).alike h))

theorem Alike.requestLine (h : Alike c s s') (k : Nat) : Goes c s s' (s.requestLine c k) (s'.requestLine c k) := by
  unfold State.requestLine
  dsimp only
  rw [h.chan, h.listLineInside]
  split
  · exact h.setChan rfl
  · exact h.goes

theorem Alike.enterLine (h : Alike c s s') (k : Nat) : Goes c s s' (s.enterLine c k) (s'.enterLine c k) := by
  unfold State.enterLine
  dsimp only
  rw [h.chan]
  have g := h.setChan (x := { s.chan c with
    curLine := (s.chan c).bufLine k
    nextLine := match (s.chan c).nextLine with | some m => if m.k = k then none else some m | none => none }) rfl
  exact g.trans ((g.alike h).requestLine (k + 1))

theorem Alike.nextEntry (h : Alike c s s') : Goes c s s' (s.nextEntry c) (s'.nextEntry c) := by
  unfold State.nextEntry
  dsimp only
  rw [h.chan]
  have g := h.setChan (x := { s.chan c with
    walk := { (s.chan c).walk with entry := (s.chan c).walk.entry + 1, block := 0 } }) rfl
  split
  · exact g.trans ((g.alike h).enterLine _)
  · exact g

theorem Goes.andNextEntry (g : Goes c s s' t t') (h : Alike c s s') : Goes c s s' (t.nextEntry c) (t'.nextEntry c) :=
  g.trans (g.alike h).nextEntry

theorem Alike.attachMarker (h : Alike c s s') (m : Marker) : Goes c s s' (s.attachMarker c m) (s'.attachMarker c m) := by
  unfold State.attachMarker
  dsimp only
  rw [h.chan]
  split
  · exact h.setChan rfl
  · exact h.actMarker m

theorem Alike.assignBlock (h : Alike c s s') (a n : Nat) : Goes c s s' (s.assignBlock c a n) (s'.assignBlock c a n) := by
  unfold State.assignBlock
  dsimp only
  rw [h.chan]
  split
  · exact h.setChan rfl
  · refine Goes.andNextEntry (h.setChan ?_) h
    rfl

theorem Alike.meetHold (h : Alike c s s') : Goes c s s' (s.meetHold c) (s'.meetHold c) := by
  unfold State.meetHold
  dsimp only
  have g := (h.attachMarker .hold).andNextEntry h
  rw [g.chan]
  refine g.trans ((g.alike h).setChan ?_)
  rfl

/-! ### Runs: steps, and at most one end -/

/-- From like states channel `c` goes on alike, and its use ends in both or in neither. -/
def Runs (c : Fin 4) (s s' t t' : State) : Prop :=
  ∃ v v', Goes c s s' v v' ∧ ((t = v ∧ t' = v') ∨ ∃ a, t = v.endUse c a ∧ t' = v'.endUse c a)

theorem Goes.runs (g : Goes c s s' t t') : Runs c s s' t t' := ⟨t, t', g, .inl ⟨rfl, rfl⟩⟩

theorem Goes.ends (g : Goes c s s' t t') (a : ChanCause) : Runs c s s' (t.endUse c a) (t'.endUse c a) :=
  ⟨t, t', g, .inr ⟨a, rfl, rfl⟩⟩

theorem Goes.andRuns (g : Goes c s s' t t') (r : Runs c t t' u u') : Runs c s s' u u' := by
  obtain ⟨v, v', hv, hend⟩ := r
  exact ⟨v, v', g.trans hv, hend⟩

theorem Alike.listError (h : Alike c s s') (r : ListReason) : Runs c s s' (s.listError c r) (s'.listError c r) :=
  h.log.ends .listError

theorem Alike.meetEnd (h : Alike c s s') : Runs c s s' (s.meetEnd c) (s'.meetEnd c) := by
  unfold State.meetEnd
  dsimp only
  rw [h.chan]
  split
  · refine Goes.runs (h.setChan ?_)
    rfl
  · split
    · refine Goes.runs (h.putChan ?_)
      rfl
    · split
      · refine Goes.ends (h.setChan ?_) .finish
        rfl
      · refine Goes.runs (h.setChan ?_)
        rfl

theorem Alike.takeEntry (h : Alike c s s') (e : ListEntry) : Runs c s s' (s.takeEntry c e) (s'.takeEntry c e) := by
  unfold State.takeEntry
  dsimp only
  rw [h.chan]
  cases e with
  | clip a n =>
    dsimp only
    rw [h.clipInside]
    split
    · exact h.nextEntry.runs
    · split
      · exact (h.assignBlock _ _).runs
      · exact h.listError _
  | mark tag => exact ((h.attachMarker _).andNextEntry h).runs
  | hold => exact h.meetHold.runs
  | finish => exact h.meetEnd
  | bad => exact h.listError _

theorem walkFor_over {n m : Nat} (h : (s.chan c).useNo ≠ m) : walkFor c m n s = s := by
  cases n with
  | zero => rfl
  | succ n => exact if_pos (by simp [h])

theorem State.endUse_useNo_ne (s : State) (c : Fin 4) (a : ChanCause) :
    (s.chan c).useNo < ((s.endUse c a).chan c).useNo := by
  have h := s.endUse_useNo c a c
  rw [if_pos rfl] at h
  exact h

/-- The walk goes on entry by entry, and stops with the end of the use. -/
theorem Alike.walkFor (h : Alike c s s') (n : Nat) :
    Runs c s s' (walkFor c (s.chan c).useNo n s) (walkFor c (s.chan c).useNo n s') := by
  induction n generalizing s s' with
  | zero => exact h.goes.runs
  | succ n ih =>
    unfold Machine.walkFor
    dsimp only
    rw [h.chan, h.listLineInside]
    split
    · exact h.goes.runs
    · split
      · exact h.listError _
      · split
        · exact h.listError _
        · split
          · exact h.goes.runs
          · split
            · exact h.listError _
            · rename_i l _ b _
              obtain ⟨v, v', g, ⟨ht, ht'⟩ | ⟨a, ht, ht'⟩⟩ :=
                h.takeEntry (parseListEntry (b.drop (16 * ((s.chan c).walk.entry % 4))))
              · rw [ht, ht']
                obtain ⟨-, -, huse, -, -⟩ := Chan.standing_fields g.left.own
                rw [← huse]
                exact g.andRuns (ih (g.alike h))
              · have hl : ((v.endUse c a).chan c).useNo ≠ (s.chan c).useNo := by
                  obtain ⟨-, -, huse, -, -⟩ := Chan.standing_fields g.left.own
                  exact ne_of_gt (huse ▸ v.endUse_useNo_ne c a)
                have hr : ((v'.endUse c a).chan c).useNo ≠ (s.chan c).useNo := by
                  obtain ⟨-, -, huse, -, -⟩ := Chan.standing_fields g.right.own
                  rw [h.chan] at huse
                  exact ne_of_gt (huse ▸ v'.endUse_useNo_ne c a)
                rw [ht, ht', walkFor_over hl, walkFor_over hr]
                exact g.ends a

theorem Alike.walk (h : Alike c s s') : Runs c s s' (s.walk c) (s'.walk c) := by
  unfold State.walk
  rw [h.chan]
  exact h.walkFor _

/-- A block-time event at a channel (R71). -/
theorem Alike.advanceChan (h : Alike c s s') : Runs c s s' (advanceChan s c) (advanceChan s' c) := by
  unfold Machine.advanceChan
  dsimp only
  rw [h.chan]
  split
  · exact h.goes.runs
  · split
    · exact Goes.ends h.goes .finish
    · have g0 := h.setChan (x := (s.chan c).movedOn) rfl
      have g := g0.trans ((g0.alike h).actMarkers ((s.chan c).movedOn.slot (s.chan c).i).marks)
      rw [g.chan]
      split
      · exact g.ends .finish
      · split
        · have gp := g.trans ((g.alike h).putChanState .playing .play)
          exact gp.andRuns (gp.alike h).walk
        · exact g.andRuns (g.alike h).walk

/-! ### What a run leaves -/

/-- A run in which the use has not ended. -/
theorem Runs.goes (r : Runs c s s' t t') (h : (t.chan c).useNo = (s.chan c).useNo) : Goes c s s' t t' := by
  obtain ⟨v, v', g, ⟨rfl, rfl⟩ | ⟨a, rfl, -⟩⟩ := r
  · exact g
  · obtain ⟨-, -, huse, -, -⟩ := Chan.standing_fields g.left.own
    have hmore := v.endUse_useNo_ne c a
    omega

/-- A run of a use that is followed by no other start, or that has not ended, leaves like records. -/
theorem Runs.chan (r : Runs c s s' t t')
    (hn : (s.chan c).noStarts ∨ (t.chan c).useNo = (s.chan c).useNo) : t'.chan c = t.chan c := by
  rcases hn with hn | hn
  · obtain ⟨v, v', g, ⟨rfl, rfl⟩ | ⟨a, rfl, rfl⟩⟩ := r
    · exact g.chan
    · obtain ⟨-, -, -, -, hstarts⟩ := Chan.standing_fields g.left.own
      obtain ⟨⟨hl, -⟩, -⟩ := v.endUse_ends c a (hstarts.mpr hn)
      obtain ⟨⟨hr, -⟩, -⟩ := v'.endUse_ends c a (by rw [g.chan]; exact hstarts.mpr hn)
      rw [hl, hr, g.chan]
  · exact (r.goes hn).chan

/-! ### The end of a use and the other channels (R73, R74, R67) -/

theorem State.fenceUp_kept (s : State) (h : (s.chan d).waiting = none) : s.fenceUp.chan d = s.chan d := by
  rw [State.fenceUp_eq]
  exact foldBegins_kept _ _ (.inr h)

theorem State.requestBegin_kept (s : State) (st : Start) (hd : d ≠ c) (h : (s.chan d).waiting = none) :
    (s.requestBegin c st).chan d = s.chan d := by
  rcases s.fence_cases with hup | ⟨hdown, hq⟩ | hwait
  · rw [State.requestBegin, if_pos hup]
    exact State.beginNow_chan_ne _ _ _ _ hd
  · have hkept := s.awaiting_chan_ne st hd
    rw [State.requestBegin_opens hdown hq, State.fenceUp_kept _ (by rw [hkept, h]), hkept]
  · rw [State.requestBegin_parks hwait, s.parked_chan_ne st hd]

/-- An end begins nothing on a channel on which nothing waits to begin. -/
theorem State.endUse_kept (s : State) (a : ChanCause) (hd : d ≠ c) (h : (s.chan d).waiting = none) :
    (s.endUse c a).chan d = s.chan d := by
  obtain ⟨-, -, hother, -⟩ := s.useClosed_spec c a
  rw [State.endUse_eq, State.checkFence_chan]
  generalize s.useClosed c a = v at hother
  rw [← hother d hd] at h ⊢
  unfold State.handout
  split
  · rename_i st _
    have hkept := v.handsOver_chan_ne st hd
    exact (State.requestBegin_kept (v.handsOver c st) st hd (by rw [hkept, h])).trans hkept
  · rfl

theorem advanceChan_kept (s : State) (hd : d ≠ c) (h : (s.chan d).waiting = none) : (advanceChan s c).chan d = s.chan d := by
  obtain ⟨v, _, g, ⟨ht, -⟩ | ⟨a, ht, -⟩⟩ := (Alike.refl c s).advanceChan
  · rw [ht, g.left.others d hd]
  · have hkept := g.left.others d hd
    rw [ht, State.endUse_kept v a hd (by rw [hkept, h]), hkept]

theorem advanceChan_useNo (s : State) (c d : Fin 4) : (s.chan d).useNo ≤ ((advanceChan s c).chan d).useNo := by
  obtain ⟨v, _, g, hend⟩ := (Alike.refl c s).advanceChan
  have huse : (v.chan d).useNo = (s.chan d).useNo := by
    by_cases hd : d = c
    · subst hd
      exact (Chan.standing_fields g.left.own).2.2.1
    · rw [g.left.others d hd]
  rw [← huse]
  rcases hend with ⟨ht, -⟩ | ⟨a, ht, -⟩
  · rw [ht]
  · rw [ht]
    exact le_trans (Nat.le_add_right _ _) (v.endUse_useNo c a d)

theorem Frame.regions_eq {l : List Part} (h : Frame l s t) (hl : Part.within [.regions] l = false) :
    t.path.allRegions = s.path.allRegions := by
  obtain ⟨h1, h2⟩ := h.same .regions hl
  simp only [MemPath.allRegions, h1, h2]

end Sys2Proof.Machine
end

section
/-! PROOFS. A block-time event at the channels (chapter 04). -/

namespace Sys2Proof.Machine

variable {s s' t t' u v w : State} {c d : Fin 4} {m : Marker} {ms : List Marker}

/-! ### A channel among the others at the event (R71) -/

theorem handleChan_kept (n : Nat) (s : State) (hd : d ≠ c) (h : (s.chan d).waiting = none) :
    (handleChan n s c).chan d = s.chan d := by
  have hstep := s.stepGains_chan (stepSet n c.castSucc) d
  exact (advanceChan_kept _ hd (by rw [hstep, h])).trans hstep

theorem handleChans_kept (n : Nat) (l : List (Fin 4)) (s : State) (hd : d ∉ l) (h : (s.chan d).waiting = none) :
    (l.foldl (handleChan n) s).chan d = s.chan d := by
  induction l generalizing s with
  | nil => rfl
  | cons c l ih =>
    obtain ⟨hdc, hdl⟩ : d ≠ c ∧ d ∉ l := by simpa using hd
    have hkept := handleChan_kept n s hdc h
    rw [List.foldl_cons, ih _ hdl (by rw [hkept, h]), hkept]

theorem Runs.waiting (r : Runs c s s' t t') (hn : (s.chan c).noStarts ∨ (t.chan c).useNo = (s.chan c).useNo) :
    (t.chan c).waiting = (s.chan c).waiting := by
  rcases hn with hn | hn
  · obtain ⟨v, _, g, hend⟩ := r
    obtain ⟨-, -, -, hwaiting, hstarts⟩ := Chan.standing_fields g.left.own
    rcases hend with ⟨rfl, -⟩ | ⟨a, rfl, -⟩
    · exact hwaiting
    · obtain ⟨⟨hl, -⟩, -⟩ := v.endUse_ends c a (hstarts.mpr hn)
      rw [hl]
      exact hwaiting
  · obtain ⟨-, -, -, hwaiting, -⟩ := Chan.standing_fields (r.goes hn).left.own
    exact hwaiting

/-- The event does to a channel what it does to the channel alone. -/
theorem State.blockTime_chan (hwait : (s.chan c).waiting = none)
    (hn : (s.chan c).noStarts ∨ ((advanceChan s c).chan c).useNo = (s.chan c).useNo) :
    s.blockTime.chan c = (advanceChan s c).chan c := by
  obtain ⟨l₁, l₂, hsplit⟩ := List.append_of_mem (List.mem_finRange c)
  have hnodup : (l₁ ++ c :: l₂).Nodup := hsplit ▸ List.nodup_finRange 4
  obtain ⟨-, hright, hdisjoint⟩ := List.nodup_append.mp hnodup
  have hleft : c ∉ l₁ := fun h => hdisjoint c h c List.mem_cons_self rfl
  have hafter : c ∉ l₂ := (List.nodup_cons.mp hright).1
  rw [State.blockTime, State.stepGains_chan, hsplit, List.foldl_append, List.foldl_cons]
  have hframe : Frame blockParts s (l₁.foldl (handleChan s.free) { s with free := s.free + 1 }) :=
    ((draw_frame s).wide rfl).trans (Frame.foldl _ (fun v d => (handleChan_frame s.free v d).wide rfl) _ _)
  have hbefore : (l₁.foldl (handleChan s.free) { s with free := s.free + 1 }).chan c = s.chan c :=
    handleChans_kept s.free l₁ _ hleft hwait
  generalize l₁.foldl (handleChan s.free) { s with free := s.free + 1 } = v at hframe hbefore
  have halike : Alike c s (v.stepGains (stepSet s.free c.castSucc)) :=
    ⟨(v.stepGains_chan _ c).trans hbefore,
      ((hframe.wide rfl).trans ((v.stepGains_frame _).wide (m := .breakIns :: blockParts) rfl)).regions_eq rfl⟩
  have hrun := halike.advanceChan
  have hown : (handleChan s.free v c).chan c = (advanceChan s c).chan c := hrun.chan hn
  rw [handleChans_kept s.free l₂ _ hafter, hown]
  rw [hown, hrun.waiting hn, hwait]

/-! ### The markers of the index passed (R71) -/

/-- A channel's record once markers have acted. -/
def Chan.passes (ch : Chan) (ms : List Marker) : Chan :=
  { ch with
    marksPassed := (fun n => min (n + 1) 65535)^[(ms.filter fun m => m != .hold).length] ch.marksPassed
    st := if .hold ∈ ms then .held else ch.st }

theorem Chan.passes_cons (ch : Chan) (m : Marker) (ms : List Marker) : (ch.passes [m]).passes ms = ch.passes (m :: ms) := by
  cases m with
  | mark tag entry => simp [Chan.passes]
  | hold => simp [Chan.passes]

theorem actMarker_frame_quiet (s : State) (c : Fin 4) (m : Marker) :
    Frame [.channels, .logQueue, .lostCount] s (actMarker c s m) := by
  cases m with
  | mark tag entry => exact ((s.putChan_frame c _).wide rfl).trans ((State.log_frame _ _ _ _ _).wide rfl)
  | hold => exact s.putChanState_frame _ _ _

theorem actMarker_chan (s : State) (c : Fin 4) (m : Marker) :
    (actMarker c s m).chan c = (s.chan c).passes [m] ∧ ∀ d, d ≠ c → (actMarker c s m).chan d = s.chan d := by
  refine ⟨?_, (((Alike.refl c s).actMarker m).left).others⟩
  cases m with
  | mark tag entry =>
    refine (State.putChan_chan s c _).trans ?_
    simp [Chan.passes, bump]
  | hold =>
    refine (State.putChan_chan s c _).trans ?_
    simp [Chan.passes]

theorem State.markRecords_congr (hown : (t.chan c).owner = (s.chan c).owner) (hprio : (t.chan c).prio = (s.chan c).prio)
    (hnow : t.now = s.now) (i : Int) (st : ChanState) (ms : List Marker) :
    t.markRecords c i st ms = s.markRecords c i st ms := by
  induction ms generalizing st with
  | nil => rfl
  | cons m ms ih => cases m <;> simp only [State.markRecords, State.record, hown, hprio, hnow, ih]

theorem actMarker_logNow (s : State) (c : Fin 4) (m : Marker) :
    (actMarker c s m).logNow = s.logged (s.markRecords c (s.chan c).i (s.chan c).st [m]) := by
  cases m with
  | mark tag entry =>
    have hput := s.putChan_frame c { s.chan c with marksPassed := bump (s.chan c).marksPassed }
    refine (State.log_after s _ hput rfl [] (by rw [hput.logNow rfl rfl, s.logged_nil]) _ _ _ _).trans ?_
    simp only [State.record]
    rfl
  | hold =>
    have hput := s.putChan_frame c { s.chan c with st := .held }
    refine (State.logChan_after (es := []) hput rfl (by rw [hput.logNow rfl rfl, s.logged_nil])).trans ?_
    simp only [State.putChan_chan]
    rfl

/-- The markers of an index act in walk order. -/
theorem actMarkers_spec (ms : List Marker) (s : State) (c : Fin 4) :
    (ms.foldl (actMarker c) s).chan c = (s.chan c).passes ms ∧
      (∀ d, d ≠ c → (ms.foldl (actMarker c) s).chan d = s.chan d) ∧
      Frame [.channels, .logQueue, .lostCount] s (ms.foldl (actMarker c) s) ∧
      (ms.foldl (actMarker c) s).logNow = s.logged (s.markRecords c (s.chan c).i (s.chan c).st ms) := by
  induction ms generalizing s with
  | nil => exact ⟨rfl, fun _ _ => rfl, Frame.refl _ s, (s.logged_nil).symm⟩
  | cons m ms ih =>
    obtain ⟨hown, hother⟩ := actMarker_chan s c m
    have hframe := actMarker_frame_quiet s c m
    have hlog := actMarker_logNow s c m
    rw [List.foldl_cons]
    generalize actMarker c s m = v at hown hother hframe hlog
    obtain ⟨iown, iother, iframe, ilog⟩ := ih v
    have hnow : v.now = s.now := hframe.same .timebase rfl
    refine ⟨by rw [iown, hown, Chan.passes_cons], fun d hd => by rw [iother d hd, hother d hd], hframe.trans iframe, ?_⟩
    rw [ilog, hframe.logged_append rfl _ _ hlog,
      State.markRecords_congr (s := s) (by rw [hown]; rfl) (by rw [hown]; rfl) hnow, hown]
    congr 1
    cases m with
    | mark tag entry => simp [State.markRecords, Chan.passes]
    | hold => simp [State.markRecords, Chan.passes]

/-! ### The window moves on (R71) -/

/-- The slot of an index that enters the window, by the walk and the end index (R63). -/
theorem Chan.freshState_eq (ch : Chan) (x : Int) : ch.freshState x =
    if x < 0 ∨ (ch.walk.st = .finished ∧ ∃ e, ch.endIdx = some e ∧ e ≤ x) ∨ (ch.walk.st = .stopped ∧ ch.walk.next ≤ x)
    then .silent else .empty := by
  unfold Chan.freshState
  by_cases hx : x < 0
  · rw [if_pos hx, if_pos (.inl hx)]
  · cases hw : ch.walk.st with
    | running => simp [hx]
    | stopped => simp [hx]
    | finished => cases he : ch.endIdx <;> simp [hx]

theorem Chan.movedOn_slot (ch : Chan) : ch.movedOn.slot ch.i = ch.slot ch.i := by
  have hne : slotNo (ch.i + 1 + 23) ≠ slotNo ch.i := fun h => by
    have := Fin.val_eq_of_eq h
    simp only [slotNo] at this
    omega
  exact Table.get_set_ne _ _ hne

theorem Chan.movedOn_eq (ch : Chan) : ch.movedOn = { ch with
    i := ch.i + 1
    window := ch.window.set ⟨((ch.i + 24) % 32).toNat, by omega⟩ ⟨some (ch.i + 24), ch.freshState (ch.i + 24), none, 0, [], []⟩ } := by
  have hx : ch.i + 1 + 23 = ch.i + 24 := by omega
  have hfresh : ({ ch with i := ch.i + 1 } : Chan).freshSlot (ch.i + 24) = ch.freshSlot (ch.i + 24) := rfl
  unfold Chan.movedOn
  simp only [hx, hfresh]
  rfl

/-- Channel `c` with its window moved on and the markers of the index passed done. -/
def State.marked (s : State) (c : Fin 4) : State :=
  ((s.chan c).movedOn.slot (s.chan c).i).marks.foldl (actMarker c) (s.setChan c (s.chan c).movedOn)

theorem advanceChan_live (s : State) (c : Fin 4) (hl : (s.chan c).st.live = true) (hi : (s.chan c).i < 2147483647) :
    advanceChan s c =
      if ((s.marked c).chan c).endIdx = some ((s.marked c).chan c).i then (s.marked c).endUse c .finish
      else if ((s.marked c).chan c).st = .priming && ((s.marked c).chan c).i = 0 then
        ((s.marked c).putChanState c .playing .play).walk c
      else (s.marked c).walk c := by
  unfold advanceChan
  simp only [hl, Bool.not_true, Bool.false_eq_true, if_false, maxIndex, not_le.mpr hi]
  rfl

/-- Settles O40: a channel's event is its own run, whatever the other channels do; the run by its branches. -/
theorem blockTimeAdvancesChannels : Obligations.BlockTimeAdvancesChannels := by
  rintro c s a rfl
  refine ⟨fun hwait hn => State.blockTime_chan hwait hn, advanceChan_idle s c, fun hl hi hn => ?_, fun hl hi => ?_⟩
  · rw [advanceChan_last s c hl hi]
    obtain ⟨hends, hlog⟩ := s.endUse_ends c .finish hn
    exact ⟨hends, s.endUse_frame c _, hlog⟩
  · have hmarks : ((s.chan c).movedOn.slot (s.chan c).i).marks = ((s.chan c).slot (s.chan c).i).marks := by
      rw [Chan.movedOn_slot]
    obtain ⟨hown, hother, hframe, hlog⟩ :=
      actMarkers_spec ((s.chan c).slot (s.chan c).i).marks (s.setChan c (s.chan c).movedOn) c
    rw [State.chan_setChan] at hown hlog
    have hset := s.setChan_frame c (s.chan c).movedOn
    have hall : Frame [.channels, .logQueue, .lostCount] s (s.marked c) := by
      rw [State.marked, hmarks]
      exact (hset.wide rfl).trans hframe
    have hlogs : (s.marked c).logNow = s.logged
        (s.markRecords c ((s.chan c).i + 1) (s.chan c).st ((s.chan c).slot (s.chan c).i).marks) := by
      have hrecords := State.markRecords_congr (s := s) (t := s.setChan c (s.chan c).movedOn) (c := c)
        (by rw [State.chan_setChan]; rfl) (by rw [State.chan_setChan]; rfl) rfl
      rw [State.marked, hmarks, hlog, hset.logged rfl, hrecords]
      rfl
    have hothers : ∀ d, d ≠ c → (s.marked c).chan d = s.chan d := fun d hd => by
      rw [State.marked, hmarks, hother d hd, State.chan_setChan_ne _ _ (Ne.symm hd)]
    have hrec : (s.marked c).chan c = (s.chan c).movedOn.passes ((s.chan c).slot (s.chan c).i).marks := by
      rw [State.marked, hmarks, hown]
    have hrun := advanceChan_live s c hl hi
    generalize s.marked c = u at hall hlogs hothers hrec hrun
    have hnow : u.now = s.now := hall.same .timebase rfl
    have hui : (u.chan c).i = (s.chan c).i + 1 := by rw [hrec, Chan.movedOn_eq]; rfl
    have huend : (u.chan c).endIdx = (s.chan c).endIdx := by rw [hrec, Chan.movedOn_eq]; rfl
    have hustarts : (s.chan c).noStarts → (u.chan c).noStarts := fun h => by
      rw [hrec, Chan.movedOn_eq]
      exact h
    have huown : (u.chan c).owner = (s.chan c).owner ∧ (u.chan c).prio = (s.chan c).prio := by
      rw [hrec, Chan.movedOn_eq]
      exact ⟨rfl, rfl⟩
    rw [hui, huend] at hrun
    refine ⟨u, _, rfl, ?_, hothers, hall, hlogs, fun he hn => ?_, fun he hp h0 => ?_, fun he hp => ?_⟩
    · rw [hrec, Chan.movedOn_eq, Chan.freshState_eq]
      rfl
    · rw [hrun, if_pos he]
      obtain ⟨hends, hlog⟩ := u.endUse_ends c .finish (hustarts hn)
      refine ⟨hends, u.endUse_frame c _, ?_⟩
      rw [hlog, hui]
      simp only [State.record, hnow]
      rfl
    · rw [hrun, if_neg he, if_pos (by simp [hp, h0])]
      refine ⟨u.putChanState c .playing .play, ?_, fun d hd => ?_, u.putChanState_frame c _ _, ?_, rfl⟩
      · exact State.putChan_chan u c _
      · exact ((Alike.refl c u).putChanState .playing .play).left.others d hd |>.trans (hothers d hd)
      · have hput := u.putChan_frame c { u.chan c with st := .playing }
        refine (State.logChan_after (es := []) hput rfl (by rw [hput.logNow rfl rfl, u.logged_nil])).trans ?_
        simp only [State.putChan_chan, hp, huown.1, huown.2, hui, h0, State.record, hnow]
        rfl
    · rw [hrun, if_neg he, if_neg (by simpa using hp)]

end Sys2Proof.Machine
end

section
/-! PROOFS. A block-time event at the sections: each takes one step, before or after the release of a channel that ends at the event
(chapter 05). -/

namespace Sys2Proof.Machine

variable {s t u v w : State} {c d : Fin 4} {k : Fin 24}

/-! ### One section's step (R88 to R90) -/

/-- Every channel ducks and ramps in both states alike. -/
def State.sameRamps (s t : State) : Prop :=
  ∀ d, (t.chan d).defaults = (s.chan d).defaults ∧ (t.chan d).use = (s.chan d).use

theorem State.sameRamps.refl (s : State) : s.sameRamps s := fun _ => ⟨rfl, rfl⟩

theorem State.sameRamps.trans (h : s.sameRamps t) (g : t.sameRamps u) : s.sameRamps u := fun d =>
  ⟨(g d).1.trans (h d).1, (g d).2.trans (h d).2⟩

theorem State.sameRamps.of_playout (h : t.playout = s.playout) : s.sameRamps t := fun _ => by
  simp only [State.chan, h, and_self]

theorem State.sameRamps.duck (h : s.sameRamps t) (d : Fin 4) : t.duck d = s.duck d ∧ t.delta d = s.delta d := by
  obtain ⟨hd, hu⟩ := h d
  simp only [State.duck, State.delta, hd, hu, and_self]

theorem State.stepped_congr (hb : t.brk k = s.brk k) (h : s.sameRamps t) : t.stepped k = s.stepped k := by
  simp only [State.stepped, hb, h.duck]

theorem State.releasedRec_congr (hb : t.brk k = s.brk k) (h : s.sameRamps t) : t.releasedRec c k = s.releasedRec c k := by
  obtain ⟨hd, hu⟩ := h c
  simp only [State.releasedRec, hb, hd, hu]

theorem stepSection_brk (s : State) (k j : Fin 24) :
    (stepSection s k).brk j = if j = k then s.stepped k else s.brk j := by
  by_cases h : j = k
  · subst h; simp [stepSection]
  · simp [stepSection, h, Ne.symm h]

theorem foldl_stepSection (l : List (Fin 24)) (hl : l.Nodup) (s : State) (k : Fin 24) :
    (l.foldl stepSection s).brk k = if k ∈ l then s.stepped k else s.brk k := by
  induction l generalizing s with
  | nil => rfl
  | cons j l ih =>
    obtain ⟨hj, hl⟩ := List.nodup_cons.mp hl
    rw [List.foldl_cons, ih hl, stepSection_brk]
    by_cases hk : k = j
    · subst hk
      simp [hj]
    · have hstep : (stepSection s j).stepped k = s.stepped k :=
        State.stepped_congr (by rw [stepSection_brk, if_neg hk]) (.of_playout rfl)
      simp [hk, hstep]

theorem State.stepGains_brk (s : State) (m : SecSet) (k : Fin 24) :
    (s.stepGains m).brk k = if has m k then s.stepped k else s.brk k := by
  rw [State.stepGains, foldl_stepSection _ (members_nodup m)]
  simp only [mem_members]

theorem has_stepSet (n : Nat) (i : Fin 5) (k : Fin 24) : has (stepSet n i) k = true ↔ Config.stepAt n k = i := by
  rw [stepSet, has_secSet, decide_eq_true_eq]

/-! ### One channel's event beside the sections (R71, R86) -/

/-- While its use goes on, a channel's event leaves the sections and all ramps as they are. -/
theorem advanceChan_quiet (h : ((advanceChan s c).chan c).useNo = (s.chan c).useNo) :
    (advanceChan s c).mixer = s.mixer ∧ s.sameRamps (advanceChan s c) := by
  have g := ((Alike.refl c s).advanceChan.goes h).left
  refine ⟨g.mixer, fun d => ?_⟩
  by_cases hd : d = c
  · subst hd
    obtain ⟨hdef, huse, -⟩ := Chan.standing_fields g.own
    exact ⟨hdef, huse⟩
  · rw [g.others d hd]
    exact ⟨rfl, rfl⟩

/-- A use that ends at the event, followed by no other start, is released from every section. -/
theorem advanceChan_releases (hn : (s.chan c).noStarts) (h : ((advanceChan s c).chan c).useNo ≠ (s.chan c).useNo) :
    (∀ k, (advanceChan s c).brk k = s.releasedRec c k) ∧ s.sameRamps (advanceChan s c) := by
  obtain ⟨v, _, g, ⟨ht, -⟩ | ⟨a, ht, -⟩⟩ := (Alike.refl c s).advanceChan
  · rw [ht] at h
    exact absurd (Chan.standing_fields g.left.own).2.2.1 h
  · obtain ⟨hdef, huse, -, -, hstarts⟩ := Chan.standing_fields g.left.own
    obtain ⟨⟨hown, hother, hbrk, -, -⟩, -⟩ := v.endUse_ends c a (hstarts.mpr hn)
    have hplays : s.sameRamps v := fun d => by
      by_cases hd : d = c
      · subst hd; exact ⟨hdef, huse⟩
      · rw [g.left.others d hd]; exact ⟨rfl, rfl⟩
    rw [ht]
    refine ⟨fun k => ?_, hplays.trans fun d => ?_⟩
    · rw [hbrk, State.releasedRec_congr (by rw [State.brk, g.left.mixer]; rfl) hplays]
    · by_cases hd : d = c
      · rw [hd, hown]; exact ⟨rfl, rfl⟩
      · rw [hother d hd]; exact ⟨rfl, rfl⟩

/-! ### The channels one after another (R91, log entry 7) -/

theorem handleChan_useNo (n : Nat) (s : State) (c d : Fin 4) :
    (s.chan d).useNo ≤ ((handleChan n s c).chan d).useNo := by
  have h := advanceChan_useNo (s.stepGains (stepSet n c.castSucc)) c d
  rwa [State.stepGains_chan] at h

theorem handleChans_useNo (n : Nat) (l : List (Fin 4)) (s : State) (d : Fin 4) :
    (s.chan d).useNo ≤ ((l.foldl (handleChan n) s).chan d).useNo := by
  induction l generalizing s with
  | nil => exact le_refl _
  | cons c l ih => exact (handleChan_useNo n s c d).trans (ih _)

/-- A channel that goes on: the sections of its turn have stepped, and nothing else of them has changed. -/
theorem handleChan_quiet (n : Nat) (s : State) (h : ((handleChan n s c).chan c).useNo = (s.chan c).useNo) (k : Fin 24) :
    (handleChan n s c).brk k = (if Config.stepAt n k = c.castSucc then s.stepped k else s.brk k) ∧
      s.sameRamps (handleChan n s c) := by
  have hplay := s.stepGains_playout (stepSet n c.castSucc)
  have hstep := s.stepGains_brk (stepSet n c.castSucc) k
  obtain ⟨hmix, hramps⟩ := advanceChan_quiet (s := s.stepGains (stepSet n c.castSucc)) (c := c)
    (by rw [State.stepGains_chan]; exact h)
  refine ⟨?_, (State.sameRamps.of_playout hplay).trans hramps⟩
  have hbrk : (handleChan n s c).brk k = (s.stepGains (stepSet n c.castSucc)).brk k := by
    rw [State.brk, handleChan, hmix]
    rfl
  rw [hbrk, hstep]
  simp only [has_stepSet]

/-- Channels that all go on: the sections of their turns have stepped once. -/
theorem handleChans_quiet (n : Nat) (l : List (Fin 4)) (hl : l.Nodup) (s : State)
    (h : ∀ d, ((l.foldl (handleChan n) s).chan d).useNo = (s.chan d).useNo) (k : Fin 24) :
    (l.foldl (handleChan n) s).brk k = (if ∃ c ∈ l, Config.stepAt n k = c.castSucc then s.stepped k else s.brk k) ∧
      s.sameRamps (l.foldl (handleChan n) s) := by
  induction l generalizing s with
  | nil => exact ⟨by simp, .refl s⟩
  | cons c l ih =>
    obtain ⟨hc, hl⟩ := List.nodup_cons.mp hl
    rw [List.foldl_cons] at h ⊢
    have hfirst (d : Fin 4) : ((handleChan n s c).chan d).useNo = (s.chan d).useNo := by
      have h1 := handleChan_useNo n s c d
      have h2 := handleChans_useNo n l (handleChan n s c) d
      have h3 := h d
      omega
    obtain ⟨hbrk, hramps⟩ := handleChan_quiet n s (hfirst c) k
    obtain ⟨ibrk, iramps⟩ := ih hl (handleChan n s c) fun d => (h d).trans (hfirst d).symm
    refine ⟨?_, hramps.trans iramps⟩
    rw [ibrk]
    by_cases hk : Config.stepAt n k = c.castSucc
    · have hrest : ¬∃ e ∈ l, Config.stepAt n k = e.castSucc := by
        rintro ⟨e, he, hke⟩
        exact hc (Fin.castSucc_injective 4 (hk.symm.trans hke) ▸ he)
      rw [if_neg hrest, hbrk, if_pos hk, if_pos ⟨c, List.mem_cons_self, hk⟩]
    · have hkept : (handleChan n s c).brk k = s.brk k := by rw [hbrk, if_neg hk]
      rw [State.stepped_congr hkept hramps, hkept]
      have hiff : (∃ e ∈ c :: l, Config.stepAt n k = e.castSucc) ↔ ∃ e ∈ l, Config.stepAt n k = e.castSucc := by
        simp [hk]
      simp only [hiff]

/-- A section steps at some channel's turn, or after all of them. -/
theorem stepAt_cases (n : Nat) (k : Fin 24) :
    (∃ c : Fin 4, Config.stepAt n k = c.castSucc) ∨ Config.stepAt n k = 4 := by
  generalize Config.stepAt n k = i
  induction i using Fin.lastCases with
  | last => exact .inr rfl
  | cast c => exact .inl ⟨c, rfl⟩

theorem castSucc_ne_last (c : Fin 4) : c.castSucc ≠ (4 : Fin 5) := (Fin.castSucc_lt_last c).ne

/-- The event where no use ends. -/
theorem State.blockTime_quiet (h : ∀ c, (s.blockTime.chan c).useNo = (s.chan c).useNo) (k : Fin 24) :
    s.blockTime.brk k = s.stepped k := by
  obtain ⟨hbrk, hramps⟩ := handleChans_quiet s.free (List.finRange 4) (List.nodup_finRange 4) { s with free := s.free + 1 }
    (fun d => by have hd := h d; rwa [State.blockTime, State.stepGains_chan] at hd) k
  rw [State.blockTime, State.stepGains_brk]
  have hsame (k : Fin 24) : ({ s with free := s.free + 1 } : State).stepped k = s.stepped k := rfl
  rcases stepAt_cases s.free k with ⟨c, hc⟩ | hlast
  · rw [if_neg (by rw [has_stepSet, hc]; exact castSucc_ne_last c), hbrk, if_pos ⟨c, List.mem_finRange c, hc⟩, hsame]
  · have hno : ¬∃ c ∈ List.finRange 4, Config.stepAt s.free k = c.castSucc := by
      rintro ⟨c, -, hc⟩
      exact castSucc_ne_last c (hc.symm.trans hlast)
    rw [if_neg hno] at hbrk
    rw [if_pos ((has_stepSet _ _ _).mpr hlast), State.stepped_congr hbrk hramps, hsame]

/-- The turn of a channel whose use ends, followed by no other start. -/
theorem handleChan_releases (n : Nat) (s : State) (hn : (s.chan c).noStarts)
    (h : ((handleChan n s c).chan c).useNo ≠ (s.chan c).useNo) (k : Fin 24) :
    (handleChan n s c).brk k =
        (if Config.stepAt n k = c.castSucc then (stepSection s k).releasedRec c k else s.releasedRec c k) ∧
      s.sameRamps (handleChan n s c) := by
  have hplay := s.stepGains_playout (stepSet n c.castSucc)
  have hstep := s.stepGains_brk (stepSet n c.castSucc) k
  obtain ⟨hbrk, hramps⟩ := advanceChan_releases (s := s.stepGains (stepSet n c.castSucc)) (c := c)
    (by rw [State.stepGains_chan]; exact hn) (by rw [State.stepGains_chan]; exact h)
  refine ⟨(hbrk k).trans ?_, (State.sameRamps.of_playout hplay).trans hramps⟩
  simp only [has_stepSet] at hstep
  by_cases hk : Config.stepAt n k = c.castSucc
  · rw [if_pos hk] at hstep ⊢
    exact State.releasedRec_congr (by rw [hstep, stepSection_brk, if_pos rfl]) (.of_playout hplay)
  · rw [if_neg hk] at hstep ⊢
    exact State.releasedRec_congr hstep (.of_playout hplay)

/-- Channels that go on leave the records of the others. -/
theorem handleChans_others (n : Nat) (l : List (Fin 4)) (s : State) (hc : c ∉ l)
    (h : ∀ d, d ≠ c → ((l.foldl (handleChan n) s).chan d).useNo = (s.chan d).useNo) :
    (l.foldl (handleChan n) s).chan c = s.chan c := by
  induction l generalizing s with
  | nil => rfl
  | cons e l ih =>
    obtain ⟨hce, hcl⟩ : c ≠ e ∧ c ∉ l := by simpa using hc
    rw [List.foldl_cons] at h ⊢
    have hfirst (d : Fin 4) (hd : d ≠ c) : ((handleChan n s e).chan d).useNo = (s.chan d).useNo := by
      have h1 := handleChan_useNo n s e d
      have h2 := handleChans_useNo n l (handleChan n s e) d
      have h3 := h d hd
      omega
    have hstep := s.stepGains_chan (stepSet n e.castSucc)
    have hgoes := ((Alike.refl e (s.stepGains (stepSet n e.castSucc))).advanceChan.goes
      (by rw [hstep]; exact hfirst e (Ne.symm hce))).left
    have hkept : (handleChan n s e).chan c = s.chan c := (hgoes.others c hce).trans (hstep c)
    rw [ih (handleChan n s e) hcl fun d hd => (h d hd).trans (hfirst d hd).symm, hkept]

/-- Sections of the turns from a channel's end on step after its release, the others before it. -/
theorem State.blockTime_releases (hn : (s.chan c).noStarts) (hc : (s.blockTime.chan c).useNo ≠ (s.chan c).useNo)
    (h : ∀ d, d ≠ c → (s.blockTime.chan d).useNo = (s.chan d).useNo) (k : Fin 24) :
    s.blockTime.brk k = (stepSection s k).releasedRec c k ∨ s.blockTime.brk k = (stepSection (s.release c) k).brk k := by
  obtain ⟨l₁, l₂, hsplit⟩ := List.append_of_mem (List.mem_finRange c)
  have hnodup : (l₁ ++ c :: l₂).Nodup := hsplit ▸ List.nodup_finRange 4
  obtain ⟨hl₁, hright, hdisjoint⟩ := List.nodup_append.mp hnodup
  obtain ⟨hc₂, hl₂⟩ := List.nodup_cons.mp hright
  have hleft : c ∉ l₁ := fun h => hdisjoint c h c List.mem_cons_self rfl
  simp only [State.blockTime, State.stepGains_chan, State.stepGains_brk, hsplit, List.foldl_append, List.foldl_cons] at hc h ⊢
  have hsource : (∀ d, ({ s with free := s.free + 1 } : State).chan d = s.chan d) ∧
      ({ s with free := s.free + 1 } : State).brk k = s.brk k := ⟨fun _ => rfl, rfl⟩
  have hsame : s.sameRamps { s with free := s.free + 1 } := .of_playout rfl
  generalize ({ s with free := s.free + 1 } : State) = s₀ at hc h hsource hsame ⊢
  have hmono₁ := handleChans_useNo s.free l₁ s₀
  have hquiet₁ := handleChans_quiet s.free l₁ hl₁ s₀
  have hothers₁ := handleChans_others s.free l₁ s₀ hleft
  generalize l₁.foldl (handleChan s.free) s₀ = v at hc h hmono₁ hquiet₁ hothers₁ ⊢
  have hmono₂ := handleChan_useNo s.free v c
  have hends := handleChan_releases (c := c) s.free v
  generalize handleChan s.free v c = w at hc h hmono₂ hends ⊢
  have hmono₃ := handleChans_useNo s.free l₂ w
  have hquiet₃ := handleChans_quiet s.free l₂ hl₂ w
  have hothers₃ := handleChans_others s.free l₂ w hc₂
  generalize l₂.foldl (handleChan s.free) w = z at hc h hmono₃ hquiet₃ hothers₃ ⊢
  have huse (d : Fin 4) (hd : d ≠ c) : (v.chan d).useNo = (s₀.chan d).useNo ∧ (z.chan d).useNo = (w.chan d).useNo := by
    have h1 := hmono₁ d
    have h2 := hmono₂ d
    have h3 := hmono₃ d
    have h4 := h d hd
    rw [← hsource.1 d] at h4
    omega
  have hvc : v.chan c = s₀.chan c := hothers₁ fun d hd => (huse d hd).1
  have hzc : z.chan c = w.chan c := hothers₃ fun d hd => (huse d hd).2
  obtain ⟨hbrk₁, hramps₁⟩ := hquiet₁ (fun d => by
    by_cases hd : d = c
    · rw [hd, hvc]
    · exact (huse d hd).1) k
  obtain ⟨hbrk₃, hramps₃⟩ := hquiet₃ (fun d => by
    by_cases hd : d = c
    · rw [hd, hzc]
    · exact (huse d hd).2) k
  obtain ⟨hbrk₂, hramps₂⟩ := hends (by rw [hvc, hsource.1]; exact hn) (by rw [← hzc, hvc, hsource.1]; exact hc) k
  have hbefore : s.sameRamps v := hsame.trans hramps₁
  have hafter : s.sameRamps w := hbefore.trans hramps₂
  have hstepped : s₀.stepped k = s.stepped k := State.stepped_congr hsource.2 hsame
  have hlate (hw : w.brk k = s.releasedRec c k) {y : State} (hy : y.brk k = w.brk k) (hr : w.sameRamps y) :
      y.stepped k = (stepSection (s.release c) k).brk k := by
    obtain ⟨hplay, -, -, -, -, hbrk⟩ := s.release_spec c
    have hback : (s.release c).sameRamps s := .of_playout hplay.symm
    rw [stepSection_brk, if_pos rfl]
    exact State.stepped_congr (by rw [hy, hw, hbrk]) (hback.trans (hafter.trans hr))
  rcases stepAt_cases s.free k with ⟨e, he⟩ | hlast
  · have hturn (l : List (Fin 4)) : (∃ f ∈ l, Config.stepAt s.free k = f.castSucc) ↔ e ∈ l :=
      ⟨fun ⟨f, hf, hk⟩ => Fin.castSucc_injective 4 (he.symm.trans hk) ▸ hf, fun hl => ⟨e, hl, he⟩⟩
    have hcturn : Config.stepAt s.free k = c.castSucc ↔ e = c := by
      rw [he]; exact (Fin.castSucc_injective 4).eq_iff
    simp only [hturn, hcturn] at hbrk₁ hbrk₂ hbrk₃
    have hend : (if has (stepSet s.free 4) k then z.stepped k else z.brk k) = z.brk k :=
      if_neg (by rw [has_stepSet, he]; exact castSucc_ne_last e)
    rw [hend, hbrk₃]
    have hin : e ∈ l₁ ∨ e = c ∨ e ∈ l₂ := by
      have := List.mem_finRange e
      rw [hsplit] at this
      simpa using this
    rcases hin with hin | rfl | hin
    · have hec : e ≠ c := fun hec => hleft (hec ▸ hin)
      have he₂ : e ∉ l₂ := fun h => hdisjoint e hin e (List.mem_cons_of_mem c h) rfl
      rw [if_pos hin, hstepped] at hbrk₁
      rw [if_neg he₂, hbrk₂, if_neg hec]
      exact .inl (State.releasedRec_congr (by rw [hbrk₁, stepSection_brk, if_pos rfl]) hbefore)
    · rw [if_neg hleft, hsource.2] at hbrk₁
      rw [if_neg hc₂, hbrk₂, if_pos rfl]
      refine .inl (State.releasedRec_congr ?_ hbefore)
      rw [stepSection_brk, stepSection_brk, if_pos rfl, if_pos rfl, State.stepped_congr hbrk₁ hbefore]
    · have hec : e ≠ c := fun hec => hc₂ (hec ▸ hin)
      have he₁ : e ∉ l₁ := fun h => hdisjoint e h e (List.mem_cons_of_mem c hin) rfl
      rw [if_neg he₁, hsource.2] at hbrk₁
      rw [if_neg hec, State.releasedRec_congr hbrk₁ hbefore] at hbrk₂
      rw [if_pos hin]
      exact .inr (hlate hbrk₂ rfl (.refl w))
  · have hturn (l : List (Fin 4)) : ¬∃ f ∈ l, Config.stepAt s.free k = f.castSucc := fun ⟨f, _, hk⟩ =>
      castSucc_ne_last f (hk.symm.trans hlast)
    rw [if_neg (hturn l₁), hsource.2] at hbrk₁
    rw [if_neg fun hk => castSucc_ne_last c (hk.symm.trans hlast), State.releasedRec_congr hbrk₁ hbefore] at hbrk₂
    rw [if_neg (hturn l₂)] at hbrk₃
    rw [if_pos ((has_stepSet _ _ _).mpr hlast)]
    exact .inr (hlate hbrk₂ hbrk₃ hramps₃)

/-! ### Ramps (R82, R88, R90) -/

theorem iterate_down (d step n x : Nat) (h : d ≤ x) : (fun g => max d (g - step))^[n] x = max d (x - n * step) := by
  induction n with
  | zero => simp [h]
  | succ n ih =>
    rw [Function.iterate_succ_apply', ih, Nat.succ_mul]
    omega

theorem iterate_up (e step n x : Nat) (h : x ≤ e) : (fun g => min e (g + step))^[n] x = min e (x + n * step) := by
  induction n with
  | zero => simp [h]
  | succ n ih =>
    rw [Function.iterate_succ_apply', ih, Nat.succ_mul]
    omega

/-- A ramp's steps cover its whole height within its length. -/
theorem rampStep_covers {d ramp : Nat} (hr : 1 ≤ ramp) : 32768 - d ≤ ramp * rampStep d ramp := by
  unfold rampStep
  split
  · omega
  · have hdiv := Nat.div_add_mod (32768 - d + (ramp - 1)) ramp
    have hmod := Nat.mod_lt (32768 - d + (ramp - 1)) hr
    omega

theorem rampStep_eq {d ramp : Nat} (hr : 1 ≤ ramp) :
    rampStep d ramp = if d = 32768 then 1 else (32768 - d + ramp - 1) / ramp := by
  rw [rampStep, Nat.add_sub_assoc hr]

/-- Settles O39: the channels' turns one after another, with the sections that step before each. -/
theorem blockTimeStepsSections : Obligations.BlockTimeStepsSections := by
  refine ⟨fun s h k => ?_, fun s c hn hc h k => State.blockTime_releases hn hc h k, fun s c => ?_, fun k s => ?_, fun d ramp hd hr => ?_⟩
  · rw [State.blockTime_quiet h, stepSection_brk, if_pos rfl]
  · obtain ⟨-, -, -, -, -, hbrk⟩ := s.release_spec c
    exact ⟨hbrk, s.release_frame c⟩
  · have hself : (stepSection s k).brk k = s.stepped k := by rw [stepSection_brk, if_pos rfl]
    rw [hself]
    refine ⟨fun c hst ha => ?_, fun hst => ?_, fun hst => ?_, fun c d step g hst ha hd hle hr hstep hg => ?_, fun j hj => ?_,
      s.putBrk_frame k _⟩
    · simp only [State.stepped, hst, ha, State.duck]
    · cases ha : (s.brk k).active <;> simp only [State.stepped, hst, ha]
    · cases ha : (s.brk k).active <;> simp only [State.stepped, hst, ha]
    · rw [← rampStep_eq hr] at hstep
      subst hd hstep hg
      simp only [State.stepped, hst, ha, moveGain, State.duck, State.delta] <;> rfl
    · rw [stepSection_brk, if_neg hj]
  · have hcover := rampStep_covers (d := d) hr
    refine ⟨⟨ramp, le_refl _, ?_⟩, ramp, le_refl _, ?_⟩
    · rw [iterate_down _ _ _ _ hd]
      omega
    · rw [iterate_up _ _ _ _ hd]
      omega

end Sys2Proof.Machine
end

section
/-! PROOFS. The list walk, entry by entry (chapter 04). -/

namespace Sys2Proof.Machine

variable {s t u v : State} {c d : Fin 4} {ch : Chan} {m : Marker} {x : ListEntry} {b : List Byte} {l : ListLine}

/-! ### The entry under the walk (R59, R60, R62) -/

theorem Chan.walkReady_iff (ch : Chan) : ch.walkReady = true ↔
    ch.st.live = true ∧ ch.walk.st = .running ∧ ch.walk.next ≤ ch.i + 23 := by
  simp [Chan.walkReady, and_assoc]

/-- The walk of channel `c` finds the entry `x` in its list buffer. -/
structure State.finds (s : State) (c : Fin 4) (x : ListEntry) : Prop where
  ready : (s.chan c).walkReady = true
  inList : (s.chan c).walk.entry < 256
  inside : s.listLineInside (s.chan c).listAddr ((s.chan c).walk.entry / 4) = true
  found : ∃ l b, (s.chan c).bufLine ((s.chan c).walk.entry / 4) = some l ∧ l.bytes = some b ∧
    x = parseListEntry (b.drop (16 * ((s.chan c).walk.entry % 4)))

theorem State.finds.walk_eq (h : s.finds c x) : s.walk c =
    if ((s.takeEntry c x).chan c).useNo = (s.chan c).useNo then (s.takeEntry c x).walk c else s.takeEntry c x := by
  obtain ⟨l, b, hl, hb, rfl⟩ := h.found
  rw [s.walk_unfold c h.ready, if_neg (not_le.mpr h.inList), if_neg (by rw [h.inside]; decide)]
  simp only [hl, hb]

/-- An entry taken that does not end the use. -/
theorem State.finds.goes (h : s.finds c x) (g : s.plays (s.takeEntry c x) c) : s.walk c = (s.takeEntry c x).walk c := by
  obtain ⟨-, -, huse, -, -⟩ := Chan.standing_fields g.own
  rw [h.walk_eq, if_pos huse]

/-- An entry that ends the use. -/
theorem State.finds.ends (h : s.finds c x) (g : s.plays v c) {a : ChanCause} (ht : s.takeEntry c x = v.endUse c a) :
    s.walk c = v.endUse c a := by
  obtain ⟨-, -, huse, -, -⟩ := Chan.standing_fields g.own
  have hmore := v.endUse_useNo_ne c a
  rw [h.walk_eq, ht, if_neg (by omega)]

theorem State.finds.listError (h : s.finds c x) {r : ListReason} (ht : s.takeEntry c x = s.listError c r) :
    s.walk c = s.listError c r := h.ends (s.plays_log c _ _ _ _) ht

/-! ### To the next entry (R59, R60) -/

theorem State.nextEntry_plays (s : State) (c : Fin 4) : s.plays (s.nextEntry c) c := (Alike.refl c s).nextEntry.left

theorem State.nextEntry_same (h : (s.chan c).walk.entry = 255 ∨ (s.chan c).walk.entry % 4 ≠ 3) :
    (s.nextEntry c).chan c =
      { s.chan c with walk := { (s.chan c).walk with entry := (s.chan c).walk.entry + 1, block := 0 } } := by
  unfold State.nextEntry
  dsimp only
  rw [if_neg (by simp only [Bool.and_eq_true, decide_eq_true_eq]; omega), State.chan_setChan]

/-- A list line is requested that is not requested yet. -/
theorem State.requestLine_chan (s : State) (c : Fin 4) (k : Nat) : (s.requestLine c k).chan c = { s.chan c with
    requested := if k ≤ 63 && s.listLineInside (s.chan c).listAddr k && !(s.chan c).requested.contains k
      then (s.chan c).requested ++ [k] else (s.chan c).requested } := by
  unfold State.requestLine
  dsimp only
  split
  · rw [State.chan_setChan]
  · rfl

theorem Chan.leftLine (o : Option ListLine) (k : Nat) :
    (match o with | some m => if m.k = k then none else some m | none => none) =
      if o.map ListLine.k = some k then none else o := by
  cases o <;> simp

theorem State.nextEntry_line {k : Nat} (h : (s.chan c).walk.entry + 1 = 4 * k) (hk : k < 64) :
    (s.nextEntry c).chan c = { s.chan c with
      walk := { (s.chan c).walk with entry := (s.chan c).walk.entry + 1, block := 0 }
      curLine := (s.chan c).bufLine k
      nextLine := if (s.chan c).nextLine.map ListLine.k = some k then none else (s.chan c).nextLine
      requested := if k + 1 ≤ 63 && s.listLineInside (s.chan c).listAddr (k + 1) && !(s.chan c).requested.contains (k + 1)
        then (s.chan c).requested ++ [k + 1] else (s.chan c).requested } := by
  have hdiv : ((s.chan c).walk.entry + 1) / 4 = k := by omega
  unfold State.nextEntry
  dsimp only
  rw [if_pos (by simp only [Bool.and_eq_true, decide_eq_true_eq]; omega), hdiv]
  unfold State.enterLine
  dsimp only
  rw [State.requestLine_chan, State.chan_setChan, State.chan_setChan, ← Chan.leftLine]
  rfl

/-! ### CLIP (R59) -/

/-- The next index assigned the block at `src`. -/
def Chan.assigned (ch : Chan) (src : Nat) : Chan :=
  { ch with
    window := if (ch.slot ch.walk.next).idx = some ch.walk.next ∧ (ch.slot ch.walk.next).st = .empty then
        ch.window.set (slotNo ch.walk.next) { ch.slot ch.walk.next with src := some src }
      else ch.window
    walk := { ch.walk with next := ch.walk.next + 1, pass := true, block := ch.walk.block + 1 } }

theorem State.assignBlock_eq (s : State) (c : Fin 4) (a n : Nat) : s.assignBlock c a n =
    if (s.chan c).walk.block + 1 < n then s.setChan c ((s.chan c).assigned a)
    else (s.setChan c ((s.chan c).assigned a)).nextEntry c := by
  unfold State.assignBlock Chan.assigned
  simp only [Bool.and_eq_true, decide_eq_true_eq]

theorem State.clipInside_iff (s : State) (a n : Nat) : s.clipInside a n = true ↔
    a % 64 = 0 ∧ ∃ r, s.path.clipRegion a = some r ∧ a + 192 * n ≤ r.base + r.size := by
  unfold State.clipInside
  cases s.path.clipRegion a <;> simp

theorem State.takeEntry_clip (s : State) (c : Fin 4) (a n : Nat) : s.takeEntry c (.clip a n) =
    if n = 0 then s.nextEntry c
    else if s.clipInside a n then s.assignBlock c (a + 192 * (s.chan c).walk.block) n
    else s.listError c .clipOutside := rfl

/-! ### MARK and HOLD (R59, R71) -/

theorem State.attachMarker_plays (s : State) (c : Fin 4) (m : Marker) : s.plays (s.attachMarker c m) c :=
  ((Alike.refl c s).attachMarker m).left

/-- A marker kept in the slot of the index below the next. -/
def Chan.attached (ch : Chan) (m : Marker) : Chan :=
  let sl := ch.slot (ch.walk.next - 1)
  { ch with window := ch.window.set (slotNo (ch.walk.next - 1)) { sl with marks := sl.marks ++ [m] } }

theorem State.attachMarker_ahead (m : Marker) (h : (s.chan c).i ≤ (s.chan c).walk.next - 1) :
    s.attachMarker c m = s.setChan c ((s.chan c).attached m) := if_pos h

theorem State.attachMarker_passed (m : Marker) (h : (s.chan c).walk.next - 1 < (s.chan c).i) :
    s.attachMarker c m = actMarker c s m := if_neg (not_le.mpr h)

theorem State.attachMarker_frame_quiet (s : State) (c : Fin 4) (m : Marker) :
    Frame [.channels, .logQueue, .lostCount] s (s.attachMarker c m) := by
  by_cases h : (s.chan c).i ≤ (s.chan c).walk.next - 1
  · rw [State.attachMarker_ahead m h]
    exact (s.setChan_frame c _).wide rfl
  · rw [State.attachMarker_passed m (not_le.mp h)]
    exact actMarker_frame_quiet s c m

/-- Where the marker of an entry is kept, or acts. -/
theorem State.attachMarker_spec (s : State) (c : Fin 4) (m : Marker) :
    ((s.chan c).i ≤ (s.chan c).walk.next - 1 →
      (s.attachMarker c m).logNow = s.logNow ∧ (s.attachMarker c m).chan c = (s.chan c).attached m) ∧
    ((s.chan c).walk.next - 1 < (s.chan c).i →
      (s.attachMarker c m).logNow = s.logged (s.markRecords c (s.chan c).i (s.chan c).st [m]) ∧
      (s.attachMarker c m).chan c = (if m = .hold then { s.chan c with st := .held }
        else { s.chan c with marksPassed := min ((s.chan c).marksPassed + 1) 65535 })) := by
  refine ⟨fun h => ?_, fun h => ?_⟩
  · rw [State.attachMarker_ahead m h]
    exact ⟨(s.setChan_frame c _).logNow rfl rfl, State.chan_setChan _ _ _⟩
  · rw [State.attachMarker_passed m h]
    refine ⟨actMarker_logNow s c m, (actMarker_chan s c m).1.trans ?_⟩
    cases m <;> simp [Chan.passes]

theorem Chan.silenceFrom_eq (ch : Chan) (lo : Int) (f : Slot → Bool) (j : Fin 32) : (ch.silenceFrom lo f).get j =
    if (∃ y, (ch.window.get j).idx = some y ∧ lo ≤ y) ∧ f (ch.window.get j) = true then
      { ch.window.get j with st := .silent, src := none, presented := 0, lines := [] }
    else ch.window.get j := by
  unfold Chan.silenceFrom
  rw [Table.get_ofFn]
  cases h : (ch.window.get j).idx <;> simp [h]

/-- The walk stopped at a HOLD. -/
def Chan.stopped (ch : Chan) : Chan :=
  { ch with
    walk := { ch.walk with st := .stopped }
    window := Table.ofFn fun j =>
      let sl := ch.window.get j
      if (∃ y, sl.idx = some y ∧ ch.walk.next ≤ y ∧ ch.i ≤ y) ∧ sl.st = .empty ∧ sl.src = none then
        { sl with st := .silent, presented := 0, lines := [] } else sl }

theorem State.meetHold_eq (s : State) (c : Fin 4) : s.meetHold c =
    ((s.attachMarker c .hold).nextEntry c).setChan c (((s.attachMarker c .hold).nextEntry c).chan c).stopped := by
  unfold State.meetHold
  dsimp only
  generalize (s.attachMarker c .hold).nextEntry c = v
  congr 1
  unfold Chan.stopped
  congr 1
  refine Table.ext_get fun j => ?_
  rw [Chan.silenceFrom_eq, Table.get_ofFn]
  dsimp only
  simp only [Slot.unassignedEmpty, Bool.and_eq_true, decide_eq_true_eq, Option.isNone_iff_eq_none, max_le_iff]
  split
  · rename_i h
    rw [← h.2.2]
  · rfl

/-! ### END (R61) -/

/-- The list from its first entry again. -/
def Chan.again (ch : Chan) : Chan :=
  { ch with
    repeats := if ch.repeats = 15 then 15 else ch.repeats - 1
    walk := { ch.walk with entry := 0, block := 0, pass := false } }

/-- The walk finished at the last END. -/
def Chan.finished (ch : Chan) : Chan :=
  { ch with
    endIdx := some ch.walk.next
    walk := { ch.walk with st := .finished }
    window := Table.ofFn fun j =>
      let sl := ch.window.get j
      if ∃ y, sl.idx = some y ∧ ch.walk.next ≤ y then
        { sl with st := .silent, src := none, presented := 0, lines := [] } else sl }

theorem State.meetEnd_again (hp : (s.chan c).walk.pass = true) (h1 : 1 ≤ (s.chan c).repeats) :
    ((s.meetEnd c).chan c = (s.chan c).again) ∧ Frame [.channels] s (s.meetEnd c) ∧ s.plays (s.meetEnd c) c := by
  unfold State.meetEnd
  dsimp only
  by_cases h15 : (s.chan c).repeats = 15
  · rw [if_pos (by simp [hp, h15])]
    refine ⟨?_, s.setChan_frame c _, s.plays_setChan rfl⟩
    rw [State.chan_setChan, Chan.again, if_pos h15, ← h15]
  · rw [if_neg (by simp [h15]), if_pos (by simp only [hp, Bool.true_and, decide_eq_true_eq]; omega)]
    refine ⟨?_, s.putChan_frame c _, s.plays_putChan rfl⟩
    rw [State.putChan_chan, Chan.again, if_neg h15]

theorem State.meetEnd_final (h : (s.chan c).walk.pass = false ∨ (s.chan c).repeats = 0) : s.meetEnd c =
    if (s.chan c).walk.next ≤ (s.chan c).i then (s.setChan c (s.chan c).finished).endUse c .finish
    else s.setChan c (s.chan c).finished := by
  have hwindow : ({ s.chan c with
      endIdx := some (s.chan c).walk.next
      walk := { (s.chan c).walk with st := .finished } } : Chan).silenceFrom (s.chan c).walk.next (fun _ => true) =
        (s.chan c).finished.window := by
    refine Table.ext_get fun j => ?_
    rw [Chan.silenceFrom_eq, Chan.finished, Table.get_ofFn]
    simp only [and_true]
  unfold State.meetEnd
  dsimp only
  rw [if_neg (by rcases h with h | h <;> simp [h]), if_neg (by rcases h with h | h <;> simp [h]), hwindow]
  rfl

end Sys2Proof.Machine
end

section
/-! PROOFS. The list walk settled: what it does at each entry (chapter 04). -/

namespace Sys2Proof.Machine

variable {s t u v : State} {c d : Fin 4} {m : Marker} {x : ListEntry}

/-- A list error's records, and the end of the channel (R62). -/
theorem State.listError_spec (s : State) (c : Fin 4) (r : ListReason) (h : (s.chan c).noStarts) :
    s.ends (s.listError c r) c .stopped ∧ Frame playParts s (s.listError c r) ∧
      (s.listError c r).logNow = s.logged [
        s.record .listError c.val (w2 (r.code + 256 * (s.chan c).repeats) (s.chan c).walk.entry) 0,
        s.record .channelState c.val (w4 (s.chan c).st.code 0 9 15) (wInt (s.chan c).i)] := by
  unfold State.listError
  dsimp only
  have hlog := s.log_logNow .listError c.val (w2 (r.code + 256 * (s.chan c).repeats) (s.chan c).walk.entry) 0
  have hframe := s.log_frame .listError c.val (w2 (r.code + 256 * (s.chan c).repeats) (s.chan c).walk.entry) 0
  obtain ⟨hends, hend⟩ := State.endUse_ends
    (s.log .listError c.val (w2 (r.code + 256 * (s.chan c).repeats) (s.chan c).walk.entry) 0) c .listError h
  refine ⟨hends, (hframe.wide rfl).trans (State.endUse_frame _ c _), ?_⟩
  rw [hend, hframe.logged_append rfl _ _ hlog]
  rfl

/-- A marker's entry: kept or acted on, and then the walk's next entry, or its stop at a HOLD. -/
theorem State.finds.hold (h : s.finds c .hold) : s.walk c = s.meetHold c := by
  have hstop : ((s.meetHold c).chan c).walkReady = false := by
    rw [State.meetHold_eq, State.chan_setChan]
    simp [Chan.walkReady, Chan.stopped]
  rw [h.goes (Alike.refl c s).meetHold.left]
  exact State.walk_still _ c hstop

/-- Settles O45: the walk's one step at every entry, by the entry. -/
theorem listWalk : Obligations.ListWalk := by
  rintro c s ch k e n rfl rfl rfl rfl
  refine ⟨fun h => ?_, fun hn r => s.listError_spec c r hn, fun h => ?_, fun h1 h2 => ?_,
    (s.nextEntry_plays c).others, s.nextEntry_frame c, fun hl hst hi => ?_⟩
  · refine s.walk_still c ?_
    rw [← Bool.not_eq_true, Chan.walkReady_iff]
    rintro ⟨g1, g2, g3⟩
    rcases h with h | h | h
    · rw [g1] at h; exact absurd h (by decide)
    · exact h g2
    · omega
  · exact State.nextEntry_same (h.imp id And.right)
  · refine ⟨_, ?_, State.nextEntry_line (k := (s.chan c).walk.entry / 4 + 1) (by omega) (by omega)⟩
    simp only [Bool.and_eq_true, decide_eq_true_eq, Bool.not_eq_true', List.contains_eq_mem, decide_eq_false_iff_not, and_assoc]
    refine and_congr ?_ Iff.rfl
    omega
  · have hready := (Chan.walkReady_iff _).mpr ⟨hl, hst, hi⟩
    have hwalk := s.walk_unfold c hready
    refine ⟨fun he => ?_, fun he hin => ?_, fun he hin hb => ?_, fun he hin hb => ?_, fun l b x he hin hb hlb hx => ?_⟩
    · rw [hwalk, if_pos he]
    · rw [hwalk, if_neg (not_le.mpr he), if_pos hin]
    · rw [hwalk, if_neg (not_le.mpr he), if_neg (by rw [hin]; decide)]
      simp only [hb]
    · obtain ⟨l, hb, hlb⟩ := hb
      rw [hwalk, if_neg (not_le.mpr he), if_neg (by rw [hin]; decide)]
      simp only [hb, hlb]
    · have hf : s.finds c x := ⟨hready, he, hin, l, b, hb, hlb, hx⟩
      clear hx
      refine ⟨?bad, ?empty, ?outside, ?clip, ?mark, ?finish⟩
      case bad => rintro rfl; exact hf.listError rfl
      case empty =>
        rintro addr rfl
        exact hf.goes (s.nextEntry_plays c)
      case outside =>
        rintro addr len rfl hlen hout
        refine hf.listError ?_
        rw [State.takeEntry_clip, if_neg (by omega), if_neg]
        rw [State.clipInside_iff]
        rintro ⟨halign, r, hr, hfit⟩
        rcases hout with h | h | ⟨q, hq, h⟩
        · exact h halign
        · rw [hr] at h; cases h
        · rw [hr] at hq; cases hq; omega
      case clip =>
        rintro addr len r rfl hlen halign hr hfit
        have htake : s.takeEntry c (.clip addr len) = s.assignBlock c (addr + 192 * (s.chan c).walk.block) len := by
          rw [State.takeEntry_clip, if_neg (by omega), if_pos ((s.clipInside_iff _ _).mpr ⟨halign, r, hr, hfit⟩)]
        have hgo := hf.goes (htake ▸ ((Alike.refl c s).assignBlock _ _).left)
        rw [htake, State.assignBlock_eq] at hgo
        refine ⟨s.setChan c ((s.chan c).assigned (addr + 192 * (s.chan c).walk.block)), State.chan_setChan _ _ _,
          fun d hd => State.chan_setChan_ne _ _ (Ne.symm hd), s.setChan_frame c _, fun hb => ?_, fun hb => ?_⟩
        · rw [hgo, if_pos hb]
        · rw [hgo, if_neg (not_lt.mpr hb)]
      case mark =>
        intro m hm
        obtain ⟨hahead, hpassed⟩ := s.attachMarker_spec c m
        have hother := (s.attachMarker_plays c m).others
        refine ⟨s.attachMarker c m, hother, s.attachMarker_frame_quiet c m, hahead, hpassed, fun hx => ?_, fun hx => ?_⟩
        · obtain ⟨tag, rfl, rfl⟩ := hm.resolve_right fun h => hx h.1
          exact hf.goes ((Alike.refl c s).attachMarker _ |>.andNextEntry (Alike.refl c s)).left
        · subst hx
          obtain ⟨-, rfl⟩ := hm.resolve_left fun ⟨tag, h, _⟩ => by cases h
          have hnext := (s.attachMarker c .hold).nextEntry_plays c
          have hview := (s.attachMarker c .hold).nextEntry_view c
          obtain ⟨hwalk', hi'⟩ := s.attachMarker_walk c .hold
          simp only [Chan.view, WalkView.mk.injEq] at hview
          obtain ⟨-, hvi, hvw, -⟩ := hview
          have hvn : (((s.attachMarker c .hold).nextEntry c).chan c).walk.next = (s.chan c).walk.next := by rw [hvw, hwalk']
          rw [hi'] at hvi
          clear hvw
          rw [hf.hold, State.meetHold_eq]
          generalize (s.attachMarker c .hold).nextEntry c = v at hnext hvi hvn
          have hothers (d : Fin 4) (hd : d ≠ c) : v.chan d = s.chan d := (hnext.others d hd).trans (hother d hd)
          refine ⟨v, rfl, v.setChan_frame c _, fun d hd => ?_, ?_⟩
          · rw [State.chan_setChan_ne _ _ (Ne.symm hd), hothers d hd]
          · rw [State.chan_setChan, ← hvn, ← hvi]
            rfl
      case finish =>
        rintro rfl
        refine ⟨fun hp h1 _ => ?_, fun hfin => ?_⟩
        · obtain ⟨hown, hframe, hplays⟩ := State.meetEnd_again hp h1
          exact ⟨s.meetEnd c, hown, hplays.others, hframe, hf.goes hplays⟩
        · have htake : s.takeEntry c .finish = _ := State.meetEnd_final hfin
          have hplays : s.plays (s.setChan c (s.chan c).finished) c := s.plays_setChan rfl
          refine ⟨s.setChan c (s.chan c).finished, State.chan_setChan _ _ _, hplays.others, s.setChan_frame c _,
            fun hlt => ?_, fun hle hn => ?_⟩
          · rw [if_neg (not_le.mpr hlt)] at htake
            rw [hf.goes (htake ▸ hplays), htake]
            refine State.walk_still _ c ?_
            rw [State.chan_setChan]
            simp [Chan.walkReady, Chan.finished]
          · rw [if_pos hle] at htake
            rw [hf.ends hplays htake]
            obtain ⟨hends, hlog⟩ := (s.setChan c (s.chan c).finished).endUse_ends c .finish
              (by rw [State.chan_setChan]; exact hn)
            refine ⟨hends, State.endUse_frame _ c _, ?_⟩
            rw [hlog, (s.setChan_frame c _).logged rfl, State.chan_setChan]
            rfl

end Sys2Proof.Machine
end

section
/-! PROOFS. The flush of the pool, at a swap and at a QUIESCE (chapters 06, 10). -/

namespace Sys2Proof.Machine

variable {s t u v : State} {ga x : Gather}

/-! ### The closes of a flush (R116) -/

/-- A close leaves what is on the result list, and adds its own gather. -/
theorem State.closeGather_results (s : State) (ga : Gather) (st : CloseStatus) :
    (∀ x ∈ s.gather.results, x ∈ (s.closeGather ga st).gather.results) ∧
      ∃ x ∈ (s.closeGather ga st).gather.results, x.group = ga.group ∧ x.pos = ga.pos ∧ x.seq = ga.seq ∧
        x.contributors = ga.contributors ∧ x.status = some st := by
  obtain ⟨-, hres, -, -, -⟩ := s.closeGather_closed ga st
  rw [hres]
  refine ⟨fun x hx => List.mem_append_left _ hx, _, List.mem_append_right _ (List.mem_singleton.mpr rfl), ?_⟩
  exact ⟨rfl, rfl, rfl, rfl, rfl⟩

theorem closeFold_results (st : CloseStatus) (l : List Gather) (s : State) :
    (∀ x ∈ s.gather.results, x ∈ (l.foldl (fun x ga => x.closeGather ga st) s).gather.results) ∧
      ∀ ga ∈ l, ∃ x ∈ (l.foldl (fun x ga => x.closeGather ga st) s).gather.results,
        x.group = ga.group ∧ x.pos = ga.pos ∧ x.seq = ga.seq ∧ x.contributors = ga.contributors ∧ x.status = some st := by
  induction l generalizing s with
  | nil => exact ⟨fun _ hx => hx, by simp⟩
  | cons a l ih =>
    obtain ⟨hkept, hown⟩ := s.closeGather_results a st
    obtain ⟨ikept, iown⟩ := ih (s.closeGather a st)
    refine ⟨fun x hx => ikept x (hkept x hx), fun ga hga => ?_⟩
    rcases List.mem_cons.mp hga with rfl | hga
    · obtain ⟨x, hx, hfields⟩ := hown
      exact ⟨x, ikept x hx, hfields⟩
    · exact iown ga hga

/-- The state before the closes of a flush: no arrival is taken or waits. -/
def State.shut (s : State) : State := { s with gather := { s.gather with taking := false } }.endWait

theorem State.shut_frame (s : State) : Frame [.taking, .arrival, .queue] s s.shut := by
  have htaking : Frame [.taking] s { s with gather := { s.gather with taking := false } } := by
    intro p hp
    cases p <;> first | exact absurd (by decide) hp | simp [Same, State.chan, State.line]
  exact (htaking.wide rfl).trans ((State.endWait_frame _).wide rfl)

theorem State.shut_spec (s : State) : s.shut.gather.taking = false ∧ s.shut.gather.waiting = none ∧
    s.shut.gather.opens = s.gather.opens ∧ s.shut.gather.results = s.gather.results ∧
    s.shut.path.queue = if s.gather.waiting.isSome then s.path.queue.tail else s.path.queue := by
  unfold State.shut State.endWait
  by_cases h : s.gather.waiting.isSome = true
  · simp [h]
  · simp [Option.not_isSome_iff_eq_none.mp h]

theorem State.flushPool_eq (s : State) : s.flushPool =
    (sortKeys s.shut.gather.opens).foldl (fun x ga => x.closeGather ga .flushed) s.shut := rfl

/-- A flush does what `flushedInto` says, from any state that differs in the change or the staged plan alone. -/
theorem State.flushPool_flushedInto (h : Frame [.change, .staged] s v) : s.flushedInto v.flushPool.settle := by
  obtain ⟨htaking, hwaiting, hopens, -, hqueue⟩ := v.shut_spec
  have hall : v.shut.closesAll v.flushPool (fun _ => true) .flushed := by
    have hclose := flushFold_closesAll v.shut fun _ => true
    rwa [List.filter_true] at hclose
  have hquiet : Frame [.groups, .opens, .results] v.shut v.flushPool :=
    Frame.foldl _ (fun w ga => w.closeGather_quiet_frame ga .flushed rfl) _ _
  have hvo : v.gather.opens = s.gather.opens := h.same .opens rfl
  obtain ⟨hvw, hvq⟩ := h.waiting_eq rfl
  refine ⟨?_, ?_, ?_, fun ga hga => ?_, ?_, v.shut, (h.wide rfl).trans (v.shut_frame.wide rfl), ?_⟩
  · rw [State.settle_taking, hquiet.same .taking rfl, htaking]
  · rw [State.settle_waiting, (hquiet.waiting_eq rfl).1, hwaiting]
  · rw [State.settle_opens, State.flushPool_eq, closeFold_opens]
    refine List.filter_eq_nil_iff.mpr fun x hx => ?_
    simpa using ⟨x, (sortKeys_perm _).mem_iff.mpr hx, rfl⟩
  · rw [State.settle_results, State.flushPool_eq]
    refine (closeFold_results .flushed _ v.shut).2 ga ?_
    rw [(sortKeys_perm _).mem_iff, hopens, hvo]
    exact hga
  · rw [State.settle_queue, (hquiet.waiting_eq rfl).2, hqueue, hvw, hvq]
  · obtain ⟨l, hperm, hsorted, hcloses⟩ := hall
    exact ⟨l, hperm, hsorted, hcloses.trans v.flushPool.settle_frame⟩

/-- The stage of a change whose pool is flushed. -/
theorem State.flushPool_stage (v : State) (st : Stage) (h : v.plan.change.isSome = true) :
    (v.setStage st).flushPool.settle.stage = some st := by
  obtain ⟨c, hc⟩ := Option.isSome_iff_exists.mp h
  have hkept : (v.setStage st).flushPool.plan.change = (v.setStage st).plan.change :=
    (State.flushPool_frame _).same .change rfl
  rw [State.settle_stage, State.stage, hkept]
  simp [State.setStage, hc]

/-! ### QUIESCE, and the last line of a load (R171, R174) -/

theorem exec_quiesce (h : s.carriesOut 7) : ∃ t, exec .quiesce s = .next t ∧ t.stage = some .quiescing ∧ s.flushedInto t ∧
    Frame (.change :: flushParts) s t := by
  obtain ⟨hreset, hhanded, hchange⟩ := State.handed_of_carriesOut h
  have hexec : exec .quiesce s = .next (s.setStage .quiescing).flushPool.settle := exec_effect rfl rfl hreset hhanded
  have hstage := s.setStage_frame .quiescing
  exact ⟨_, hexec, State.flushPool_stage s _ hchange, State.flushPool_flushedInto (hstage.wide rfl),
    ((hstage.wide rfl).trans ((State.flushPool_frame _).wide rfl)).settled⟩

/-- The plan is whole, and its checks decide. -/
theorem exec_planRead {o : Nat} {st : Staged} {l : StagedLine} {pt : PlanTables} (hreset : s.inReset = false)
    (hport : s.arb.port = some (.plan (.loadLine o))) (hst : s.plan.staged = some st) (htodo : st.todo = [l])
    (hpart : l.part ≠ 0) (hchange : s.plan.change.isSome = true)
    (hpt : pt = Staged.tables ⟨[], st.got ++ [(l, Memory.bytes s.mem (s.anchorAddr + l.off) 64)]⟩) :
    ∃ t, exec (.planFetchComplete false) s = .next t ∧
      (∀ chk entry, s.planChecks pt = some (chk, entry) →
        t.plan.staged = none ∧ t.plan.lastError = .check chk entry ∧ t.answered .planInvalid chk.code entry ∧
        t.logNow = s.logged [s.record .planRejected chk.code (w4 chk.code entry 0 0) 0] ∧
        Frame [.change, .staged, .lastError, .logQueue, .lostCount] s t) ∧
      (s.planChecks pt = none → t.stage = some (.flushing pt.clampCount) ∧ s.flushedInto t ∧
        Frame (.change :: .staged :: flushParts) s t) := by
  have hon := State.lineOnPort_eq hport hst htodo
  have hexec : exec (.planFetchComplete false) s = .next (s.planLineRead false).settle :=
    exec_effect rfl rfl hreset (by simp [State.effect, hon])
  have hreads := s.complete_read_frame false (by simp [State.portCells, hport])
  have hchanged : (s.complete false).plan.change.isSome = true := by rw [hreads.same .change rfl, hchange]
  have hchecks : (s.complete false).planChecks pt = s.planChecks pt := rfl
  generalize hgot : st.got ++ [(l, Memory.bytes s.mem (s.anchorAddr + l.off) 64)] = got at hpt
  have hread : s.planLineRead false = State.checkStaged { s.complete false with
      plan := { (s.complete false).plan with staged := some ⟨[], got⟩ } } ⟨[], got⟩ := by
    have hloaded : s.planLineRead false =
        (s.complete false).lineLoaded st l (Memory.bytes s.mem (s.anchorAddr + l.off) 64) := by
      rw [State.planLineRead, hon]; rfl
    rw [hloaded, State.lineLoaded, htodo, hgot]
    exact if_neg hpart
  generalize s.complete false = v at hread hreads hchanged hchecks
  have hstaged : Frame [.staged] s { v with plan := { v.plan with staged := some ⟨[], got⟩ } } :=
    (hreads.wide rfl).trans (staged_frame v _ v.plan.out)
  refine ⟨_, hexec, fun chk entry hfail => ?_, fun hok => ?_⟩
  · have hreject : s.planLineRead false = v.rejectPlan chk entry := by
      rw [hread, State.checkStaged, ← hpt]
      simp only [show State.planChecks { v with plan := { v.plan with staged := some ⟨[], got⟩ } } pt = some (chk, entry) from
        hchecks.trans hfail]
      rfl
    obtain ⟨hnone, hlast, hans, hlog, hframe⟩ := State.rejectPlan_spec hreads hchanged chk entry
    rw [← hreject] at hnone hlast hans hlog hframe
    exact ⟨by rw [State.settle_staged, hnone], by rw [State.settle_lastError, hlast], State.settle_answered _ _ _ _ hans,
      by rw [State.settle_logNow, hlog], hframe.settled⟩
  · have hswap : s.planLineRead false =
        (State.setStage { v with plan := { v.plan with staged := some ⟨[], got⟩ } } (.flushing pt.clampCount)).flushPool := by
      rw [hread, State.checkStaged, ← hpt]
      simp only [show State.planChecks { v with plan := { v.plan with staged := some ⟨[], got⟩ } } pt = none from
        hchecks.trans hok]
      rfl
    have hstage := State.setStage_frame { v with plan := { v.plan with staged := some ⟨[], got⟩ } } (.flushing pt.clampCount)
    rw [hswap]
    exact ⟨State.flushPool_stage _ _ hchanged, State.flushPool_flushedInto ((hstaged.wide rfl).trans (hstage.wide rfl)),
      (((hstaged.wide rfl).trans (hstage.wide rfl)).trans ((State.flushPool_frame _).wide rfl)).settled⟩

end Sys2Proof.Machine
end

section
/-! PROOFS. The checks of a plan, in their order, and what each says (chapter 10: Loading a plan). -/

namespace Sys2Proof.Machine

variable {s : State} {pt : PlanTables}

/-! ### The checks in order -/

/-- The entry index of a check after PLAN_AREA, when it fails. -/
def State.checkEntry (s : State) (pt : PlanTables) : PlanCheck → Option Nat
  | .planArea => none
  | .alignment => checkAlignment pt
  | .regionEntry => checkRegionEntry pt
  | .groupKind => checkGroupKind pt
  | .ringLength => checkRingLength pt
  | .logLength => checkLogLength pt
  | .logMoved => checkLogMoved pt s.inForce s.plan.descr
  | .duplicateRegion => checkDuplicate pt
  | .missingPair => checkMissingPair pt
  | .beyondMemory => checkBeyond pt s.path.memSize
  | .overlap => checkOverlap pt s.anchorAddr
  | .reference => checkReference pt

theorem State.planChecks_eq (s : State) (pt : PlanTables) :
    s.planChecks pt = laterChecks.findSome? fun c => failing c (s.checkEntry pt c) := by
  simp only [State.planChecks, laterChecks, State.checkEntry, List.findSome?_cons, List.findSome?_nil]
  repeat' split
  all_goals simp_all

theorem State.planChecks_eq_none : s.planChecks pt = none ↔ ∀ c ∈ laterChecks, s.checkEntry pt c = none := by
  simp [State.planChecks_eq, List.findSome?_eq_none_iff, failing]

/-- The check reported is the first that fails. -/
theorem State.planChecks_eq_some {chk : PlanCheck} {entry : Nat} (h : s.planChecks pt = some (chk, entry)) :
    chk ∈ laterChecks ∧ s.checkEntry pt chk = some entry ∧
      ∀ before after, laterChecks = before ++ chk :: after → ∀ c ∈ before, s.checkEntry pt c = none := by
  rw [State.planChecks_eq, List.findSome?_eq_some_iff] at h
  obtain ⟨before, c, after, hsplit, hfail, hfirst⟩ := h
  simp only [failing, Option.map_eq_some_iff, Prod.mk.injEq] at hfail
  obtain ⟨_, hentry, rfl, rfl⟩ := hfail
  have hnodup : laterChecks.Nodup := by decide
  refine ⟨hsplit ▸ by simp, hentry, fun before' after' hsplit' c hc => ?_⟩
  have hsame : before = before' := by
    rw [hsplit] at hnodup hsplit'
    have hfresh := (List.nodup_middle.mp hnodup).notMem
    rw [List.mem_append, not_or] at hfresh
    exact (List.append_cons_inj_of_notMem hfresh.1 hfresh.2).mp hsplit' |>.1
  simpa [failing] using hfirst c (hsame ▸ hc)

/-! ### What each check looks for -/

theorem whole_isSome (b : Bool) : (whole b).isSome = b := by cases b <;> rfl

theorem isSome_orElse (a b : Option Nat) : (a <|> b).isSome = (a.isSome || b.isSome) := by cases a <;> simp

theorem PlanTables.firstRegion_isSome (f : Nat × RawRegion → Bool) :
    (pt.firstRegion f).isSome = true ↔ ∃ x ∈ pt.used, f x = true := by
  simp [PlanTables.firstRegion]

theorem PlanTables.find_isSome (kind num : Nat) :
    (pt.find kind num).isSome = true ↔ ∃ x ∈ pt.used, x.2.kind = kind ∧ x.2.num = num := by
  simp [PlanTables.find]

theorem PlanTables.find_isNone (kind num : Nat) :
    (pt.find kind num).isNone = true ↔ ∀ x ∈ pt.used, x.2.kind = kind → x.2.num ≠ num := by
  rw [← Option.not_isSome, Bool.not_eq_true', ← Bool.not_eq_true, PlanTables.find_isSome]
  push Not
  rfl

theorem findIn_isSome (n : Nat) (f : Nat → Bool) : ((List.range n).find? f).isSome = true ↔ ∃ i, i < n ∧ f i = true := by
  simp [List.find?_isSome]

theorem PlanTables.used_kind {x : Nat × RawRegion} (h : x ∈ pt.used) : x.2.kind ≠ 0 := by
  simpa using (List.mem_filter.mp h).2

theorem checkAlignment_isSome : (checkAlignment pt).isSome = true ↔ PlanFails s pt .alignment := by
  simp [checkAlignment, PlanFails, whole_isSome, PlanTables.firstRegion_isSome]

theorem checkRegionEntry_isSome : (checkRegionEntry pt).isSome = true ↔ PlanFails s pt .regionEntry := by
  rw [checkRegionEntry, PlanTables.firstRegion_isSome, PlanFails]
  refine exists_congr fun x => and_congr_right fun hx => ?_
  have hkind := PlanTables.used_kind hx
  split <;> simp [*]
  next h1 h2 h3 h4 h5 h6 =>
    simp only [imp_false] at h1 h2 h3 h4 h5 h6
    omega

theorem checkGroupKind_isSome : (checkGroupKind pt).isSome = true ↔ PlanFails s pt .groupKind := by
  rw [checkGroupKind, findIn_isSome, PlanFails]
  refine exists_congr fun g => and_congr_right fun _ => ?_
  unfold groupKindOf
  split <;> [skip; split] <;> simp_all

theorem checkRingLength_isSome : (checkRingLength pt).isSome = true ↔ PlanFails s pt .ringLength := by
  simp only [checkRingLength, isSome_orElse, Bool.or_eq_true, findIn_isSome, Bool.and_eq_true, PlanTables.find_isSome,
    PlanFails]
  refine or_congr (exists_congr fun p => ?_) (exists_congr fun g => ?_)
  · have hrange : (!(decide (64 ≤ pt.progLen p) && decide (pt.progLen p ≤ 4096))) = true ↔
      pt.progLen p < 64 ∨ 4096 < pt.progLen p := by
      simp only [Bool.not_eq_true', Bool.and_eq_false_iff, decide_eq_false_iff_not]; omega
    rw [hrange]
  · have hrange : (!(decide (16 ≤ (pt.group g).1.ringLen) && decide ((pt.group g).1.ringLen ≤ 1024))) = true ↔
      (pt.group g).1.ringLen < 16 ∨ 1024 < (pt.group g).1.ringLen := by
      simp only [Bool.not_eq_true', Bool.and_eq_false_iff, decide_eq_false_iff_not]; omega
    rw [hrange]

theorem logLengthOk_iff (n : Nat) : logLengthOk n = true ↔ ∃ k, 6 ≤ k ∧ k ≤ 13 ∧ n = 2 ^ k := by
  constructor
  · intro h
    simp only [logLengthOk, List.contains_eq_mem, List.mem_cons, List.not_mem_nil, or_false, decide_eq_true_eq] at h
    rcases h with rfl | rfl | rfl | rfl | rfl | rfl | rfl | rfl
    exacts [⟨6, by decide⟩, ⟨7, by decide⟩, ⟨8, by decide⟩, ⟨9, by decide⟩, ⟨10, by decide⟩, ⟨11, by decide⟩,
      ⟨12, by decide⟩, ⟨13, by decide⟩]
  · rintro ⟨k, h6, h13, rfl⟩
    interval_cases k <;> decide

theorem checkLogLength_isSome : (checkLogLength pt).isSome = true ↔ PlanFails s pt .logLength := by
  rw [checkLogLength, whole_isSome, PlanFails, Bool.not_eq_true', ← Bool.not_eq_true, logLengthOk_iff]
  push Not
  rfl

theorem checkLogMoved_isSome : (checkLogMoved pt s.inForce s.plan.descr).isSome = true ↔ PlanFails s pt .logMoved := by
  unfold checkLogMoved
  rw [whole_isSome, PlanFails]
  cases s.plan.descr <;> simp

theorem checkDuplicate_isSome : (checkDuplicate pt).isSome = true ↔ PlanFails s pt .duplicateRegion := by
  rw [checkDuplicate, PlanTables.firstRegion_isSome, PlanFails]
  refine exists_congr fun x => and_congr_right fun _ => ?_
  simp only [Bool.and_eq_true, decide_eq_true_eq, List.any_eq_true, bne_iff_ne, ne_eq]
  constructor
  · rintro ⟨⟨h2, h5⟩, y, hy, ⟨hne, hkind⟩, hnum⟩
    exact ⟨y, hy, fun h => hne h.symm, hkind.symm, hnum.symm, h2, h5⟩
  · rintro ⟨y, hy, hne, hkind, hnum, h2, h5⟩
    exact ⟨⟨h2, h5⟩, y, hy, ⟨fun h => hne h.symm, hkind.symm⟩, hnum.symm⟩

theorem checkMissingPair_isSome : (checkMissingPair pt).isSome = true ↔ PlanFails s pt .missingPair := by
  simp only [checkMissingPair, isSome_orElse, Bool.or_eq_true, findIn_isSome, PlanTables.firstRegion_isSome,
    Bool.and_eq_true, PlanTables.find_isNone, PlanFails]
  have hparts : ∀ {r g a c : Prop}, (r ↔ a ∨ c) → (r ∨ g ↔ a ∨ g ∨ c) := by tauto
  refine hparts ?_
  rw [← exists_or]
  refine exists_congr fun x => ?_
  rw [← and_or_left]
  refine and_congr_right fun _ => ?_
  split
  next hkind =>
    rw [PlanTables.find_isNone]
    simp [hkind]
  all_goals simp_all

theorem checkBeyond_isSome : (checkBeyond pt s.path.memSize).isSome = true ↔ PlanFails s pt .beyondMemory := by
  simp [checkBeyond, PlanFails, whole_isSome, PlanTables.firstRegion_isSome]

theorem shareLine_iff (b1 n1 b2 n2 : Nat) : shareLine b1 n1 b2 n2 = true ↔ extentsMeet b1 n1 b2 n2 := by
  simp [shareLine, extentsMeet]

theorem checkOverlap_isSome : (checkOverlap pt s.anchorAddr).isSome = true ↔ PlanFails s pt .overlap := by
  simp only [checkOverlap, isSome_orElse, whole_isSome, Bool.or_eq_true, PlanTables.firstRegion_isSome, List.any_eq_true,
    Bool.and_eq_true, shareLine_iff, implicitRegions, implicitOverlap, List.mem_cons, List.not_mem_nil,
    exists_eq_or_imp, exists_eq_left, PlanFails, bne_iff_ne, ne_eq, and_or_left, exists_or, Bool.false_eq_true, or_assoc,
    false_and, exists_false, or_false]
  exact or_congr (exists_congr fun x => and_congr_right fun _ => exists_congr fun y => and_congr_right fun _ =>
    and_congr_left' (not_congr eq_comm)) Iff.rfl

/-- The reference's check looks for no more than R169 does where the region entries are in range. -/
theorem checkReference_isSome (h : PlanFails s pt .reference) : (checkReference pt).isSome = true := by
  rw [checkReference, whole_isSome]
  rcases h with ⟨hnone, x, hx, hview⟩ | ⟨hsome, hno⟩
  · rw [if_pos hnone]
    simpa using ⟨x.1, x.2, hx, hview⟩
  · rw [if_neg hsome, (PlanTables.find_isNone 2 _).mpr hno, Bool.or_true]

theorem PlanFails.of_checkReference (hregion : ¬PlanFails s pt .regionEntry) (h : (checkReference pt).isSome = true) :
    PlanFails s pt .reference := by
  rw [checkReference, whole_isSome] at h
  by_cases hnone : pt.d.reference = 255
  · rw [if_pos hnone] at h
    obtain ⟨x, hx, hview⟩ := List.any_eq_true.mp h
    exact .inl ⟨hnone, x, hx, by simpa using hview⟩
  · rw [if_neg hnone, Bool.or_eq_true, decide_eq_true_eq, PlanTables.find_isNone] at h
    refine .inr ⟨hnone, ?_⟩
    rcases h with hbig | hno
    · intro x hx hkind hnum
      exact hregion ⟨x, hx, .inr (.inl ⟨.inl hkind, by omega⟩)⟩
    · exact hno

/-- A check that R169 fails is one that the model fails. -/
theorem PlanFails.checkEntry {chk : PlanCheck} (h : PlanFails s pt chk) : (s.checkEntry pt chk).isSome = true := by
  cases chk
  case planArea => exact h.elim
  case alignment => exact checkAlignment_isSome.mpr h
  case regionEntry => exact checkRegionEntry_isSome.mpr h
  case groupKind => exact checkGroupKind_isSome.mpr h
  case ringLength => exact checkRingLength_isSome.mpr h
  case logLength => exact checkLogLength_isSome.mpr h
  case logMoved => exact checkLogMoved_isSome.mpr h
  case duplicateRegion => exact checkDuplicate_isSome.mpr h
  case missingPair => exact checkMissingPair_isSome.mpr h
  case beyondMemory => exact checkBeyond_isSome.mpr h
  case overlap => exact checkOverlap_isSome.mpr h
  case reference => exact checkReference_isSome h

theorem PlanFails.of_checkEntry {chk : PlanCheck} (hregion : chk = .reference → ¬PlanFails s pt .regionEntry)
    (h : (s.checkEntry pt chk).isSome = true) : PlanFails s pt chk := by
  cases chk
  case planArea => cases h
  case alignment => exact checkAlignment_isSome.mp h
  case regionEntry => exact checkRegionEntry_isSome.mp h
  case groupKind => exact checkGroupKind_isSome.mp h
  case ringLength => exact checkRingLength_isSome.mp h
  case logLength => exact checkLogLength_isSome.mp h
  case logMoved => exact checkLogMoved_isSome.mp h
  case duplicateRegion => exact checkDuplicate_isSome.mp h
  case missingPair => exact checkMissingPair_isSome.mp h
  case beyondMemory => exact checkBeyond_isSome.mp h
  case overlap => exact checkOverlap_isSome.mp h
  case reference => exact .of_checkReference (hregion rfl) h

theorem not_planFails_of_none {chk : PlanCheck} (h : s.checkEntry pt chk = none) : ¬PlanFails s pt chk := fun hfails => by
  simpa [h] using hfails.checkEntry

theorem whole_some {b : Bool} {e : Nat} (h : whole b = some e) : e = 255 := by
  cases b
  · cases h
  · exact (Option.some.inj h).symm

/-- The first check that fails, by R169. -/
theorem planChecks_fails {chk : PlanCheck} {entry : Nat} (h : s.planChecks pt = some (chk, entry)) :
    PlanFails s pt chk ∧ (∀ before after, laterChecks = before ++ chk :: after → ∀ x ∈ before, ¬PlanFails s pt x) ∧
      (chk = .logLength ∨ chk = .logMoved → entry = 255) := by
  obtain ⟨-, hentry, hfirst⟩ := State.planChecks_eq_some h
  refine ⟨.of_checkEntry ?_ (by rw [hentry]; rfl), fun before after hsplit x hx => ?_, ?_⟩
  · rintro rfl
    exact not_planFails_of_none (hfirst (laterChecks.dropLast) [] (by decide) .regionEntry (by decide))
  · exact not_planFails_of_none (hfirst before after hsplit x hx)
  · rintro (rfl | rfl) <;> exact whole_some hentry

end Sys2Proof.Machine
end

section
/-! PROOFS. The clamped fields of a plan, and the load checked and flushed (chapter 10: Loading a plan). -/

namespace Sys2Proof.Machine

/-! ### Clamps (R170) -/

theorem clampC_outside (lo hi v : Nat) : (clampC lo hi v).2 = outside lo hi v := by
  unfold clampC outside
  split <;> [skip; split] <;> simp_all

theorem clampC_nearest {lo hi : Nat} (v : Nat) (h : lo ≤ hi) : (clampC lo hi v).1 = max lo (min hi v) := by
  unfold clampC
  split <;> [skip; split] <;> omega

theorem clampC_zero (hi v : Nat) : (clampC 0 hi v).1 = min hi v := by rw [clampC_nearest v (Nat.zero_le hi), Nat.zero_max]

theorem ofLe_lt (l : List Byte) : ofLe l < 256 ^ l.length := by
  induction l with
  | nil => simp [ofLe]
  | cons b l ih =>
    have hb := b.isLt
    rw [ofLe, List.length_cons, Nat.pow_succ]
    omega

theorem field_byte (b : List Byte) (o : Nat) : field b o 1 ≤ 255 := by
  have hlt := ofLe_lt ((b.drop o).take 1)
  have hone : ((b.drop o).take 1).length ≤ 1 := List.length_take_le 1 _
  have hpow : 256 ^ ((b.drop o).take 1).length ≤ 256 ^ 1 := Nat.pow_le_pow_right (by decide) hone
  unfold field
  omega

/-- A byte clamped from below alone. -/
theorem clampC_byte (b : List Byte) (o : Nat) : (clampC 1 255 (field b o 1)).1 = max 1 (field b o 1) := by
  rw [clampC_nearest _ (by decide), Nat.min_eq_right (field_byte b o)]

theorem PlanTables.clampCount_eq (pt : PlanTables) : pt.clampCount =
    ((List.range 24).map fun i => outside 5 500 (field (entryOf 3 pt.secs i) 2 2)).sum +
    ((List.range 12).map fun g => if (pt.group g).1.present then (parseGroup (entryOf 4 pt.groups g)).2 else 0).sum +
    ((List.range 4).map fun i => outside 0 32768 (field (entryOf 5 pt.chans i) 0 2) +
      outside 0 32768 (field (entryOf 5 pt.chans i) 2 2) + outside 1 64 (field (entryOf 5 pt.chans i) 4 1)).sum +
    ((List.range 6).map fun i => outside 1 255 (field (entryOf 6 pt.lines i) 1 1)).sum := by
  simp only [PlanTables.clampCount, parseSection, parseChannel, parseLine, clampC_outside, PlanTables.group]

theorem parseChannel_values (b : List Byte) : (parseChannel b).1.duck = min 32768 (field b 0 2) ∧
    (parseChannel b).1.ann = min 32768 (field b 2 2) ∧ (parseChannel b).1.ramp = max 1 (min 64 (field b 4 1)) :=
  ⟨clampC_zero _ _, clampC_zero _ _, clampC_nearest _ (by decide)⟩

theorem parseBand_values (b : List Byte) (j : Fin 8) {o : Nat} (ho : o = 64 + 8 * j.val) : parseBand b j =
    (⟨field b o 1, min (field b o 1) (field b (o + 1) 1), min 255 (field b (o + 4) 2), min 24 (field b (o + 2) 1)⟩,
      outside 0 (field b o 1) (field b (o + 1) 1) + outside 0 24 (field b (o + 2) 1) +
        outside 0 255 (field b (o + 4) 2)) := by
  subst ho
  simp only [parseBand, clampC_outside, clampC_zero]

theorem parseGroup_select {b : List Byte} (h : field b 1 1 = 1) :
    (parseGroup b).1.vote.errorWeight = min 15 (field b 12 1) ∧ (parseGroup b).1.vote.hysteresis = min 63 (field b 14 1) ∧
      (parseGroup b).2 = outside 200 20000 (field b 8 2) + outside 1 255 (field b 10 1) + outside 0 15 (field b 12 1) +
        outside 0 63 (field b 14 1) := by
  simp only [parseGroup, h, clampC_outside, clampC_zero, OfNat.one_ne_ofNat, if_false, Nat.add_assoc, and_self]

theorem parseGroup_rank {b : List Byte} (h : field b 1 1 = 2) :
    (∀ j : Fin 8, ∃ o, o = 64 + 8 * j.val ∧ (parseGroup b).1.bands.get j =
        ⟨field b o 1, min (field b o 1) (field b (o + 1) 1), min 255 (field b (o + 4) 2), min 24 (field b (o + 2) 1)⟩) ∧
      (parseGroup b).2 = outside 200 20000 (field b 8 2) + outside 1 255 (field b 10 1) +
        ((List.finRange 8).map fun j => outside 0 (field b (64 + 8 * j.val) 1) (field b (64 + 8 * j.val + 1) 1) +
          outside 0 24 (field b (64 + 8 * j.val + 2) 1) + outside 0 255 (field b (64 + 8 * j.val + 4) 2)).sum := by
  refine ⟨fun j => ⟨_, rfl, ?_⟩, ?_⟩
  · simp only [parseGroup, h, if_true, Table.get_ofFn, parseBand_values b j rfl]
  · simp only [parseGroup, h, if_true, clampC_outside, parseBand_values b _ rfl]

/-- Settles O50: the checks one by one, the clamps field by field, and the flush that the swap and QUIESCE begin with. -/
theorem loadCheckedAndFlushed : Obligations.LoadCheckedAndFlushed := by
  refine ⟨fun o st l s pt hreset hport hst htodo hpart hchange hpt => exec_planRead hreset hport hst htodo hpart hchange hpt,
    fun s pt => ⟨fun chk entry h => planChecks_fails h, fun h x hx => not_planFails_of_none (State.planChecks_eq_none.mp h x hx)⟩,
    PlanTables.clampCount_eq, fun b => ?_, fun s h => exec_quiesce h⟩
  obtain ⟨hduck, hann, hramp⟩ := parseChannel_values b
  exact ⟨clampC_nearest _ (by decide), clampC_byte b 1, hduck, hann, hramp, clampC_nearest _ (by decide), clampC_byte b 10,
    parseGroup_select, parseGroup_rank⟩

end Sys2Proof.Machine
end

section
/-! PROOFS. What the lines' reload at the activation step does to the channels and to the lines (chapters 04, 09, 10). -/

namespace Sys2Proof.Machine

variable {s t u v : State} {c d : Fin 4} {st : Start} {k : Fin 6} {en : LineEntry} {pt : PlanTables}

/-! ### Ends and begins leave each channel's defaults and counters (R67, R73, R74) -/

/-- Every channel has its defaults and counters as before. -/
def State.lasts (s t : State) : Prop := ∀ d, (t.chan d).lasting = (s.chan d).lasting

theorem State.lasts.refl (s : State) : s.lasts s := fun _ => rfl

theorem State.lasts.trans (h : s.lasts t) (g : t.lasts u) : s.lasts u := fun d => (g d).trans (h d)

theorem State.lasts_of_chan (h : ∀ d, t.chan d = s.chan d) : s.lasts t := fun d => by rw [h]

theorem State.lasts_of_own (hown : (t.chan c).lasting = (s.chan c).lasting) (h : ∀ d, d ≠ c → t.chan d = s.chan d) :
    s.lasts t := fun d => by
  by_cases hd : d = c
  · rw [hd, hown]
  · rw [h d hd]

theorem Chan.lasting_still (ch : Chan) : ch.still.lasting = ch.lasting := rfl

theorem State.beginNow_lasts (s : State) (c : Fin 4) (st : Start) (o : ChanState) (a : ChanCause) :
    s.lasts (s.beginNow c st o a) := by
  obtain ⟨-, hstill⟩ := s.beginNow_begins c st o a
  refine State.lasts_of_own (c := c) ?_ fun d hd => s.beginNow_chan_ne st o a hd
  rw [← Chan.lasting_still, hstill]
  rfl

theorem beginWaiting_lasts (s : State) (c : Fin 4) : s.lasts (beginWaiting s c) := by
  cases h : (s.chan c).waiting with
  | none => rw [beginWaiting_none s h]; exact .refl s
  | some st => rw [beginWaiting_some s h]; exact s.beginNow_lasts c st _ _

theorem State.fenceUp_lasts (s : State) : s.lasts s.fenceUp := by
  rw [State.fenceUp_eq]
  exact foldBegins_keeps (P := fun t => s.lasts t) (fun t c h => h.trans (beginWaiting_lasts t c)) _
    (State.lasts_of_chan fun _ => rfl)

theorem State.awaiting_lasts (s : State) (c : Fin 4) (st : Start) : s.lasts (s.awaiting c st) :=
  State.lasts_of_own (c := c) (by rw [State.awaiting_chan]; rfl) fun d hd => s.awaiting_chan_ne st hd

theorem State.requestBegin_lasts (s : State) (c : Fin 4) (st : Start) : s.lasts (s.requestBegin c st) := by
  rcases s.fence_cases with hup | ⟨hdown, hq⟩ | hwait
  · rw [State.requestBegin, if_pos hup]
    exact s.beginNow_lasts c st _ _
  · rw [State.requestBegin_opens hdown hq]
    exact (s.awaiting_lasts c st).trans (State.fenceUp_lasts _)
  · rw [State.requestBegin_parks hwait]
    exact s.awaiting_lasts c st

theorem State.handsOver_lasts (s : State) (c : Fin 4) (st : Start) : s.lasts (s.handsOver c st) :=
  State.lasts_of_own (c := c) (by rw [State.handsOver_chan]; exact ((s.chan c).without_fields st).1) fun d hd =>
    s.handsOver_chan_ne st hd

theorem State.handout_lasts (s : State) (c : Fin 4) : s.lasts (s.handout c) := by
  cases h : bestStart (s.chan c).candidates with
  | none =>
    unfold State.handout
    rw [h]
    exact State.lasts_of_chan fun _ => rfl
  | some st =>
    rw [State.handout_to h]
    exact (s.handsOver_lasts c st).trans (State.requestBegin_lasts _ c st)

theorem State.checkFence_lasts (s : State) : s.lasts s.checkFence := State.lasts_of_chan fun d => s.checkFence_chan d

theorem State.endUse_lasts (s : State) (c : Fin 4) (a : ChanCause) : s.lasts (s.endUse c a) := by
  obtain ⟨-, hown, hother, -⟩ := s.useClosed_spec c a
  rw [State.endUse_eq]
  refine ((State.lasts_of_own (c := c) ?_ hother).trans (State.handout_lasts _ c)).trans (State.checkFence_lasts _)
  rw [hown]
  exact (s.chan c).ended_fields.1

theorem State.cancelWaiting_lasts (s : State) (c : Fin 4) (a : ChanCause) : s.lasts (s.cancelWaiting c a) := by
  obtain ⟨-, hown, hother, -⟩ := s.waitCancelled_spec c a
  rw [State.cancelWaiting_eq]
  refine ((State.lasts_of_own (c := c) ?_ hother).trans (State.handout_lasts _ c)).trans (State.checkFence_lasts _)
  rw [hown]
  rfl

theorem State.withdrawRequest_lasts (s : State) (k : Fin 6) (c : Fin 4) : s.lasts (s.withdrawRequest k c) := by
  unfold State.withdrawRequest
  dsimp only
  split
  · exact s.endUse_lasts c .withdraw
  · split
    · exact s.cancelWaiting_lasts c .withdraw
    · exact State.lasts_of_own (c := c) (by rw [State.chan_setChan]; rfl) fun d hd =>
        State.chan_setChan_ne _ _ (Ne.symm hd)

theorem State.putLine_lasts (s : State) (k : Fin 6) (l : LineRec) : s.lasts (s.putLine k l) := State.lasts_of_chan fun _ => rfl

theorem State.logLine_lasts (s : State) (k : Fin 6) (o : LineState) (a : LineCause) : s.lasts (s.logLine k o a) :=
  State.lasts_of_chan fun _ => rfl

theorem State.withdrawLine_lasts (s : State) (k : Fin 6) : s.lasts (s.withdrawLine k) := by
  by_cases hno : (s.line k).reqChannel = none ∨ ((s.line k).request ≠ .running ∧ (s.line k).request ≠ .pending)
  · rw [State.withdrawLine_alone hno]
    exact State.lasts_of_chan fun _ => rfl
  · simp only [not_or, not_and_or, not_not] at hno
    obtain ⟨hchan, hreq⟩ := hno
    obtain ⟨c, hc⟩ := Option.ne_none_iff_exists'.mp hchan
    rw [State.withdrawLine_withdraws hc hreq]
    exact (s.putLine_lasts k _).trans ((State.withdrawRequest_lasts _ k c).trans (State.putLine_lasts _ k _))

/-! ### A line withdrawn while no request stands -/

theorem State.withdrawLine_unasked (h : (s.line k).request = .none) : s.withdrawLine k = (s.quieted k).unrequested k :=
  State.withdrawLine_alone (.inr (by simp [h]))

/-! ### Reload of one line (R158) -/

/-- The line, the new plan's entry in force and its input evaluated afresh. -/
def LineRec.entered (l : LineRec) (en : LineEntry) (now : Nat) : LineRec := (l.reloaded en).evaluated now

theorem LineRec.entered_fields (l : LineRec) (en : LineEntry) (now : Nat) :
    (l.entered en now).enabled = en.enabled ∧ (l.entered en now).activeLow = en.activeLow ∧
      (l.entered en now).debounce = en.debounce ∧ (l.entered en now).actions = en.actions ∧
      (l.entered en now).high = l.high ∧ (l.entered en now).acked = false ∧ (l.entered en now).reqChannel = none ∧
      (l.entered en now).request = l.request := by
  unfold LineRec.entered LineRec.evaluated
  split <;> exact ⟨rfl, rfl, rfl, rfl, rfl, rfl, rfl, rfl⟩

theorem LineRec.entered_active {l : LineRec} (now : Nat) (he : en.enabled = true) (h : l.high ≠ en.activeLow) :
    (l.entered en now).state = .debounce ∧ (l.entered en now).deadline = some (now + en.debounce * 1000) := by
  rw [LineRec.entered, LineRec.evaluated_active (l := l.reloaded en) now he h]
  exact ⟨rfl, rfl⟩

theorem LineRec.entered_quiet {l : LineRec} (now : Nat) (h : en.enabled = false ∨ l.high = en.activeLow) :
    (l.entered en now).state = .quiet ∧ (l.entered en now).deadline = none := by
  rw [LineRec.entered, LineRec.evaluated_quiet (l := l.reloaded en) now h]
  exact ⟨rfl, rfl⟩

/-- The state that the evaluation of a reloaded line ends in. -/
theorem LineRec.entered_state (l : LineRec) (en : LineEntry) (now : Nat) : (l.entered en now).state =
    if en.enabled = true ∧ l.high ≠ en.activeLow then .debounce else .quiet := by
  by_cases h : en.enabled = true ∧ l.high ≠ en.activeLow
  · rw [if_pos h, (LineRec.entered_active now h.1 h.2).1]
  · rw [if_neg h]
    rw [not_and_or, Bool.not_eq_true, not_not] at h
    rw [(LineRec.entered_quiet now h).1]

/-- Line `k`'s entry in a plan. -/
def PlanTables.lineEntry (pt : PlanTables) (k : Fin 6) : LineEntry := (parseLine (entryOf 6 pt.lines k.val)).1

theorem State.relinedLogged_lasts (s : State) (k : Fin 6) (set : LineRec → LineRec) (a : LineCause) :
    s.lasts (s.relinedLogged k set a) := by
  unfold State.relinedLogged
  split
  · exact State.putLine_lasts _ _ _
  · exact (State.putLine_lasts s k _).trans (State.logLine_lasts _ k _ _)

theorem reloadLine_eq (s : State) (k : Fin 6) : reloadLine pt s k =
    (if (s.line k).state.inForce then (s.withdrawLine k).logLine k (s.line k).state .reload else s).relinedLogged k
      (fun l => l.reloaded (pt.lineEntry k)) .reload := by
  cases h : (s.line k).state.inForce with
  | true => rw [if_pos rfl]; exact State.applyLine_forced _ _ h
  | false => rw [if_neg (by decide)]; exact State.applyLine_unforced _ _ h

/-- What is in force of line `k` before its new entry is. -/
def State.unforced (s : State) (k : Fin 6) : State :=
  if (s.line k).state.inForce then (s.withdrawLine k).logLine k (s.line k).state .reload else s

theorem State.unforced_spec (s : State) (k : Fin 6) : Frame lineParts s (s.unforced k) ∧ s.lasts (s.unforced k) ∧
    (s.unforced k).plan.change.isSome = s.plan.change.isSome ∧ ((s.unforced k).line k).high = (s.line k).high ∧
    ∀ i, i ≠ k → ((s.unforced k).line i).still = (s.line i).still := by
  unfold State.unforced
  split
  · refine ⟨(s.withdrawLine_frame k).trans ((State.logLine_frame _ _ _ _).wide rfl),
      (s.withdrawLine_lasts k).trans (State.logLine_lasts _ _ _ _), s.withdrawLine_change k, ?_, fun i hi => ?_⟩
    · rw [State.logLine_line, State.withdrawLine_line]
    · rw [State.logLine_line, s.withdrawLine_still k hi]
  · exact ⟨Frame.refl _ s, .refl s, rfl, rfl, fun _ _ => rfl⟩

theorem reloadLine_spec (s : State) (k : Fin 6) : s.lasts (reloadLine pt s k) ∧
    (reloadLine pt s k).plan.change.isSome = s.plan.change.isSome ∧ (reloadLine pt s k).now = s.now ∧
    (∃ old : LineRec, old.high = (s.line k).high ∧ (reloadLine pt s k).line k = old.entered (pt.lineEntry k) s.now) ∧
    ∀ i, i ≠ k → ((reloadLine pt s k).line i).still = (s.line i).still := by
  obtain ⟨hframe, hlasts, hchange, hhigh, hother⟩ := s.unforced_spec k
  have hnow : (s.unforced k).now = s.now := hframe.same .timebase rfl
  have heq : reloadLine pt s k = (s.unforced k).relinedLogged k (fun l => l.reloaded (pt.lineEntry k)) .reload := reloadLine_eq s k
  have hline := (s.unforced k).relinedLogged_line k
  have hrelined := (s.unforced k).relinedLogged_frame k (fun l => l.reloaded (pt.lineEntry k)) .reload rfl
  rw [heq]
  refine ⟨hlasts.trans (State.relinedLogged_lasts _ _ _ _), (hrelined.change_isSome rfl).trans hchange,
    Eq.trans (hrelined.same .timebase rfl) hnow, ⟨(s.unforced k).line k, hhigh, ?_⟩, fun i hi => ?_⟩
  · rw [hline, if_pos rfl, hnow]
    rfl
  · rw [hline, if_neg hi, hother i hi]

/-- The lines of a list reloaded. -/
theorem reloadLines_spec {l : List (Fin 6)} (hl : l.Nodup) (s : State) : s.lasts (l.foldl (reloadLine pt) s) ∧
    (l.foldl (reloadLine pt) s).plan.change.isSome = s.plan.change.isSome ∧ (l.foldl (reloadLine pt) s).now = s.now ∧
    (∀ k ∈ l, ∃ old : LineRec, old.high = (s.line k).high ∧
      ((l.foldl (reloadLine pt) s).line k).still = (old.entered (pt.lineEntry k) s.now).still) ∧
    ∀ k, k ∉ l → ((l.foldl (reloadLine pt) s).line k).still = (s.line k).still := by
  induction l generalizing s with
  | nil => exact ⟨.refl s, rfl, rfl, by simp, fun _ _ => rfl⟩
  | cons a l ih =>
    obtain ⟨hfresh, hrest⟩ := List.nodup_cons.mp hl
    obtain ⟨hlasts, hchange, hnow, ⟨old, hhigh, hown⟩, hother⟩ := reloadLine_spec (pt := pt) s a
    obtain ⟨ilasts, ichange, inow, ilines, iother⟩ := ih hrest (reloadLine pt s a)
    rw [List.foldl_cons]
    refine ⟨hlasts.trans ilasts, ichange.trans hchange, inow.trans hnow, fun k hk => ?_, fun k hk => ?_⟩
    · rcases List.mem_cons.mp hk with rfl | hk
      · exact ⟨old, hhigh, by rw [iother k hfresh, hown]⟩
      · have hne : k ≠ a := fun e => hfresh (e ▸ hk)
        obtain ⟨o, ohigh, oline⟩ := ilines k hk
        have hsame : ((reloadLine pt s a).line k).still.high = (s.line k).still.high := congrArg LineRec.high (hother k hne)
        exact ⟨o, ohigh.trans hsame, by rw [oline, hnow]⟩
    · rw [List.mem_cons, not_or] at hk
      rw [iother k hk.2, hother k hk.1]

/-! ### The reload while no line's request stands -/

/-- No line's request stands. -/
def State.unasked (s : State) : Prop := ∀ k, (s.line k).request = .none

theorem State.unforced_unasked (h : s.unasked) (k : Fin 6) : Frame [.lines, .logQueue, .lostCount] s (s.unforced k) ∧
    (s.unforced k).unasked ∧ (∀ i, i ≠ k → (s.unforced k).line i = s.line i) ∧
    ((s.unforced k).line k).state = (if (s.line k).state.inForce then .quiet else (s.line k).state) ∧
    (s.unforced k).logNow = s.logged
      (if (s.line k).state.inForce then [s.record .lineState k.val (w4 (s.line k).state.code 0 5 0) 0] else []) := by
  unfold State.unforced
  split
  · have hown := s.withdrawLine_line k
    have hother (i : Fin 6) (hi : i ≠ k) : (s.withdrawLine k).line i = s.line i := by
      rw [State.withdrawLine_unasked (h k), State.unrequested_line_ne _ hi, s.quieted_line_ne hi]
    have hquiet : Frame [.lines] s (s.withdrawLine k) := by
      have hlines : Frame [.requests, .lines] s (s.withdrawLine k) := by
        rw [State.withdrawLine_unasked (h k)]
        exact ((s.quieted_frame k).wide rfl).trans ((State.unrequested_frame _ k).wide rfl)
      refine hlines.drop fun i => ?_
      by_cases hi : i = k
      · rw [hi, hown, h k]
      · rw [hother i hi]
    have hlog := State.logLine_after (k := k) (es := []) (old := (s.line k).state) (cause := .reload) hquiet rfl
      (by rw [hquiet.logNow rfl rfl, s.logged_nil])
    refine ⟨(hquiet.wide rfl).trans ((State.logLine_frame _ _ _ _).wide rfl), fun i => ?_, fun i hi => ?_, ?_, ?_⟩
    · rw [State.logLine_line]
      by_cases hi : i = k
      · rw [hi, hown]
      · rw [hother i hi, h i]
    · rw [State.logLine_line, hother i hi]
    · rw [State.logLine_line, hown]
    · rw [hlog, List.nil_append, State.lineRecord_unacked _ _ _ _ _ (by rw [hown]), hown]
      rfl
  · exact ⟨Frame.refl _ s, h, fun _ _ => rfl, rfl, (s.logged_nil).symm⟩

theorem reloadLine_unasked (h : s.unasked) (k : Fin 6) : Frame [.lines, .logQueue, .lostCount] s (reloadLine pt s k) ∧
    (reloadLine pt s k).unasked ∧ (∀ i, i ≠ k → (reloadLine pt s k).line i = s.line i) ∧
    (reloadLine pt s k).logNow = s.logged (s.reloadRecords k (pt.lineEntry k)) := by
  obtain ⟨hframe, hnone, hother, hstate, hlog⟩ := s.unforced_unasked h k
  obtain ⟨-, -, -, hhigh, -⟩ := s.unforced_spec k
  have heq : reloadLine pt s k = (s.unforced k).relinedLogged k (fun l => l.reloaded (pt.lineEntry k)) .reload := reloadLine_eq s k
  have hnow : (s.unforced k).now = s.now := hframe.same .timebase rfl
  have hline := (s.unforced k).relinedLogged_line k
  have hrelined := (s.unforced k).relinedLogged_frame k (fun l => l.reloaded (pt.lineEntry k)) .reload rfl
  have hlogged := (s.unforced k).relinedLogged_logNow k (fun l => l.reloaded (pt.lineEntry k)) .reload
  rw [heq]
  generalize s.unforced k = w at hframe hnone hother hstate hlog hhigh hnow hline hrelined hlogged
  obtain ⟨-, -, -, -, -, hacked, -, hrequest⟩ := (w.line k).entered_fields (pt.lineEntry k) w.now
  refine ⟨hframe.trans hrelined, fun i => ?_, fun i hi => ?_, ?_⟩
  · rw [hline]
    by_cases hi : i = k
    · rw [if_pos hi]
      exact hrequest.trans (hnone k)
    · rw [if_neg hi, hnone i]
  · rw [hline, if_neg hi, hother i hi]
  · have hentered := (w.line k).entered_state (pt.lineEntry k) w.now
    have hrecord : w.lineRecord k ((w.line k).entered (pt.lineEntry k) w.now) (w.line k).state .reload =
        s.record .lineState k.val (w4 (w.line k).state.code ((w.line k).entered (pt.lineEntry k) w.now).state.code 5 0) 0 := by
      rw [State.lineRecord_unacked _ _ _ _ _ hacked, hrequest, hnone k]
      simp only [State.record, hnow]
      rfl
    rw [hlogged, hframe.logged_append rfl _ _ hlog]
    change s.logged (_ ++ if _ = ((w.line k).entered (pt.lineEntry k) w.now).state then [] else
      [w.lineRecord k ((w.line k).entered (pt.lineEntry k) w.now) (w.line k).state .reload]) = _
    rw [hrecord, hentered, hstate, hhigh]
    rfl

theorem reloadLines_unasked {l : List (Fin 6)} (hl : l.Nodup) (h : s.unasked) :
    Frame [.lines, .logQueue, .lostCount] s (l.foldl (reloadLine pt) s) ∧ (l.foldl (reloadLine pt) s).unasked ∧
      (l.foldl (reloadLine pt) s).logNow = s.logged (l.flatMap fun k => s.reloadRecords k (pt.lineEntry k)) := by
  induction l generalizing s with
  | nil => exact ⟨Frame.refl _ s, h, (s.logged_nil).symm⟩
  | cons a l ih =>
    obtain ⟨hfresh, hrest⟩ := List.nodup_cons.mp hl
    obtain ⟨hframe, hnone, hother, hlog⟩ := reloadLine_unasked (pt := pt) h a
    obtain ⟨iframe, inone, ilog⟩ := ih hrest hnone
    have hrecords : (l.flatMap fun k => (reloadLine pt s a).reloadRecords k (pt.lineEntry k)) =
        l.flatMap fun k => s.reloadRecords k (pt.lineEntry k) := by
      refine List.flatMap_congr fun k hk => ?_
      have hnow : (reloadLine pt s a).now = s.now := hframe.same .timebase rfl
      have hk : (reloadLine pt s a).line k = s.line k := hother k fun e => hfresh (e ▸ hk)
      simp only [State.reloadRecords, State.record, hk, hnow]
    rw [List.foldl_cons]
    refine ⟨hframe.trans iframe, inone, ?_⟩
    rw [ilog, hrecords, hframe.logged_append rfl _ _ hlog, List.flatMap_cons]

end Sys2Proof.Machine
end

section
/-! PROOFS. The activation step, and the classification of a read that waited for it (chapter 10: The swap). -/

namespace Sys2Proof.Machine

variable {s t u v : State} {pt : PlanTables} {n : Nat} {b : ReadBurst}

/-! ### A read presented, whatever the transaction before it -/

/-- The state without the transaction at the system port. -/
def State.untxn (s : State) : State := { s with path := { s.path with txn := none } }

theorem State.untxn_closeGather (s : State) (ga : Gather) (st : CloseStatus) :
    s.untxn.closeGather ga st = (s.closeGather ga st).untxn := by
  cases st <;> rfl

theorem State.untxn_outputRead (s : State) (g : Fin 12) (x : Nat) :
    s.untxn.outputRead g x = ((s.outputRead g x).1.untxn, (s.outputRead g x).2) := by
  have hopen : s.untxn.openAt g x = s.openAt g x := rfl
  have hcount (u : State) : u.untxn.closingCount g x = u.closingCount g x := rfl
  have hput (ga : Gather) : s.untxn.putOpen ga = (s.putOpen ga).untxn := rfl
  have hgrp : s.untxn.grp g = s.grp g := rfl
  unfold State.outputRead
  dsimp only
  rw [hopen, hgrp]
  cases s.openAt g x with
  | none =>
    simp only [hcount]
    split <;> rfl
  | some ga =>
    cases (s.grp g).policy with
    | onRead => simp only [State.untxn_closeGather, hcount]
    | wait =>
      simp only [hput, State.untxn_closeGather, hcount]
      split <;> rfl

theorem State.untxn_presentRead (s : State) (b : ReadBurst) : s.untxn.presentRead b = s.presentRead b := by
  have hclass : s.untxn.classify b.addr = s.classify b.addr := rfl
  have hout (g : Fin 12) : s.untxn.presentOutput b g = s.presentOutput b g := by
    unfold State.presentOutput
    dsimp only
    rw [show s.untxn.grp g = s.grp g from rfl, State.untxn_outputRead]
    cases (s.outputRead g ((s.grp g).outputPos b.addr)).2 <;> rfl
  unfold State.presentRead
  rw [hclass]
  cases s.classify b.addr with
  | output g => simp only [hout]; rfl
  | _ => rfl

theorem Same.transaction_unclassified (h : Same .transaction s t) (b : ReadBurst) :
    t.path.txn = some (.unclassified b) ↔ s.path.txn = some (.unclassified b) := by
  have hstill (x : Txn) : x.still = .unclassified b ↔ x = .unclassified b := by
    cases x with
    | read r => cases r with | mk _ _ _ _ _ phase => cases phase <;> simp [Txn.still]
    | _ => simp [Txn.still]
  have hmap (u : State) : u.path.txn.map Txn.still = some (.unclassified b) ↔ u.path.txn = some (.unclassified b) := by
    cases u.path.txn <;> simp [hstill]
  rw [← hmap t, ← hmap s, show t.path.txn.map Txn.still = s.path.txn.map Txn.still from h]

/-! ### The steps of the activation (R172) -/

/-- The tables of the plan in force, every line reloaded. -/
@[irreducible] def State.reloaded (s : State) (pt : PlanTables) : State := (List.finRange 6).foldl (reloadLine pt) (s.installTables pt)

/-- The part RUNNING, its generation one on, no plan error. -/
def State.renumbered (s : State) : State :=
  { s.setPartState .running with plan := { (s.setPartState .running).plan with
      generation := wrap16 s.plan.generation, lastError := .none } }

theorem State.renumbered_frame (s : State) : Frame [.partState, .generation, .lastError] s s.renumbered := by
  intro p hp
  cases p <;> first
    | exact absurd (by decide) hp
    | simp [Same, State.renumbered, State.setPartState, State.chan, State.line]

/-- The state in which the activation logs. -/
def State.activating (s : State) (pt : PlanTables) : State := (s.reloaded pt).renumbered

/-- The records logged, every mirror record dirty. -/
def State.announced (s : State) (pt : PlanTables) (n : Nat) : State :=
  ((s.activating pt).logLoaded s.plan.partState n).markAll

theorem State.activate_eq (s : State) (pt : PlanTables) (n : Nat) : s.activate pt n =
    ((if s.plan.partState = .running then s.announced pt n else (s.announced pt n).writeState).writeGen).finish .done := by
  unfold State.activate State.announced State.activating State.reloaded
  dsimp only
  generalize (List.finRange 6).foldl (reloadLine pt) (s.installTables pt) = x
  rfl

theorem State.activating_frame (s : State) (pt : PlanTables) :
    Frame [.partState, .generation, .lastError] (s.reloaded pt) (s.activating pt) := (s.reloaded pt).renumbered_frame

theorem State.announced_frame (s : State) (pt : PlanTables) (n : Nat) :
    Frame [.logQueue, .lostCount] (s.activating pt) (s.announced pt n) :=
  (State.logLoaded_frame _ _ n).trans ((State.markAll_frame _).mono (by simp))

theorem State.activate_announced_frame (s : State) (pt : PlanTables) (n : Nat) :
    Frame [.change] (s.announced pt n) (s.activate pt n) := by
  rw [State.activate_eq]
  refine Frame.trans ?_ (State.finish_frame _ _)
  refine Frame.trans ?_ ((State.writeGen_frame _).mono (by simp))
  exact Frame.ite (Frame.refl _ _) ((State.writeState_frame _).mono (by simp))

theorem State.activate_logged_frame (s : State) (pt : PlanTables) (n : Nat) :
    Frame [.change, .logQueue, .lostCount] (s.activating pt) (s.activate pt n) :=
  ((s.announced_frame pt n).wide rfl).trans ((s.activate_announced_frame pt n).wide rfl)

theorem State.logLoaded_eq (s : State) (before : PartState) (n : Nat) : s.logLoaded before n =
    (s.log .planLoaded s.plan.generation (w2 before.code n) 0).logClamped n := rfl

theorem State.activate_logNow (s : State) (pt : PlanTables) (n : Nat) : (s.activate pt n).logNow =
    (s.activating pt).logged ((s.activating pt).record .planLoaded (s.activating pt).plan.generation
      (w2 s.plan.partState.code n) 0 :: (s.activating pt).clampedRecords n) := by
  have hannounced : (s.announced pt n).logNow = ((s.activating pt).logLoaded s.plan.partState n).logNow := rfl
  rw [(s.activate_announced_frame pt n).logNow rfl rfl, hannounced, State.logLoaded_eq, State.logClamped_logNow]
  generalize s.activating pt = u
  have hlog := u.log_frame .planLoaded u.plan.generation (w2 s.plan.partState.code n) 0
  rw [hlog.logged_append rfl _ _ (State.log_logNow _ _ _ _ _)]
  rfl

theorem State.reloaded_spec (s : State) (pt : PlanTables) : (s.installTables pt).lasts (s.reloaded pt) ∧
    (s.reloaded pt).plan.change.isSome = s.plan.change.isSome ∧
    ∀ k, ∃ old : LineRec, old.high = (s.line k).high ∧
      ((s.reloaded pt).line k).still = (old.entered (pt.lineEntry k) s.now).still := by
  obtain ⟨hlasts, hchange, -, hlines, -⟩ := reloadLines_spec (pt := pt) (List.nodup_finRange 6) (s.installTables pt)
  unfold State.reloaded
  have hline (k : Fin 6) : (s.installTables pt).line k = s.line k := rfl
  have hnow : (s.installTables pt).now = s.now := rfl
  have hplan : (s.installTables pt).plan.change = s.plan.change := rfl
  simp only [hline, hnow, hplan] at hchange hlines
  exact ⟨hlasts, hchange, fun k => hlines k (List.mem_finRange k)⟩

/-- What the last steps make ready to be written. -/
theorem State.activate_ready (s : State) (pt : PlanTables) (n : Nat) (hchange : s.plan.change.isSome = true) :
    (s.activate pt n).answered .done 0 0 ∧ (s.activate pt n).planHas (.genField (s.activate pt n).plan.generation) ∧
      (s.plan.partState ≠ .running → (s.activate pt n).planHas (.stateField .running)) ∧
      ∀ m, m < 47 → (s.activate pt n).mirrorDue m := by
  have hgen : (s.activate pt n).plan.generation = (s.announced pt n).plan.generation :=
    (s.activate_announced_frame pt n).same .generation rfl
  have hrunning : (s.announced pt n).plan.partState = .running := (s.announced_frame pt n).same .partState rfl
  have hkept : (s.announced pt n).plan.change.isSome = true := by
    rw [(s.announced_frame pt n).change_isSome rfl, (s.activating_frame pt).change_isSome rfl, (s.reloaded_spec pt).2.1, hchange]
  have hall : (s.announced pt n).report.dirty = BitVec.allOnes 47 := rfl
  rw [hgen, State.activate_eq]
  generalize s.announced pt n = w at hkept hrunning hall
  have hdirty : ((if s.plan.partState = .running then w else w.writeState).writeGen.finish .done).report.dirty = w.report.dirty := by
    split <;> rfl
  have hgenReady : (if s.plan.partState = .running then w else w.writeState).writeGen.planHas (.genField w.plan.generation) := by
    split <;> exact .inl (by simp [State.writeGen, State.writeState, State.planOut])
  refine ⟨State.finish_answered _ _ ?_, State.finish_planHas _ hgenReady, fun hold => State.finish_planHas _ ?_, fun m hm => .inl ?_⟩
  · split <;> exact hkept
  · rw [if_neg hold]
    exact .inl (by simp [State.writeGen, State.writeState, State.planOut, hrunning])
  · rw [hdirty, hall, BitVec.getLsbD_allOnes, decide_eq_true hm]

end Sys2Proof.Machine
end

section
/-! PROOFS. What the activation step puts in force (chapter 10: The swap). -/

namespace Sys2Proof.Machine

variable {s t : State} {pt : PlanTables} {n : Nat}

/-! ### The tables in force, one by one -/

theorem swappedSection_values (en : Bool) (timeout now : Nat) (old : SectionRec) :
    (swappedSection en timeout now old).transitions = 0 ∧ (swappedSection en timeout now old).feederFault = false ∧
      (swappedSection en timeout now old).unitAlarm = false ∧ (swappedSection en timeout now old).enabled = en ∧
      (swappedSection en timeout now old).lossTimeout = timeout ∧
      (en = true → (swappedSection en timeout now old).state = .unseen ∧ (swappedSection en timeout now old).refresh = now ∧
        (swappedSection en timeout now old).deadline = some (now + timeout * 1000)) ∧
      (en = false → (swappedSection en timeout now old).state = .disabled ∧ (swappedSection en timeout now old).deadline = none) := by
  refine ⟨rfl, rfl, rfl, rfl, rfl, ?_, ?_⟩
  · rintro rfl
    exact ⟨rfl, rfl, rfl⟩
  · rintro rfl
    exact ⟨rfl, rfl⟩

theorem PlanTables.programmes_present {p : Fin 6} {r : RawRegion} (h : pt.find 2 p.val = some r) (now : Nat) :
    (pt.programmes now).get p = ⟨true, r.base, pt.progLen p.val, 0, 0, now⟩ := by
  simp [PlanTables.programmes, h]

theorem PlanTables.programmes_absent {p : Fin 6} (h : pt.find 2 p.val = none) (now : Nat) :
    (pt.programmes now).get p = ⟨false, 0, 64, 0, 0, now⟩ := by
  simp [PlanTables.programmes, h]

theorem PlanTables.programmes_start (pt : PlanTables) (p : Fin 6) (now : Nat) : ((pt.programmes now).get p).head = 0 ∧
    ((pt.programmes now).get p).gen = 0 ∧ ((pt.programmes now).get p).lastAdvance = now := by
  cases h : pt.find 2 p.val with
  | some r => rw [PlanTables.programmes_present h]; exact ⟨rfl, rfl, rfl⟩
  | none => rw [PlanTables.programmes_absent h]; exact ⟨rfl, rfl, rfl⟩

theorem toFin?_val {m : Nat} (p : Fin m) : toFin? m p.val = some p := dif_pos p.isLt

theorem toFin?_none {m v : Nat} (h : m ≤ v) : toFin? m v = none := dif_neg (Nat.not_lt.mpr h)

theorem PlanTables.groupTable_present {g : Fin 12} {e : GroupEntry} {kind : GroupKind} {up out : RawRegion}
    (he : (pt.group g.val).1 = e) (hpresent : e.present = true) (hkind : groupKindOf e.kind = some kind)
    (hup : pt.find 4 g.val = some up) (hout : pt.find 5 g.val = some out) : pt.groupTable.get g =
      { present := true, kind := kind, set := e.set, ringLen := e.ringLen, uplinkBase := up.base, outputBase := out.base,
        closeDelay := e.closeDelay, policy := e.policy, retryLimit := e.retryLimit, vote := e.vote, bands := e.bands,
        lastWinner := none, gates := Table.fill 8 ⟨0, Table.fill 24 0⟩, counts := Table.fill 7 0, duplicates := 0,
        lates := 0 } := by
  simp only [PlanTables.groupTable, Table.get_ofFn, hup, hout, he, loadGroup, hpresent, if_true, hkind, Option.getD_some]
  rfl

theorem PlanTables.groupTable_absent {g : Fin 12} (h : (pt.group g.val).1.present = false) :
    pt.groupTable.get g = Group.atReset := by
  simp [PlanTables.groupTable, loadGroup, h]

theorem PlanTables.installed_get (pt : PlanTables) (e : Fin 40) : pt.installed.get e =
    if (pt.region e.val).kind = 0 then none
    else some ⟨(pt.region e.val).lineKind, (pt.region e.val).base, pt.sizeOf (pt.region e.val)⟩ := by
  simp [PlanTables.installed]

theorem State.installTables_lasting (s : State) (pt : PlanTables) (c : Fin 4) :
    ((s.installTables pt).chan c).lasting = ((parseChannel (entryOf 5 pt.chans c.val)).1, 0, 0, 0, 0) := by
  simp [State.installTables, State.chan, PlanTables.channels, Chan.lasting, Chan.swapped]

/-- A line reloaded from a record with the raw level it had. -/
theorem LineRec.entered_values {l old new : LineRec} {e : LineEntry} {now : Nat} (hhigh : old.high = l.high)
    (hnew : new.still = (old.entered e now).still) :
    new.enabled = e.enabled ∧ new.activeLow = e.activeLow ∧ new.debounce = e.debounce ∧ new.actions = e.actions ∧
      new.high = l.high ∧ new.acked = false ∧ new.reqChannel = none ∧
      (e.enabled = true → l.high ≠ e.activeLow → new.state = .debounce ∧ new.deadline = some (now + e.debounce * 1000)) ∧
      (e.enabled = false ∨ l.high = e.activeLow → new.state = .quiet ∧ new.deadline = none) := by
  obtain ⟨hen, hlow, hdeb, hact, hraw, hack, hreq, -⟩ := old.entered_fields e now
  have hfield {α : Type} (f : LineRec → α) (hf : ∀ x : LineRec, f x.still = f x) : f new = f (old.entered e now) := by
    rw [← hf new, hnew, hf]
  refine ⟨(hfield _ fun _ => rfl).trans hen, (hfield _ fun _ => rfl).trans hlow, (hfield _ fun _ => rfl).trans hdeb,
    (hfield _ fun _ => rfl).trans hact, ((hfield _ fun _ => rfl).trans hraw).trans hhigh, (hfield _ fun _ => rfl).trans hack,
    (hfield _ fun _ => rfl).trans hreq, fun he hl => ?_, fun hq => ?_⟩
  · rw [← hhigh] at hl
    obtain ⟨hstate, hdeadline⟩ := LineRec.entered_active now he hl
    exact ⟨(hfield LineRec.state fun _ => rfl).trans hstate, (hfield LineRec.deadline fun _ => rfl).trans hdeadline⟩
  · rw [← hhigh] at hq
    obtain ⟨hstate, hdeadline⟩ := LineRec.entered_quiet now hq
    exact ⟨(hfield LineRec.state fun _ => rfl).trans hstate, (hfield LineRec.deadline fun _ => rfl).trans hdeadline⟩

/-! ### The state after the step -/

/-- Nothing changes but what the end of a command does, and what was to be written still is. -/
def State.passesOn (s t : State) : Prop :=
  Frame [] s t ∧ (∀ x, s.planHas x → t.planHas x) ∧ ∀ m, s.mirrorDue m → t.mirrorDue m

theorem State.passesOn.refl (s : State) : s.passesOn s := ⟨Frame.refl [] s, fun _ h => h, fun _ h => h⟩

theorem State.passesOn_settle (s : State) : s.passesOn s.settle :=
  ⟨s.settle_frame, fun x h => s.settle_planHas x h, fun m h => s.settle_mirrorDue m h⟩

theorem State.passesOn.answered {r : ResultCode} {x y : Nat} (h : s.passesOn t) (ha : s.answered r x y) : t.answered r x y := by
  obtain ⟨hframe, hhas, -⟩ := h
  have hchange : t.plan.change = s.plan.change := hframe.same .change rfl
  exact ⟨by rw [State.stage, hchange]; exact ha.1, hhas _ ha.2⟩

/-- A swap that is ready to install its plan (R33). -/
theorem State.drained_eq {st : Staged} (hstage : s.stage = some (.draining n)) (hst : s.plan.staged = some st)
    (hq : s.path.queue = []) (hr : s.readInProgress = false) : s.drained = some (st, n) := by
  simp [State.drained, hstage, hst, hq, hr]

theorem exec_activationStep {st : Staged} (hreset : s.inReset = false) (hdrained : s.drained = some (st, n)) :
    exec .activationStep s = .next (s.activate st.tables n).classifyDeferred.settle := by
  have heffect : s.activateStaged = (s.activate st.tables n).classifyDeferred := by
    rw [State.activateStaged, hdrained]
  rw [← heffect]
  exact exec_effect rfl rfl hreset (by simp [State.effect, hdrained])

theorem State.classifyDeferred_none (h : ∀ x, s.path.txn ≠ some (.unclassified x)) : s.classifyDeferred = s := by
  unfold State.classifyDeferred
  split
  · next x hx => exact absurd hx (h x)
  · rfl

theorem State.classifyDeferred_some {x : ReadBurst} (h : s.path.txn = some (.unclassified x)) :
    s.classifyDeferred = s.presentRead x := by
  unfold State.classifyDeferred
  rw [h]

/-- A read presented to an idle port. -/
theorem exec_hostRead_untxn {x : ReadBurst} (hw : (Instr.hostRead x).wf = true) (hreset : s.inReset = false)
    (hstage : s.stage = some .writingBack) :
    s.untxn.portIdle ∧ exec (.hostRead x) s.untxn = .next (s.presentRead x).settle := by
  have hstay : s.untxn.stage = some .writingBack := hstage
  refine ⟨⟨hreset, rfl, ?_⟩, ?_⟩
  · rintro ⟨⟨m, hm⟩, -⟩
    rw [hstay] at hm
    cases hm
  · have hdrained : s.untxn.drained = none := by
      unfold State.drained
      rw [hstay]
    have hnone : s.untxn.path.txn = none := rfl
    have heffect : s.untxn.effect (.hostRead x) = (true, s.untxn.presentRead x) := by simp [State.effect, hdrained, hnone]
    rw [exec_effect (s := s.untxn) hw rfl hreset (by rw [heffect]), heffect, State.untxn_presentRead]

theorem State.reloaded_frame (s : State) (pt : PlanTables) : Frame lineParts (s.installTables pt) (s.reloaded pt) := by
  unfold State.reloaded
  exact Frame.foldl (reloadLine pt) (fun s k => reloadLine_frame s pt k) (List.finRange 6) _

theorem State.activate_after_frame (s : State) (pt : PlanTables) (n : Nat) :
    Frame [.partState, .generation, .lastError, .change, .logQueue, .lostCount] (s.reloaded pt) (s.activate pt n) := by
  unfold State.reloaded
  exact s.activate_reloaded_frame pt n

theorem State.reloaded_unasked (h : s.unasked) : (s.reloaded pt).unasked ∧ (s.reloaded pt).logNow =
    { s with report := { s.report with logLen := pt.d.logLen } }.logged
      ((List.finRange 6).flatMap fun k => s.reloadRecords k (pt.lineEntry k)) := by
  obtain ⟨-, hnone, hlog⟩ := reloadLines_unasked (pt := pt) (List.nodup_finRange 6) (s := s.installTables pt) h
  unfold State.reloaded
  exact ⟨hnone, hlog.trans rfl⟩

theorem State.renumbered_plan (s : State) : s.renumbered.plan.generation = wrap16 s.plan.generation ∧
    s.renumbered.plan.partState = .running ∧ s.renumbered.plan.lastError = .none := ⟨rfl, rfl, rfl⟩

/-- The state in which the activation logs, and what the step does from there. -/
theorem State.activate_logs (s : State) (pt : PlanTables) (n : Nat) : ∃ u : State,
    u.plan.generation = (s.plan.generation + 1) % 65536 ∧ u.plan.partState = .running ∧ u.plan.lastError = .none ∧
      Frame [.change, .logQueue, .lostCount] u (s.activate pt n) ∧
      (s.activate pt n).logNow = u.logged (u.record .planLoaded u.plan.generation (w2 s.plan.partState.code n) 0 ::
        u.clampedRecords n) ∧
      (s.unasked → u.logNow = { s with report := { s.report with logLen := pt.d.logLen } }.logged
        ((List.finRange 6).flatMap fun k => s.reloadRecords k (pt.lineEntry k))) := by
  obtain ⟨hgen, hpart, herr⟩ := (s.reloaded pt).renumbered_plan
  have hkept : (s.reloaded pt).plan.generation = (s.installTables pt).plan.generation :=
    (s.reloaded_frame pt).same .generation rfl
  have hinstalled : (s.installTables pt).plan.generation = s.plan.generation := rfl
  rw [hkept, hinstalled, wrap16] at hgen
  exact ⟨s.activating pt, hgen, hpart, herr, s.activate_logged_frame pt n, s.activate_logNow pt n,
    fun h => ((s.activating_frame pt).logNow rfl rfl).trans (State.reloaded_unasked h).2⟩

/-- The channels, with the new plan's defaults and every counter 0 (R80). -/
theorem State.activate_lasting (s : State) (pt : PlanTables) (n : Nat) (c : Fin 4) :
    ((s.activate pt n).chan c).lasting = ((parseChannel (entryOf 5 pt.chans c.val)).1, 0, 0, 0, 0) := by
  obtain ⟨hlasts, -, -⟩ := s.reloaded_spec pt
  have hstill := (s.activate_after_frame pt n).same .channels rfl c
  rw [← Chan.lasting_still, hstill, ← State.installTables_lasting s pt c]
  exact hlasts c

theorem State.activate_line (s : State) (pt : PlanTables) (n : Nat) (k : Fin 6) :
    ∃ old : LineRec, old.high = (s.line k).high ∧
      ((s.activate pt n).line k).still = (old.entered (pt.lineEntry k) s.now).still := by
  obtain ⟨-, -, hlines⟩ := s.reloaded_spec pt
  obtain ⟨old, hhigh, hline⟩ := hlines k
  have hstill := (s.activate_after_frame pt n).same .lines rfl k
  exact ⟨old, hhigh, Eq.trans hstill hline⟩

theorem State.activate_unasked (h : s.unasked) : (s.activate pt n).unasked := fun k =>
  Eq.trans ((s.activate_after_frame pt n).same .requests rfl k) ((State.reloaded_unasked h).1 k)

/-- Settles O52: the state `t` before a waiting read is classified, table by table, and the classification as HOST_READ in `t`. -/
theorem activationInstallsPlan : Obligations.ActivationInstallsPlan := by
  intro n st s pt hreset hstage hst hq hr hpt
  have hchange : s.plan.change.isSome = true := by
    cases h : s.plan.change with
    | none => rw [State.stage, h] at hstage; cases hstage
    | some c => rfl
  have hexec := exec_activationStep hreset (State.drained_eq hstage hst hq hr)
  rw [← hpt] at hexec
  obtain ⟨hans, hgenReady, hstateReady, hmirror⟩ := s.activate_ready pt n hchange
  have hall : Frame activationParts s (s.activate pt n) := s.activate_frame pt n
  have hstay (x : ReadBurst) := (hall.same .transaction rfl).transaction_unclassified x
  obtain ⟨t, hpass, hidle, hdeferred⟩ : ∃ t, (s.activate pt n).passesOn t ∧
      ((∀ x, s.path.txn ≠ some (.unclassified x)) → t = (s.activate pt n).classifyDeferred.settle) ∧
      (∀ x w, s.path.txn = some (.unclassified x) → (Instr.hostRead x).wf = true → w = t.untxn →
        w.portIdle ∧ exec (.hostRead x) w = .next (s.activate pt n).classifyDeferred.settle) := by
    by_cases hread : ∃ x, s.path.txn = some (.unclassified x)
    · obtain ⟨x, hx⟩ := hread
      refine ⟨s.activate pt n, .refl _, fun h => absurd hx (h x), fun y w hy hw hwt => ?_⟩
      have hin : (s.activate pt n).inReset = false := Eq.trans (hall.same .resetLine rfl) hreset
      rw [hwt, State.classifyDeferred_some ((hstay y).mpr hy)]
      exact exec_hostRead_untxn hw hin hans.1
    · rw [not_exists] at hread
      refine ⟨(s.activate pt n).settle, State.passesOn_settle _, fun _ => ?_, fun y w hy => absurd hy (hread y)⟩
      rw [State.classifyDeferred_none fun x hx => hread x ((hstay x).mp hx)]
  have hready := hpass.answered hans
  obtain ⟨u, hgen, hrunning, hnoError, hlogs, hlog, hasked⟩ := s.activate_logs pt n
  have hin := s.activate_installed_frame pt n
  have hunasked (h : s.unasked) := State.activate_unasked (pt := pt) (n := n) h
  have hchans := s.activate_lasting pt n
  have hlines := s.activate_line pt n
  clear hstay hans
  generalize s.activate pt n = v at *
  obtain ⟨hsame, hhas, hdue⟩ := hpass
  have hlater : Frame (.partState :: .generation :: .lastError :: lineParts) (s.installTables pt) t := hin.trans (hsame.mono (by simp))
  have hulater : Frame [.change, .logQueue, .lostCount] u t := hlogs.trans (hsame.mono (by simp))
  have hgenT : t.plan.generation = u.plan.generation := hulater.same .generation rfl
  have hgenV : t.plan.generation = v.plan.generation := hsame.same .generation rfl
  have hsections : t.sections = pt.sectionTable s.sections s.now := hlater.same .sections rfl
  have hprogs : t.tracker.progs = pt.programmes s.now := hlater.same .programmes rfl
  have hgroups : t.gather.groups = pt.groupTable := hlater.same .groups rfl
  obtain ⟨hregions, himplicit⟩ := hlater.same .regions rfl
  obtain ⟨href, htiming, hwatch, hfree, hcount⟩ := hlater.same .timing rfl
  obtain ⟨hmirrorBase, hlogBase, hlogLen⟩ := hlater.same .reportBases rfl
  refine ⟨_, t, u, hexec, hidle, hdeferred, fun e => ?_, himplicit, hlater.same .descriptors rfl, hlater.same .staged rfl,
    Eq.trans (hulater.same .partState rfl) hrunning, hgenT.trans hgen, Eq.trans (hulater.same .lastError rfl) hnoError, hready,
    by rw [hgenV]; exact hhas _ hgenReady, fun h => hhas _ (hstateReady h), fun k => ?_, fun p => ?_, hcount, fun p hp => ?_,
    fun hp => ?_, hlater.same .taking rfl, fun g e kind up out he hpresent hkind hup hout => ?_, fun g hg => ?_,
    fun k e he => ?_, fun h => ⟨fun k => ?_, hasked h⟩, fun c => ?_, hmirrorBase, hlogBase, hlogLen,
    hlater.same .attnMask rfl, (hlater.same .logIndices rfl).1, fun m hm => hdue m (hmirror m hm), hulater, ?_,
    hall.trans (hsame.mono (by simp))⟩
  · rw [hregions]
    exact pt.installed_get e
  · have hsec : t.sec k = swappedSection (parseSection (entryOf 3 pt.secs k.val)).1.1
        (parseSection (entryOf 3 pt.secs k.val)).1.2 s.now (s.sections.get k) := by
      rw [State.sec, hsections, PlanTables.sectionTable, Table.get_ofFn]
    rw [hsec]
    exact swappedSection_values _ _ _ _
  · have hprog : t.prog p = (pt.programmes s.now).get p := by rw [State.prog, hprogs]
    obtain ⟨hhead, hzero, hadvance⟩ := pt.programmes_start p s.now
    rw [hprog]
    refine ⟨hhead, hzero, hadvance, fun r hr => ?_, fun hnone => ?_⟩
    · rw [PlanTables.programmes_present hr]
      exact ⟨rfl, rfl, rfl⟩
    · rw [PlanTables.programmes_absent hnone]
      exact ⟨rfl, rfl, rfl⟩
  · have hsome : toFin? 6 pt.d.reference = some p := by rw [hp, toFin?_val]
    refine ⟨href.trans hsome, ?_, ?_, ?_⟩
    · rw [htiming]; simp [State.installTables, swappedTracker, hsome]
    · rw [hwatch]; simp [State.installTables, swappedTracker, hsome, watchdogTime]
    · rw [hfree]; simp [State.installTables, swappedTracker, hsome]
  · have hnone : toFin? 6 pt.d.reference = none := toFin?_none hp
    refine ⟨href.trans hnone, ?_, ?_, ?_⟩
    · rw [htiming]; simp [State.installTables, swappedTracker, hnone]
    · rw [hwatch]; simp [State.installTables, swappedTracker, hnone]
    · rw [hfree]; simp [State.installTables, swappedTracker, hnone, freeRunPeriod]
  · rw [State.grp, hgroups]
    exact PlanTables.groupTable_present he hpresent hkind hup hout
  · rw [State.grp, hgroups]
    exact PlanTables.groupTable_absent hg
  · obtain ⟨old, hhigh, hline⟩ := hlines k
    have hstill : (t.line k).still = (old.entered e s.now).still := by
      rw [← he]
      exact Eq.trans (hsame.same .lines rfl k) hline
    exact LineRec.entered_values hhigh hstill
  · exact Eq.trans (hsame.same .requests rfl k) (hunasked h k)
  · have hlast : (t.chan c).lasting = ((parseChannel (entryOf 5 pt.chans c.val)).1, 0, 0, 0, 0) := by
      rw [← Chan.lasting_still, hsame.same .channels rfl c, Chan.lasting_still]
      exact hchans c
    simpa only [Chan.lasting, Prod.mk.injEq] using hlast
  · rw [hsame.logNow rfl rfl, hlog, hgenT]

end Sys2Proof.Machine
end

section
/-! PROOFS. A block-time event does not depend on the burst on the memory port (chapters 02, 03, 04, 05). -/

namespace Sys2Proof.Machine

variable {s : State} {c : Fin 4} {k : Fin 24}

/-! ### What a state with the port freed reads -/

@[simp] theorem State.freePort_chan (s : State) (c : Fin 4) : s.freePort.chan c = s.chan c := rfl
@[simp] theorem State.freePort_brk (s : State) (k : Fin 24) : s.freePort.brk k = s.brk k := rfl
@[simp] theorem State.freePort_clipQueued (s : State) : s.freePort.clipQueued = s.clipQueued := rfl
@[simp] theorem State.freePort_alignRow (s : State) (n : Nat) : s.freePort.alignRow n = s.alignRow n := rfl

theorem foldl_freePort {α : Type} {f : State → α → State} (h : ∀ s a, f s.freePort a = (f s a).freePort) (l : List α) (s : State) :
    l.foldl f s.freePort = (l.foldl f s).freePort := by
  induction l generalizing s with
  | nil => rfl
  | cons a l ih => rw [List.foldl_cons, h, ih, List.foldl_cons]

/-- A choice between two states, on a condition that the port does not touch. -/
theorem ite_freePort {p : Prop} [Decidable p] {a b u v : State} (ha : p → u = a.freePort) (hb : ¬p → v = b.freePort) :
    (if p then u else v) = (if p then a else b).freePort := by
  by_cases h : p
  · rw [if_pos h, if_pos h, ha h]
  · rw [if_neg h, if_neg h, hb h]

/-! ### Records, logs and marks -/

@[simp] theorem State.setChan_freePort (s : State) (c : Fin 4) (x : Chan) : s.freePort.setChan c x = (s.setChan c x).freePort := rfl
@[simp] theorem State.putChan_freePort (s : State) (c : Fin 4) (x : Chan) : s.freePort.putChan c x = (s.putChan c x).freePort := rfl
@[simp] theorem State.log_freePort (s : State) (kd : LogKind) (n : Nat) (d1 d2 : Word) :
    s.freePort.log kd n d1 d2 = (s.log kd n d1 d2).freePort := rfl
@[simp] theorem State.logChan_freePort (s : State) (c : Fin 4) (o : ChanState) (a : ChanCause) :
    s.freePort.logChan c o a = (s.logChan c o a).freePort := rfl
@[simp] theorem State.putBrk_freePort (s : State) (k : Fin 24) (b : BreakRec) : s.freePort.putBrk k b = (s.putBrk k b).freePort := rfl
@[simp] theorem State.setArmed_freePort (s : State) (c : Fin 4) (b : Bool) : s.freePort.setArmed c b = (s.setArmed c b).freePort := rfl
@[simp] theorem State.finish_freePort (s : State) (r : ResultCode) : s.freePort.finish r = (s.finish r).freePort := rfl
@[simp] theorem State.putChanState_freePort (s : State) (c : Fin 4) (x : ChanState) (a : ChanCause) :
    s.freePort.putChanState c x a = (s.putChanState c x a).freePort := rfl

@[simp] theorem State.tellOwner_freePort (s : State) (o : Option Owner) (r : ReqStatus) :
    s.freePort.tellOwner o r = (s.tellOwner o r).freePort := by
  cases o with
  | none => rfl
  | some o => cases o <;> rfl

/-! ### Joins, releases and steps -/

theorem joinSection_freePort (c : Fin 4) (n : Nat) (s : State) (k : Fin 24) :
    joinSection c n s.freePort k = (joinSection c n s k).freePort := by
  have hdrop (u : State) (e : Option (Fin 4)) : u.freePort.dropSuspended k e c n = (u.dropSuspended k e c n).freePort := by
    cases e <;> rfl
  have hrefuse (b : BreakRec) : s.freePort.logRefused k c n b = (s.logRefused k c n b).freePort := rfl
  refine ite_freePort (p := (s.sec k).state = .disabled) (fun _ => rfl) fun _ => ?_
  rw [State.freePort_brk]
  cases (s.brk k).active with
  | none => rfl
  | some a =>
    refine ite_freePort (p := (s.chan a).prio < n) (fun _ => by rw [State.putBrk_freePort, hdrop]) fun _ => ?_
    exact ite_freePort (fun _ => by rw [State.putBrk_freePort, hdrop]) fun _ => hrefuse _

@[simp] theorem State.join_freePort (s : State) (c : Fin 4) (m : SecSet) (n : Nat) :
    s.freePort.join c m n = (s.join c m n).freePort := by
  rw [State.join, foldl_freePort (joinSection_freePort c n), State.setArmed_freePort]
  rfl

theorem releaseSection_freePort (c : Fin 4) (s : State) (k : Fin 24) :
    releaseSection c s.freePort k = (releaseSection c s k).freePort := by
  refine ite_freePort (p := (s.brk k).active = some c) (fun _ => ?_) fun _ => ?_
  · rw [State.freePort_brk]
    cases (s.brk k).suspended <;> rfl
  · exact ite_freePort (p := (s.brk k).suspended = some c) (fun _ => rfl) fun _ => rfl

@[simp] theorem State.release_freePort (s : State) (c : Fin 4) : s.freePort.release c = (s.release c).freePort :=
  foldl_freePort (releaseSection_freePort c) _ s

theorem stepSection_freePort (s : State) (k : Fin 24) : stepSection s.freePort k = (stepSection s k).freePort := rfl

@[simp] theorem State.stepGains_freePort (s : State) (m : SecSet) : s.freePort.stepGains m = (s.stepGains m).freePort :=
  foldl_freePort stepSection_freePort _ s

/-! ### Begins, handouts and ends -/

@[simp] theorem State.requestLine_freePort (s : State) (c : Fin 4) (n : Nat) :
    s.freePort.requestLine c n = (s.requestLine c n).freePort := by
  exact ite_freePort (fun _ => rfl) fun _ => rfl

@[simp] theorem State.beginNow_freePort (s : State) (c : Fin 4) (st : Start) (o : ChanState) (a : ChanCause) :
    s.freePort.beginNow c st o a = (s.beginNow c st o a).freePort := by
  simp only [State.beginNow, State.freePort_chan, State.freePort_alignRow, State.putChan_freePort, State.requestLine_freePort,
    State.join_freePort, State.logChan_freePort, State.finish_freePort]
  split_ifs <;> rfl

theorem beginWaiting_freePort (s : State) (c : Fin 4) : beginWaiting s.freePort c = (beginWaiting s c).freePort := by
  cases h : (s.chan c).waiting with
  | none => rw [beginWaiting_none s h, beginWaiting_none s.freePort h]
  | some st => rw [beginWaiting_some s h, beginWaiting_some s.freePort h, State.beginNow_freePort]

theorem State.fenceUp_freePort (s : State) : s.freePort.fenceUp = s.fenceUp.freePort := by
  rw [State.fenceUp_eq, State.fenceUp_eq]
  exact foldl_freePort beginWaiting_freePort _ s.fenceRaised

theorem State.raiseFence_freePort (s : State) : s.freePort.raiseFence = s.raiseFence.freePort := by
  simp only [State.raiseFence, State.freePort_path, State.freePort_clipQueued, State.fenceUp_freePort]
  cases s.path.fence with
  | down =>
    dsimp only
    split_ifs <;> rfl
  | _ => rfl

theorem State.awaiting_freePort (s : State) (c : Fin 4) (st : Start) : s.freePort.awaiting c st = (s.awaiting c st).freePort := rfl

theorem State.requestBegin_eq (s : State) (c : Fin 4) (st : Start) : s.requestBegin c st =
    if s.path.fence = .up then s.beginNow c st .idle .begin_ else (s.awaiting c st).raiseFence := rfl

theorem State.requestBegin_freePort (s : State) (c : Fin 4) (st : Start) :
    s.freePort.requestBegin c st = (s.requestBegin c st).freePort := by
  simp only [State.requestBegin_eq, State.freePort_path, State.beginNow_freePort, State.awaiting_freePort,
    State.raiseFence_freePort]
  split_ifs <;> rfl

theorem State.handsOver_freePort (s : State) (c : Fin 4) (st : Start) :
    s.freePort.handsOver c st = (s.handsOver c st).freePort := by
  rw [State.handsOver, State.freePort_chan, State.setChan_freePort, State.tellOwner_freePort]
  rfl

theorem State.handout_freePort (s : State) (c : Fin 4) : s.freePort.handout c = (s.handout c).freePort := by
  cases h : bestStart (s.chan c).candidates with
  | some st => rw [State.handout_to h, State.handout_to (s := s.freePort) h, State.handsOver_freePort, State.requestBegin_freePort]
  | none =>
    simp only [State.handout, State.freePort_chan, h]
    rfl

theorem State.checkFence_freePort (s : State) : s.freePort.checkFence = s.checkFence.freePort := by
  exact ite_freePort (fun _ => rfl) fun _ => rfl

theorem State.useClosed_freePort (s : State) (c : Fin 4) (a : ChanCause) :
    s.freePort.useClosed c a = (s.useClosed c a).freePort := by
  simp only [State.useClosed, State.freePort_chan, State.release_freePort, State.tellOwner_freePort, State.putChan_freePort,
    State.logChan_freePort]

@[simp] theorem State.endUse_freePort (s : State) (c : Fin 4) (a : ChanCause) : s.freePort.endUse c a = (s.endUse c a).freePort := by
  rw [State.endUse_eq, State.endUse_eq, State.useClosed_freePort, State.handout_freePort, State.checkFence_freePort]

/-! ### The walk -/

theorem actMarker_freePort (c : Fin 4) (s : State) (m : Marker) : actMarker c s.freePort m = (actMarker c s m).freePort := by
  cases m <;> rfl

theorem State.enterLine_freePort (s : State) (c : Fin 4) (n : Nat) : s.freePort.enterLine c n = (s.enterLine c n).freePort :=
  State.requestLine_freePort (s.setChan c _) c (n + 1)

@[simp] theorem State.nextEntry_freePort (s : State) (c : Fin 4) : s.freePort.nextEntry c = (s.nextEntry c).freePort :=
  ite_freePort (fun _ => State.enterLine_freePort (s.setChan c _) c _) fun _ => rfl

@[simp] theorem State.attachMarker_freePort (s : State) (c : Fin 4) (m : Marker) :
    s.freePort.attachMarker c m = (s.attachMarker c m).freePort := by
  exact ite_freePort (fun _ => rfl) fun _ => actMarker_freePort c s m

@[simp] theorem State.listError_freePort (s : State) (c : Fin 4) (r : ListReason) :
    s.freePort.listError c r = (s.listError c r).freePort := by
  simp only [State.listError, State.freePort_chan, State.log_freePort, State.endUse_freePort]

theorem State.assignBlock_freePort (s : State) (c : Fin 4) (a n : Nat) :
    s.freePort.assignBlock c a n = (s.assignBlock c a n).freePort := by
  exact ite_freePort (fun _ => rfl) fun _ => State.nextEntry_freePort (s.setChan c _) c

theorem State.meetEnd_freePort (s : State) (c : Fin 4) : s.freePort.meetEnd c = (s.meetEnd c).freePort := by
  refine ite_freePort (fun _ => rfl) fun _ => ite_freePort (fun _ => rfl) fun _ => ?_
  exact ite_freePort (fun _ => State.endUse_freePort (s.setChan c _) c .finish) fun _ => rfl

theorem State.meetHold_freePort (s : State) (c : Fin 4) : s.freePort.meetHold c = (s.meetHold c).freePort := by
  simp only [State.meetHold, State.attachMarker_freePort, State.nextEntry_freePort, State.freePort_chan, State.setChan_freePort]

theorem State.takeEntry_freePort (s : State) (c : Fin 4) (e : ListEntry) :
    s.freePort.takeEntry c e = (s.takeEntry c e).freePort := by
  cases e with
  | clip a n =>
    exact ite_freePort (fun _ => s.nextEntry_freePort c) fun _ =>
      ite_freePort (fun _ => s.assignBlock_freePort c _ n) fun _ => s.listError_freePort c .clipOutside
  | mark t => simp only [State.takeEntry, State.freePort_chan, State.attachMarker_freePort, State.nextEntry_freePort]
  | hold => exact s.meetHold_freePort c
  | finish => exact s.meetEnd_freePort c
  | bad => exact s.listError_freePort c .badEntry

theorem walkFor_freePort (c : Fin 4) (m n : Nat) (s : State) : walkFor c m n s.freePort = (walkFor c m n s).freePort := by
  induction n generalizing s with
  | zero => rfl
  | succ n ih =>
    refine ite_freePort (fun _ => rfl) fun _ => ite_freePort (fun _ => s.listError_freePort c .noEnd) fun _ =>
      ite_freePort (fun _ => s.listError_freePort c .listOutside) fun _ => ?_
    rw [State.freePort_chan]
    cases (s.chan c).bufLine ((s.chan c).walk.entry / 4) with
    | none => rfl
    | some l =>
      dsimp only
      cases l.bytes with
      | none => exact s.listError_freePort c .listRead
      | some b => exact (congrArg (walkFor c m n) (s.takeEntry_freePort c _)).trans (ih _)

@[simp] theorem State.walk_freePort (s : State) (c : Fin 4) : s.freePort.walk c = (s.walk c).freePort := walkFor_freePort c _ _ s

/-! ### Block time -/

theorem advanceChan_freePort (s : State) (c : Fin 4) : advanceChan s.freePort c = (advanceChan s c).freePort := by
  simp only [advanceChan, State.freePort_chan, State.setChan_freePort, foldl_freePort (actMarker_freePort c),
    State.endUse_freePort, State.putChanState_freePort, State.walk_freePort]
  split_ifs <;> rfl

theorem State.channelTime_freePort (s : State) : s.freePort.channelTime = s.channelTime.freePort :=
  foldl_freePort advanceChan_freePort _ s

theorem handleChan_freePort (n : Nat) (s : State) (c : Fin 4) : handleChan n s.freePort c = (handleChan n s c).freePort := by
  rw [handleChan, State.stepGains_freePort, advanceChan_freePort, handleChan]

theorem State.blockTime_freePort (s : State) : s.freePort.blockTime = s.blockTime.freePort := by
  have hdrawn : ({ s.freePort with free := s.freePort.free + 1 } : State) = State.freePort { s with free := s.free + 1 } := rfl
  rw [State.blockTime, hdrawn, foldl_freePort (handleChan_freePort _), State.stepGains_freePort]
  rfl

theorem State.drawSight_freePort (s : State) : s.freePort.drawSight = s.drawSight.freePort :=
  ite_freePort (fun _ => rfl) fun _ => rfl

/-- What a view read sees does not depend on the burst on the memory port (R93). -/
theorem State.sight_freePort (s : State) : s.freePort.sight = s.sight.freePort := by
  have hgain : s.freePort.gainTime = s.gainTime.freePort := s.stepGains_freePort _
  refine ite_freePort (fun _ => ?_) fun _ => rfl
  rw [State.freePort_free, State.drawSight_freePort, State.blockTime_freePort, State.channelTime_freePort, hgain]
  cases Config.seesPlay s.free <;> cases Config.seesGain s.free <;> rfl

end Sys2Proof.Machine
end

section
/-! PROOFS. Served reads: with no mixing, and with the gain alone (chapters 02, 03, 05). -/

namespace Sys2Proof.Machine

variable {s t w z : State} {r : ReadTxn} {v : ViewRead} {c : Fin 4} {k : Fin 24}

/-! ### Half-samples (R94, R96) -/

theorem leftOf_stereo {a b : Int} (hlo : -32768 ≤ a) (hhi : a ≤ 32767) : leftOf (stereo a b) = a := by
  rw [leftOf, stereo, BitVec.extractLsb'_append_eq_right]
  exact BitVec.toInt_ofInt_eq_self (by decide) hlo (by omega)

theorem rightOf_stereo {a b : Int} (hlo : -32768 ≤ b) (hhi : b ≤ 32767) : rightOf (stereo a b) = b := by
  rw [rightOf, stereo, BitVec.extractLsb'_append_eq_left]
  exact BitVec.toInt_ofInt_eq_self (by decide) hlo (by omega)

theorem clamp16_range (x : Int) : -32768 ≤ clamp16 x ∧ clamp16 x ≤ 32767 := by
  unfold clamp16
  omega

theorem leftOf_mixWord (g a : Nat) (x y : Word) :
    leftOf (mixWord g a x y) = max (-32768) (min 32767 ((leftOf x * g + leftOf y * a + 16384) / 32768)) :=
  leftOf_stereo (clamp16_range _).1 (clamp16_range _).2

theorem rightOf_mixWord (g a : Nat) (x y : Word) :
    rightOf (mixWord g a x y) = max (-32768) (min 32767 ((rightOf x * g + rightOf y * a + 16384) / 32768)) :=
  rightOf_stereo (clamp16_range _).1 (clamp16_range _).2

/-- The range of a half-sample. -/
def inRange (x : Int) : Prop := -32768 ≤ x ∧ x ≤ 32767

theorem toInt_inRange (b : BitVec 16) : inRange b.toInt := by
  have hlo := b.le_toInt
  have hhi := b.toInt_lt
  unfold inRange
  omega

theorem leftOf_inRange (x : Word) : inRange (leftOf x) := toInt_inRange _

theorem rightOf_inRange (x : Word) : inRange (rightOf x) := toInt_inRange _

/-- A half-sample stays in range under a gain of at most 1. -/
theorem inRange.scaled {x : Int} (h : inRange x) {g : Nat} (hg : g ≤ 32768) : inRange ((x * g + 16384) / 32768) := by
  obtain ⟨hlo, hhi⟩ := h
  have hgain : (0 : Int) ≤ g := Int.natCast_nonneg g
  have hlow : -32768 * (g : Int) ≤ x * g := Int.mul_le_mul_of_nonneg_right hlo hgain
  have hhigh : x * (g : Int) ≤ 32767 * g := Int.mul_le_mul_of_nonneg_right hhi hgain
  unfold inRange
  omega

theorem gainWords_length (g : Nat) (xs : List Word) : (gainWords g xs).length = xs.length := List.length_map ..

theorem gainWords_get (g : Nat) (xs : List Word) {i : Nat} (h : i < xs.length) :
    (gainWords g xs).getD i 0 = mixWord g 0 (xs.getD i 0) 0 := by
  simp [gainWords, List.getD_eq_getElem?_getD, h]

/-- Gain alone is the mixing with no words. -/
theorem gainWords_mixedTo (g : Nat) (xs : List Word) : MixedTo g 0 xs [] (gainWords g xs) := by
  refine ⟨gainWords_length g xs, fun i hi => ?_⟩
  rw [gainWords_get g xs hi, leftOf_mixWord, rightOf_mixWord]
  simp

theorem gainWords_values {g : Nat} (hg : g ≤ 32768) (xs : List Word) {i : Nat} (h : i < xs.length) {x : Word}
    (hx : x = xs.getD i 0) :
    leftOf ((gainWords g xs).getD i 0) = (leftOf x * g + 16384) / 32768 ∧
      rightOf ((gainWords g xs).getD i 0) = (rightOf x * g + 16384) / 32768 ∧
      inRange ((leftOf x * g + 16384) / 32768) ∧ inRange ((rightOf x * g + 16384) / 32768) := by
  have hleft := (leftOf_inRange x).scaled hg
  have hright := (rightOf_inRange x).scaled hg
  rw [gainWords_get g xs h, ← hx, leftOf_mixWord, rightOf_mixWord]
  have hzero (y : Int) : y * g + 0 * ((0 : Nat) : Int) + 16384 = y * g + 16384 := by omega
  have hl : leftOf 0 = 0 := by decide
  have hr : rightOf 0 = 0 := by decide
  rw [hl, hr, hzero, hzero]
  unfold inRange at *
  omega

theorem Memory.burst_length (m : Memory) (a n : Nat) : (Memory.burst m a n).length = n := by
  simp [Memory.burst]

/-! ### The completion of a served read (R53) -/

theorem State.serves.complete (h : s.serves r) (err : Bool) : s.complete err = s.freePort := by
  obtain ⟨-, hport, -⟩ := h
  have hcells : s.portCells = [] := by simp [State.portCells, hport]
  unfold State.complete
  rw [hcells]
  cases err <;> rfl

theorem State.serves.readOnPort (h : s.serves r) : s.readOnPort = some r := by
  obtain ⟨-, hport, htxn⟩ := h
  simp [State.readOnPort, hport, htxn]

theorem State.serves.exec (h : s.serves r) (err : Bool) : exec (.readServed err) s = .next (s.serveRead err).settle :=
  exec_effect rfl rfl h.1 (by simp [State.effect, h.readOnPort])

theorem State.serves.serveRead (h : s.serves r) : s.serveRead false =
    s.freePort.serveWords r (Memory.burst s.mem r.memAddr r.burst.len) := by
  rw [State.serveRead, h.readOnPort]
  exact congrArg (fun u : State => u.serveWords r (Memory.burst s.mem r.memAddr r.burst.len)) (h.complete false)

/-- The state in which a view read is mixed. -/
def State.reading (s : State) : State := s.freePort.drawSight

theorem State.reading_frame (s : State) : Frame [.draws] s s.reading :=
  (s.freePort_frame.mono (by simp)).trans s.freePort.drawSight_frame

theorem State.reading_free (h : s.eventDue = false) : s.reading.free = s.free := by
  rw [State.reading, (s.freePort.sight_of_not_due h).2]
  rfl

/-- A view read of RUNNING goes through the mixer, which sees what this state sees (R22, R53, R93). -/
theorem State.serves.mixed (h : s.serves r) (hv : r.view = some v) (hm : r.mixed = true) (hrun : s.plan.partState = .running) :
    s.serveRead false = (s.reading.mixView s.sight v (Memory.burst s.mem r.memAddr r.burst.len)).1.respond
      (.data (s.reading.mixView s.sight v (Memory.burst s.mem r.memAddr r.burst.len)).2) := by
  have hsees (u : State) (xs : List Word) : u.mixView s.freePort.sight v xs = u.mixView s.sight v xs := by
    rw [State.sight_freePort]
    rfl
  rw [h.serveRead, State.serveWords, hv, ← hsees]
  exact if_pos (by rw [hm, State.freePort_plan, hrun]; rfl)

theorem State.serves.unmixed (h : s.serves r) (hno : ∀ v, r.view = some v → r.mixed = false ∨ s.plan.partState ≠ .running) :
    s.serveRead false = s.freePort.respond (.data (Memory.burst s.mem r.memAddr r.burst.len)) := by
  rw [h.serveRead, State.serveWords]
  cases hv : r.view with
  | none => rfl
  | some v =>
    refine if_neg ?_
    rw [State.freePort_plan]
    rcases hno v hv with hm | hp
    · simp [hm]
    · simp [hp]

/-- The words `ys` are the answer of the read, from a state `w` that the mixer leaves. -/
def State.reply (w : State) (ys : List Word) : State := (w.respond (.data ys)).settle

theorem State.reply_answer (w : State) (ys : List Word) : (w.reply ys).path.txn = none ∧
    (w.reply ys).path.response = some (.data ys) ∧ (w.reply ys).free = w.free :=
  ⟨Option.map_eq_none_iff.mp (w.respond (.data ys)).settle_txn, State.settle_response _, State.settle_free _⟩

theorem State.reply_playout (w : State) (ys : List Word) (d : Fin 4) : ((w.reply ys).chan d).still = (w.chan d).still ∧
    (w.reply ys).armed d = w.armed d := by
  refine ⟨?_, ?_⟩
  · rw [State.reply, State.settle_still]
    rfl
  · rw [State.reply, State.settle_armed]
    rfl

theorem State.reply_logNow (w : State) (ys : List Word) : (w.reply ys).logNow = w.logNow := State.settle_logNow _

theorem State.reply_frame {l : List Part} (ys : List Word) (hw : Frame l s w) :
    Frame ([.transaction, .response] ++ l) s (w.reply ys) :=
  ((hw.mono (by simp +contextual)).trans ((State.respond_frame _ _).mono (by simp))).settled

theorem State.serves.replies {ys : List Word} (h : s.serves r) (hread : s.serveRead false = w.respond (.data ys)) :
    Machine.exec (.readServed false) s = .next (w.reply ys) := by
  rw [h.exec false, hread]
  rfl

/-! ### What a read sees (R93) -/

theorem State.sight_sec (s : State) (k : Fin 24) : s.sight.sec k = s.sec k := by
  obtain ⟨p, m, h⟩ := s.sight_eq
  rw [h]
  rfl

theorem State.sight_prog (s : State) (p : Fin 6) : s.sight.prog p = s.prog p := by
  obtain ⟨p, m, h⟩ := s.sight_eq
  rw [h]
  rfl

theorem reached_iff (d : Option Nat) (now : Nat) : reached d now = true ↔ ∃ x, d = some x ∧ x ≤ now := by
  cases d <;> simp [reached]

theorem State.eventDue_iff (s : State) : s.eventDue = true ↔
    (s.tracker.timing = .locked ∧ ∃ d, s.tracker.watchdog = some d ∧ d ≤ s.now) ∨
      (s.tracker.timing = .freeRun ∧ ∃ d, s.tracker.nextFree = some d ∧ d ≤ s.now) := by
  simp only [State.eventDue, State.watchdogDue, State.freeRunDue, Bool.or_eq_true, Bool.and_eq_true, decide_eq_true_eq,
    reached_iff]

theorem State.gainTime_steps (s : State) : Frame [.breakIns] s s.gainTime ∧ ∀ k, s.gainTime.brk k = (stepSection s k).brk k := by
  refine ⟨s.stepGains_frame _, fun k => ?_⟩
  have hall : has (BitVec.allOnes 24) k = true := (BitVec.getLsbD_allOnes ..).trans (decide_eq_true k.isLt)
  rw [State.gainTime, State.stepGains_brk, if_pos hall, stepSection, State.putBrk_brk]

theorem State.sight_of_due (h : s.eventDue = true) : ∃ z, s.sight = { s with playout := z.playout, mixer := z.mixer } ∧
    (z = s ∨ z = (List.finRange 4).foldl advanceChan s ∨
      (Frame [.breakIns] s z ∧ ∀ k, z.brk k = (stepSection s k).brk k) ∨ z = { s with free := s.free + 1 }.blockTime) := by
  have hdraw : s.drawSight = { s with free := s.free + 1 } := if_pos h
  unfold State.sight
  rw [if_pos h, hdraw]
  refine ⟨_, rfl, ?_⟩
  cases Config.seesPlay s.free with
  | true =>
    cases Config.seesGain s.free with
    | true => exact .inr (.inr (.inr rfl))
    | false => exact .inr (.inl rfl)
  | false =>
    cases Config.seesGain s.free with
    | true => exact .inr (.inr (.inl s.gainTime_steps))
    | false => exact .inl rfl

/-! ### The cases of the mixer (R93, R94) -/

theorem State.mixView_disabled (s : State) (xs : List Word) (h : (z.sec v.sec).state = .disabled) : s.mixView z v xs = (s, xs) :=
  if_pos h

theorem State.mixView_clear (s : State) (xs : List Word) (h : (z.brk v.sec).st = .clear) : s.mixView z v xs = (s, xs) := by
  unfold State.mixView
  dsimp only
  split
  · rfl
  · rw [h]

theorem State.mixView_gain (s : State) (xs : List Word) (hsec : (z.sec v.sec).state ≠ .disabled)
    (h : (z.brk v.sec).st = .settling ∨ (z.brk v.sec).st = .restoring) :
    s.mixView z v xs = (s, gainWords (z.brk v.sec).gain xs) := by
  refine (if_neg hsec).trans ?_
  rcases h with h | h <;> rw [h]

theorem State.mixView_announcing (s : State) (xs : List Word) (hsec : (z.sec v.sec).state ≠ .disabled)
    (h : (z.brk v.sec).st = .announcing) (hc : (z.brk v.sec).active = some c) :
    s.mixView z v xs = s.mixAnnounced z v c (z.brk v.sec).gain xs := by
  refine (if_neg hsec).trans ?_
  rw [h, hc]

/-- Settles O35: what a read sees, the answer after an error, and the answer with no mixing. -/
theorem readServedUnmixed : Obligations.ReadServedUnmixed := by
  refine ⟨fun s => ⟨s.eventDue_iff, fun h => (s.sight_of_not_due h).1, State.sight_of_due⟩, fun r s h => ⟨?_, fun hno => ?_⟩⟩
  · have hread : s.serveRead true = (s.freePort.respond .error).burstError .pass r.memAddr 0 := by
      rw [State.serveRead, h.readOnPort]
      exact congrArg (fun u : State => (u.respond .error).burstError .pass r.memAddr 0) (h.complete true)
    have hexec := h.exec true
    have hanswer : Frame [.transaction, .response] s (s.freePort.respond .error) :=
      (s.freePort_frame.mono (by simp)).trans (State.respond_frame _ _)
    obtain ⟨hlog, herrors⟩ := s.errorEnd _ .pass r.memAddr 0 true hanswer rfl
    rw [if_pos rfl, ← hread] at hlog herrors
    refine ⟨_, hexec, ?_, ?_, by rw [State.settle_memErrors, herrors], by rw [State.settle_logNow, hlog], ?_⟩
    · have htxn : (s.serveRead true).path.txn = none := by rw [hread]; rfl
      have hsettled := (s.serveRead true).settle_txn
      rw [htxn] at hsettled
      exact Option.map_eq_none_iff.mp hsettled
    · rw [State.settle_response, hread]
      rfl
    · rw [hread]
      exact ((hanswer.wide rfl).trans ((State.burstError_frame _ _ _ _).wide rfl)).settled
  · by_cases hmix : ∀ v, r.view = some v → r.mixed = false ∨ s.plan.partState ≠ .running
    · obtain ⟨htxn, hresp, hfree⟩ := s.freePort.reply_answer (Memory.burst s.mem r.memAddr r.burst.len)
      exact ⟨_, h.replies (h.unmixed hmix), htxn, hresp, fun _ => hfree, (State.reply_frame _ s.freePort_frame).mono (by simp)⟩
    · push Not at hmix
      obtain ⟨v, hv, hm, hrun⟩ := hmix
      have hm : r.mixed = true := by simpa using hm
      have hbypass (xs : List Word) : s.reading.mixView s.sight v xs = (s.reading, xs) := by
        rcases hno v hv with h1 | h2 | h3 | h4
        · rw [hm] at h1; cases h1
        · exact absurd hrun h2
        · exact State.mixView_disabled _ _ (by rw [State.sight_sec, h3])
        · exact State.mixView_clear _ _ h4
      have hread := h.mixed hv hm hrun
      rw [hbypass] at hread
      obtain ⟨htxn, hresp, hfree⟩ := s.reading.reply_answer (Memory.burst s.mem r.memAddr r.burst.len)
      exact ⟨_, h.replies hread, htxn, hresp, fun hdue => hfree.trans (State.reading_free hdue),
        (State.reply_frame _ s.reading_frame).mono (by simp)⟩

/-- Settles O36: the gain alone, in range without a clamp. -/
theorem gainOnlyRead : Obligations.GainOnlyRead := by
  intro r v b s h hv hm hrun hsec hb hst hgain
  have hread := h.mixed hv hm hrun
  have hlen := Memory.burst_length s.mem r.memAddr r.burst.len
  generalize Memory.burst s.mem r.memAddr r.burst.len = xs at hread hlen
  rw [State.mixView_gain _ _ (by rw [State.sight_sec]; exact hsec) (by rw [hb]; exact hst), hb] at hread
  obtain ⟨htxn, hresp, hfree⟩ := s.reading.reply_answer (gainWords b.gain xs)
  refine ⟨_, gainWords b.gain xs, h.replies hread, htxn, hresp, by rw [gainWords_length, hlen], fun i x hi hx => ?_,
    fun hdue => hfree.trans (State.reading_free hdue), (State.reply_frame _ s.reading_frame).mono (by simp)⟩
  obtain ⟨hleft, hright, ⟨hllo, hlhi⟩, hrlo, hrhi⟩ := gainWords_values hgain xs (hlen.symm ▸ hi) hx
  exact ⟨hleft, hright, hllo, hlhi, hrlo, hrhi⟩

end Sys2Proof.Machine
end

section
/-! PROOFS. A view read served for an ANNOUNCING section (chapter 05: Mixing a view read). -/

namespace Sys2Proof.Machine

variable {s t w z : State} {r : ReadTxn} {v : ViewRead} {c d : Fin 4} {k : Fin 24} {u : Int} {ch : Chan}

/-! ### The cases of an announcement index (R95) -/

theorem Chan.annCase_before (ch : Chan) (h : u < 0) : ch.annCase u = .silence := if_pos h

theorem Chan.annCase_late (h0 : 0 ≤ u) (h : u < ch.i - 8) : ch.annCase u = .late :=
  (if_neg (by omega)).trans (if_pos h)

theorem Chan.annCase_slot (h0 : 0 ≤ u) (h : ch.i - 8 ≤ u) : ch.annCase u =
    match (ch.slot u).st with
    | .ready => .ready (ch.slot u)
    | .silent => .silence
    | st => .unready st :=
  (if_neg (by omega)).trans (if_neg (by omega))

theorem Chan.annCase_silent (h : ch.i - 8 ≤ u) (hst : (ch.slot u).st = .silent) : ch.annCase u = .silence := by
  by_cases h0 : 0 ≤ u
  · rw [Chan.annCase_slot h0 h, hst]
  · exact ch.annCase_before (by omega)

theorem Chan.annCase_ready (h0 : 0 ≤ u) (h : ch.i - 8 ≤ u) (hst : (ch.slot u).st = .ready) :
    ch.annCase u = .ready (ch.slot u) := by
  rw [Chan.annCase_slot h0 h, hst]

theorem Chan.annCase_unready (h0 : 0 ≤ u) (h : ch.i - 8 ≤ u)
    (hst : (ch.slot u).st = .empty ∨ (ch.slot u).st = .fetching ∨ (ch.slot u).st = .bad) :
    ch.annCase u = .unready (ch.slot u).st := by
  rw [Chan.annCase_slot h0 h]
  rcases hst with hst | hst | hst <;> rw [hst]

/-! ### The words of a mixed read (R96, R97) -/

theorem mixWords_mixedTo (g a : Nat) {xs ws : List Word} (h : ws.length = xs.length) : MixedTo g a xs ws (mixWords g a xs ws) := by
  refine ⟨by simp [mixWords, h], fun i hi => ?_⟩
  have hget : (mixWords g a xs ws).getD i 0 = mixWord g a (xs.getD i 0) (ws.getD i 0) := by
    have hw : i < ws.length := h.symm ▸ hi
    simp [mixWords, List.getD_eq_getElem?_getD, hi, hw]
  rw [hget]
  exact ⟨leftOf_mixWord _ _ _ _, rightOf_mixWord _ _ _ _⟩

/-- What a read that misses is given (R97). -/
def missWords (p : Policy) (g : Nat) (xs : List Word) : List Word :=
  match p with
  | .silence => gainWords g xs
  | .pass => xs

theorem missWords_cases (p : Policy) (g : Nat) (xs : List Word) :
    (p = .silence → MixedTo g 0 xs [] (missWords p g xs)) ∧ (p = .pass → missWords p g xs = xs) := by
  refine ⟨?_, ?_⟩
  · rintro rfl
    exact gainWords_mixedTo g xs
  · rintro rfl
    rfl

/-! ### The counters and the miss state (R96 to R98) -/

theorem State.countClipped_spec (s : State) (c : Fin 4) (any : Bool) :
    (s.countClipped c any).chan c = { s.chan c with
      saturations := if any then bump (s.chan c).saturations else (s.chan c).saturations } ∧
    (∀ d, d ≠ c → (s.countClipped c any).chan d = s.chan d) ∧ ∀ d, (s.countClipped c any).armed d = s.armed d := by
  cases any with
  | false => exact ⟨rfl, fun _ _ => rfl, fun _ => rfl⟩
  | true =>
    refine ⟨State.chan_setChan _ _ _, fun d hd => State.chan_setChan_ne _ _ (Ne.symm hd), fun _ => rfl⟩

theorem State.armed_setArmed_other (s : State) (b : Bool) (h : d ≠ c) : (s.setArmed c b).armed d = s.armed d := by
  simp [State.armed, State.setArmed, Table.get_set_ne _ _ (Ne.symm h)]

/-- The channel record after a miss (R97). -/
def Chan.missed (ch : Chan) (late : Bool) : Chan :=
  if late then { ch with lateReads := bump ch.lateReads } else { ch with underruns := bump ch.underruns }

/-- The first detail word of UNDERRUN (R98). -/
def missWord (k : Fin 24) (x : Int) (reason code : Nat) : Word :=
  BitVec.ofNat 32 ((x % 65536).toNat + 65536 * (k.val + 256 * (reason + 16 * code)))

theorem missWord_toNat (k : Fin 24) (x : Int) {reason code : Nat} (hr : reason ≤ 2) (hc : code ≤ 4) :
    (missWord k x reason code).toNat = (x % 65536).toNat + 65536 * k.val + 16777216 * (reason + 16 * code) := by
  have hk := k.isLt
  rw [missWord, BitVec.toNat_ofNat, Nat.mod_eq_of_lt (by omega)]
  omega

theorem SlotState.code_le (st : SlotState) : st.code ≤ 4 := by cases st <;> decide

/-- The state after a miss, before its record (R97). -/
def State.missing (s : State) (c : Fin 4) (late : Bool) : State :=
  ((s.setChan c ((s.chan c).missed late)).markIf (if late then (s.chan c).lateReads != bump (s.chan c).lateReads
    else (s.chan c).underruns != bump (s.chan c).underruns) (mirrorOfChan c)).setArmed c false

theorem State.missing_spec (s : State) (c : Fin 4) (late : Bool) : (s.missing c late).chan c = (s.chan c).missed late ∧
    (s.missing c late).armed c = false ∧
    (∀ d, d ≠ c → (s.missing c late).chan d = s.chan d ∧ (s.missing c late).armed d = s.armed d) ∧
    Frame [.channels, .missStates] s (s.missing c late) := by
  refine ⟨State.chan_setChan _ _ _, by rw [State.missing, State.armed_setArmed], fun d hd => ⟨State.chan_setChan_ne _ _ (Ne.symm hd), ?_⟩, ?_⟩
  · rw [State.missing, State.armed_setArmed_other _ _ hd]
    rfl
  · exact (((s.setChan_frame c _).wide rfl).trans ((State.markIf_frame _ _ _).mono (by simp))).trans
      ((State.setArmed_frame _ _ _).wide rfl)

theorem State.miss_eq (s z : State) (c : Fin 4) (k : Fin 24) (u : Int) (late : Bool) (code : Nat) :
    s.miss z c k u late code = if z.armed c then (s.missing c late).log .underrun c.val
      (missWord k (u - (z.chan c).i) (if late then 1 else 2) code) (wInt (z.chan c).i) else s.missing c late := rfl

theorem State.miss_spec (s z : State) (c : Fin 4) (k : Fin 24) (u : Int) (late : Bool) (code : Nat) :
    (s.miss z c k u late code).chan c = (s.chan c).missed late ∧ (s.miss z c k u late code).armed c = false ∧
    (∀ d, d ≠ c → (s.miss z c k u late code).chan d = s.chan d ∧ (s.miss z c k u late code).armed d = s.armed d) ∧
    (z.armed c = false → (s.miss z c k u late code).logNow = s.logNow) ∧
    (z.armed c = true → (s.miss z c k u late code).logNow = s.logged
      [s.record .underrun c.val (missWord k (u - (z.chan c).i) (if late then 1 else 2) code) (wInt (z.chan c).i)]) := by
  obtain ⟨hchan, harmed, hother, hframe⟩ := s.missing_spec c late
  rw [State.miss_eq]
  cases z.armed c with
  | false => exact ⟨hchan, harmed, hother, fun _ => hframe.logNow rfl rfl, nofun⟩
  | true =>
    refine ⟨hchan, harmed, hother, nofun, fun _ => ?_⟩
    rw [if_pos rfl, State.log_logNow, hframe.logged rfl]
    simp only [State.record, show (s.missing c late).now = s.now from hframe.same .timebase rfl]

/-! ### The announcement mixed (R95 to R97) -/

/-- The announcement index of a view read in the state it sees (R95). -/
def State.annAt (z : State) (v : ViewRead) (c : Fin 4) : Int :=
  annIndex v.pos ((z.chan c).startPos.get v.prog) (z.prog v.prog).ringLen (z.chan c).i

theorem State.mixAnnounced_silence (s : State) {g : Nat} {xs : List Word} (h : (z.chan c).annCase (z.annAt v c) = .silence) :
    s.mixAnnounced z v c g xs = (s, gainWords g xs) := by
  unfold State.mixAnnounced
  rw [State.annAt] at h
  simp only [h]

theorem State.mixAnnounced_ready (s : State) {g : Nat} {xs : List Word} {sl : Slot}
    (h : (z.chan c).annCase (z.annAt v c) = .ready sl) : s.mixAnnounced z v c g xs =
      ((s.countClipped c (anyClipped g (z.chan c).use.ann xs (v.frames.map sl.frame))).setArmed c true,
        mixWords g (z.chan c).use.ann xs (v.frames.map sl.frame)) := by
  unfold State.mixAnnounced
  rw [State.annAt] at h
  simp only [h]

theorem State.mixAnnounced_late (s : State) {g : Nat} {xs : List Word} (h : (z.chan c).annCase (z.annAt v c) = .late) :
    s.mixAnnounced z v c g xs = (s.miss z c v.sec (z.annAt v c) true 0, missWords (z.chan c).use.policy g xs) := by
  unfold State.mixAnnounced
  rw [State.annAt] at h
  simp only [h]
  rfl

theorem State.mixAnnounced_unready (s : State) {g : Nat} {xs : List Word} {st : SlotState}
    (h : (z.chan c).annCase (z.annAt v c) = .unready st) :
    s.mixAnnounced z v c g xs = (s.miss z c v.sec (z.annAt v c) false st.code, missWords (z.chan c).use.policy g xs) := by
  unfold State.mixAnnounced
  rw [State.annAt] at h
  simp only [h]
  rfl

/-- No other channel's record or miss state is changed. -/
theorem State.mixAnnounced_others (s z : State) (v : ViewRead) (g : Nat) (xs : List Word) (hd : d ≠ c) :
    (s.mixAnnounced z v c g xs).1.chan d = s.chan d ∧ (s.mixAnnounced z v c g xs).1.armed d = s.armed d := by
  cases h : (z.chan c).annCase (z.annAt v c) with
  | silence =>
    rw [State.mixAnnounced_silence s h]
    exact ⟨rfl, rfl⟩
  | ready sl =>
    obtain ⟨-, hchan, harmed⟩ := s.countClipped_spec c (anyClipped g (z.chan c).use.ann xs (v.frames.map sl.frame))
    rw [State.mixAnnounced_ready s h]
    exact ⟨hchan d hd, (State.armed_setArmed_other _ _ hd).trans (harmed d)⟩
  | late =>
    obtain ⟨-, -, hother, -⟩ := s.miss_spec z c v.sec (z.annAt v c) true 0
    rw [State.mixAnnounced_late s h]
    exact hother d hd
  | unready st =>
    obtain ⟨-, -, hother, -⟩ := s.miss_spec z c v.sec (z.annAt v c) false st.code
    rw [State.mixAnnounced_unready s h]
    exact hother d hd

theorem State.mixAnnounced_frame (s z : State) (v : ViewRead) (c : Fin 4) (g : Nat) (xs : List Word) :
    Frame [.channels, .missStates, .logQueue, .lostCount] s (s.mixAnnounced z v c g xs).1 := by
  cases h : (z.chan c).annCase (z.annAt v c) with
  | silence => rw [State.mixAnnounced_silence s h]; exact Frame.refl _ s
  | ready sl =>
    rw [State.mixAnnounced_ready s h]
    exact ((s.countClipped_frame c _).wide rfl).trans ((State.setArmed_frame _ _ _).wide rfl)
  | late => rw [State.mixAnnounced_late s h]; exact s.miss_frame z c _ _ _ _
  | unready st => rw [State.mixAnnounced_unready s h]; exact s.miss_frame z c _ _ _ _

theorem State.reading_same (s : State) : (∀ d, s.reading.chan d = s.chan d) ∧ (∀ d, s.reading.armed d = s.armed d) := by
  unfold State.reading State.drawSight
  split <;> exact ⟨fun _ => rfl, fun _ => rfl⟩

/-- A missed read: what it counts and logs (R97, R98). -/
theorem State.reading_missed (s z : State) (c : Fin 4) (k : Fin 24) (u : Int) (late : Bool) {code : Nat} (hc : code ≤ 4)
    (ys : List Word) :
    (((s.reading.miss z c k u late code).reply ys).chan c).still = ((s.chan c).missed late).still ∧
    ((s.reading.miss z c k u late code).reply ys).armed c = false ∧
    (z.armed c = false → ((s.reading.miss z c k u late code).reply ys).logNow = s.logNow) ∧
    (z.armed c = true → ∃ d, ((s.reading.miss z c k u late code).reply ys).logNow =
        s.logged [s.record .underrun c.val d (wInt (z.chan c).i)] ∧
      d.toNat = ((u - (z.chan c).i) % 65536).toNat + 65536 * k.val + 16777216 * ((if late then 1 else 2) + 16 * code)) ∧
    Frame [.draws, .transaction, .response, .channels, .missStates, .logQueue, .lostCount] s
      ((s.reading.miss z c k u late code).reply ys) := by
  obtain ⟨hchan, harmed, -, hquiet, hlogged⟩ := s.reading.miss_spec z c k u late code
  obtain ⟨hstill, harms⟩ := (s.reading.miss z c k u late code).reply_playout ys c
  have hframe := s.reading_frame.wide (m := [.draws, .channels, .missStates, .logQueue, .lostCount]) rfl |>.trans
    ((s.reading.miss_frame z c k u late code).wide rfl)
  refine ⟨?_, harms.trans harmed, fun h => ?_, fun h => ⟨missWord k (u - (z.chan c).i) (if late then 1 else 2) code, ?_, ?_⟩, ?_⟩
  · rw [hstill, hchan, s.reading_same.1 c]
  · rw [State.reply_logNow, hquiet h, s.reading_frame.logNow rfl rfl]
  · rw [State.reply_logNow, hlogged h, s.reading_frame.logged rfl]
    simp only [State.record, show s.reading.now = s.now from s.reading_frame.same .timebase rfl]
  · exact missWord_toNat k _ (by cases late <;> decide) hc
  · exact (State.reply_frame ys hframe).mono (by simp)

/-- Settles O37: the cases of the announcement index, in the one state that the read sees. -/
theorem announcedRead : Obligations.AnnouncedRead := by
  intro r v c ch sl u g xs s z hz h hv hm hrun hsec hst hc hg hch hu hsl hxs hframes
  have hread := h.mixed hv hm hrun
  have hseen : z.annAt v c = u := by
    rw [State.annAt, hch, hz, State.sight_prog, hu]
    rfl
  have hslot : ch.slot u = sl := hsl
  rw [← hxs, ← hz, State.mixView_announcing _ _ (by rw [hz, State.sight_sec]; exact hsec) hst hc, hg] at hread
  have hlen : (v.frames.map sl.frame).length = xs.length := by rw [List.length_map, hframes, hxs, Memory.burst_length]
  have hothers (d : Fin 4) (hd : d ≠ c) := s.reading.mixAnnounced_others z v g xs hd
  have hfree : (s.reading.mixAnnounced z v c g xs).1.free = s.reading.free :=
    (s.reading.mixAnnounced_frame z v c g xs).same .draws rfl
  obtain ⟨hchans, harmeds⟩ := s.reading_same
  obtain ⟨htxn, hresp, hdrawn⟩ := (s.reading.mixAnnounced z v c g xs).1.reply_answer (s.reading.mixAnnounced z v c g xs).2
  have hplayout := (s.reading.mixAnnounced z v c g xs).1.reply_playout (s.reading.mixAnnounced z v c g xs).2
  refine ⟨_, _, h.replies hread, htxn, hresp, fun hdue => by rw [hdrawn, hfree, State.reading_free hdue], fun d hd => ?_,
    fun hsilent => ?_, fun h0 h8 hready => ?_, fun h0 hlate => ?_, fun h0 h8 hun => ?_⟩
  · obtain ⟨hchan, harmed⟩ := hothers d hd
    obtain ⟨hstill, harms⟩ := hplayout d
    rw [hstill, harms, hchan, harmed, hchans, harmeds]
    exact ⟨rfl, rfl⟩
  · have hcase : (z.chan c).annCase (z.annAt v c) = .silence := by
      rw [hseen, hch]
      rcases hsilent with hneg | ⟨h8, hsilent⟩
      · exact ch.annCase_before hneg
      · exact Chan.annCase_silent h8 (by rw [hslot, hsilent])
    rw [State.mixAnnounced_silence _ hcase]
    exact ⟨gainWords_mixedTo g xs, (State.reply_frame _ s.reading_frame).mono (by simp)⟩
  · have hcase : (z.chan c).annCase (z.annAt v c) = .ready sl := by
      rw [hseen, hch, ← hslot]
      exact Chan.annCase_ready h0 h8 (by rw [hslot, hready])
    obtain ⟨hchan, -, -⟩ := s.reading.countClipped_spec c (anyClipped g ch.use.ann xs (v.frames.map sl.frame))
    obtain ⟨hstill, harms⟩ := hplayout c
    have hframe := (s.reading_frame.wide (m := [.draws, .channels, .missStates]) rfl).trans
      (((s.reading.countClipped_frame c (anyClipped g ch.use.ann xs (v.frames.map sl.frame))).wide rfl).trans
        ((State.setArmed_frame _ c true).wide rfl))
    rw [State.mixAnnounced_ready _ hcase, hch] at hstill harms ⊢
    refine ⟨mixWords_mixedTo g ch.use.ann hlen, harms.trans (State.armed_setArmed _ _ _), ?_,
      (State.reply_frame _ hframe).mono (by simp)⟩
    rw [hstill, State.chan_setArmed, hchan, hchans]
    rfl
  · have hcase : (z.chan c).annCase (z.annAt v c) = .late := by
      rw [hseen, hch]
      exact Chan.annCase_late h0 hlate
    rw [State.mixAnnounced_late _ hcase, hseen, hch]
    obtain ⟨hsilence, hpass⟩ := missWords_cases ch.use.policy g xs
    obtain ⟨hchan, harmed, hquiet, hlogged, hframe⟩ := s.reading_missed z c v.sec u true (code := 0) (by decide)
      (missWords ch.use.policy g xs)
    rw [hch] at hlogged
    exact ⟨hsilence, hpass, hchan, harmed, hquiet, hlogged, hframe⟩
  · have hcase : (z.chan c).annCase (z.annAt v c) = .unready sl.st := by
      rw [hseen, hch, ← hslot]
      exact Chan.annCase_unready h0 h8 (by rw [hslot]; exact hun)
    rw [State.mixAnnounced_unready _ hcase, hseen, hch]
    obtain ⟨hsilence, hpass⟩ := missWords_cases ch.use.policy g xs
    obtain ⟨hchan, harmed, hquiet, hlogged, hframe⟩ := s.reading_missed z c v.sec u false sl.st.code_le
      (missWords ch.use.policy g xs)
    rw [hch] at hlogged
    exact ⟨hsilence, hpass, hchan, harmed, hquiet, hlogged, hframe⟩

end Sys2Proof.Machine
end
